-- ==== Sys2Proof/Word.lean ====
section
/-!
DEFINITION. The word types of the device and their plainest arithmetic: bytes, 32-bit and 64-bit words (00_scope R6),
the 48-bit counters (15 R427) and saturating increments.
-/
namespace Sys2Proof

/-- One byte. -/
abbrev Byte := BitVec 8
/-- A 32-bit register or field word. -/
abbrev W32 := BitVec 32
/-- A 64-bit register, descriptor or record word. -/
abbrev W64 := BitVec 64
/-- An FP32 value as its bits (03 R62). -/
abbrev F32 := BitVec 32
/-- A 48-bit counter, counting modulo 2^48 (15 R427). -/
abbrev Ctr := BitVec 48

/-- A table of entries by number, in one canonical form: keys strictly rising, and no entry equal to the table's
default (an absent key reads as the default). -/
abbrev SMap (α : Type) := List (Nat × α)

/-- Add one, staying at the top value ("saturating" in the register tables). -/
def satInc {w : Nat} (x : BitVec w) : BitVec w :=
  if x = BitVec.allOnes w then x else x + 1

/-- Add with saturation at the top value (11 R338). -/
def satAdd {w : Nat} (x y : BitVec w) : BitVec w :=
  if x.toNat + y.toNat < 2 ^ w then x + y else BitVec.allOnes w

end Sys2Proof
end

