-- ==== Sys2Proof/Wire.lean ====
section
/-!
DEFINITION. The shapes in which things reach the device from outside: a descriptor (11 Table 11.4), a flit (09 Table 9.2),
a fabric message (09 Table 9.5), a vote frame (09 Table 9.8), and what an error check or a monitor found.
-/
namespace Sys2Proof

/-- A 64-byte descriptor: its eight little-endian words (11 R328). -/
structure Desc where
  w0 : W64
  w1 : W64
  w2 : W64
  w3 : W64
  w4 : W64
  w5 : W64
  w6 : W64
  w7 : W64
  deriving DecidableEq, Repr

/-- The body of a vote frame (09 Table 9.8) with the STEP of its message header. -/
structure VoteFrame where
  step : W64
  domainId : BitVec 16
  mismatch : Bool
  policyAnd : Bool
  policyOr : Bool
  stepBit : Bool
  promote : BitVec 16384
  clean : BitVec 16384
  active : BitVec 16384
  slots : BitVec 16384
  deriving DecidableEq, Repr

/-- A flit as received: its header word, its thirty-two slots as 256 words, whether none of it overlaps an uncorrectable codeword, and
the codewords that the FEC corrected for it (09 R252, R253, R287). -/
structure Flit where
  header : W64
  words : List W64
  fecOk : Bool
  fecCorr : Nat
  deriving DecidableEq, Repr

/-- One escape entry of a WIRE8 message (09 Table 9.6). -/
structure Escape where
  offset : Nat
  value : F32
  deriving DecidableEq, Repr

/-- A fabric message (09 R267, Table 9.5): the header fields and the body bytes. -/
structure Message where
  kind : Nat
  hop : Nat
  group : Nat
  src : Nat
  dst : Nat
  tensor : Nat
  first : Nat
  step : W32
  scaleGen : W32
  cmd : W32
  msgIndex : W32
  vc : Nat
  count : Nat
  body : List Byte
  escapes : List Escape
  deriving DecidableEq, Repr

/-- What a patrol read of a word found (07 R176-R178, R204): an error that the stored code corrected, one of the link code (of the far tier,
a re-read after it), both, one that stays after the re-read, or one that stays and had a correction of the link code. -/
inductive EccFinding where
  | clean
  | corrected
  | linkCorrected
  | both
  | uncorrectable
  | linkUncorrectable
  deriving DecidableEq, Repr

/-- An activation row of a pass: its zero point, and for each logical K index the element code and its block's scale byte (04 R105,
03 R68, R76). -/
structure PassRow where
  zero : Nat
  elems : List (Nat × Nat)
  deriving DecidableEq, Repr

/-- What a pass streams (04 R105): its rows, and whether it is the first of its chain, whose accumulator entries start anew. -/
structure PassRows where
  first : Bool
  rows : List PassRow
  deriving DecidableEq, Repr

/-- What the array's checks found in a pass (04 R119, R121). -/
inductive PassFault where
  | none
  | parity
  | tag
  deriving DecidableEq, Repr

/-- Why an UP port left that state (09 R256). -/
inductive RetrainCause where
  | fecLoss
  | replays
  deriving DecidableEq, Repr

/-- The transport that carried an SPDM request (13 R395). -/
inductive SpdmTransport where
  | doe
  | mctp
  deriving DecidableEq, Repr

/-- The SPDM requests of which R395 and Table 13.15 state an outcome. -/
inductive SpdmKind where
  | getCertificate
  | challenge
  | getMeasurements
  | keyExchange
  | endSession
  | pskExchange
  | setCertificate
  | other
  deriving DecidableEq, Repr

end Sys2Proof
end

