-- ==== Sys2Proof/Syntax.lean ====
section
/-!
DEFINITION. The commands of the block: one constructor for each row of spec/opcode_table.json, in the table's order.

A command whose row is an opcode of Table 11.6 is a command of a ring: it names the ring and carries its descriptor
(log entry 5). A command that a host store triggers carries those stores (log entry 4). A row that is an event carries what
the event tells the device (an identity, a measured value, what a check found).
-/
namespace Sys2Proof

/-- One command: a row of the opcode table with its operands. -/
inductive Instr where
  -- commands of rings (11 Table 11.6)
  | nop (ring : Nat) (d : Desc)
  | signal (ring : Nat) (d : Desc)
  | wait (ring : Nat) (d : Desc)
  | waitTimeout (ring : Nat)
  | fence (ring : Nat) (d : Desc)
  | tickMark (ring : Nat) (d : Desc)
  | vote (ring : Nat) (d : Desc)
  | loadGraph (ring : Nat) (d : Desc)
  | place (ring : Nat) (d : Desc)
  | replace (ring : Nat) (d : Desc)
  | pin (ring : Nat) (d : Desc)
  | unloadGraph (ring : Nat) (d : Desc)
  | matmul (ring : Nat) (d : Desc)
  | matvec (ring : Nat) (d : Desc)
  | embGather (ring : Nat) (d : Desc)
  | embPool (ring : Nat) (d : Desc)
  | embScatter (ring : Nat) (d : Desc)
  | elemwise (ring : Nat) (d : Desc)
  | norm (ring : Nat) (d : Desc)
  | softmax (ring : Nat) (d : Desc)
  | attend (ring : Nat) (d : Desc)
  | convert (ring : Nat) (d : Desc)
  | loadWeights (ring : Nat) (d : Desc)
  | copy (ring : Nat) (d : Desc)
  | gatherParams (ring : Nat) (d : Desc)
  | reduceScatter (ring : Nat) (d : Desc)
  | allToAll (ring : Nat) (d : Desc)
  | send (ring : Nat) (d : Desc)
  | recv (ring : Nat) (d : Desc)
  | updateLayer (ring : Nat) (d : Desc)
  | rowUpdate (ring : Nat) (d : Desc)
  | stepBegin (ring : Nat) (d : Desc)
  | stepCommit (ring : Nat) (d : Desc)
  | scheduleSet (ring : Nat) (d : Desc)
  | setRecipe (ring : Nat) (d : Desc)
  | readStats (ring : Nat) (d : Desc)
  | shadowCfg (ring : Nat) (d : Desc)
  | digest (ring : Nat) (d : Desc)
  | dump (ring : Nat) (d : Desc)
  | replay (ring : Nat) (d : Desc)
  | recordStep (ring : Nat) (d : Desc)
  | traceStart (ring : Nat) (d : Desc)
  | traceStop (ring : Nat) (d : Desc)
  | traceTrigger (ring : Nat) (d : Desc)
  | traceMark (ring : Nat) (d : Desc)
  | traceSetMask (ring : Nat) (d : Desc)
  | sampleNow (ring : Nat) (d : Desc)
  | abortContext (ring : Nat) (d : Desc)
  | query (ring : Nat) (d : Desc)
  -- engines and the tick
  | migrate (table page : Nat)
  | tickEdge
  | doneReport
  | doneForward (round : Nat)
  | doneSymbolReceive (dim peer : Nat) (symbol : W64)
  | voteFrameReceive (dim peer : Nat) (frame : VoteFrame)
  | arrayPassStart (tile : Nat) (tag : BitVec 34) (rows : PassRows) (readyCycle : Nat) (found : PassFault)
  | shadowCheck (tile : Nat)
  | productTableBuild (layer : Nat)
  | rootComputeStart (layer block factor : Nat)
  | rootComputeDone (layer block factor : Nat)
  | stagingLogWriteback (table row : Nat)
  | nearScrubPass (column word : Nat) (found : EccFinding)
  | farScrubPass (channel sector : Nat) (found : EccFinding)
  | bucketDecay
  -- queues
  | doorbellL1Invalidate (line : Nat) (stores : List Host.Cell)
  | cqHeadUpdate (context : Nat) (stores : List Host.Cell)
  | qsuTblWrite
  | qsuTblRead
  | qsuTblEnable
  | qsuTblDisable
  | ringDisabled (ring : Nat)
  | fetchEnSet
  -- staging and registers
  | cmtCommit (groups : W64)
  | cmtDiscard (groups : W64)
  | cmtGroupApply (group : Nat)
  | tkcRunSet
  | tkcRunClear
  | glbDeviceReset (key : W32)
  | registerWrite (offset size : Nat) (value : W64)
  | clkTbSet (value : W64)
  -- mailboxes and firmware
  | mbxSend (box : Nat) (word : W64)
  | mbxRecv (box : Nat)
  | ping (pair : Nat)
  | stateCmd (pair : Nat)
  | crumbRead (pair : Nat)
  | fwUpdate (pair : Nat)
  | fwUpdateComplete (flashOk : Bool)
  | updateStatus (pair : Nat)
  | recoveryLoad (flashOk : Bool)
  -- events
  | evcEoi (source : BitVec 11)
  | evcFastEoi (source : BitVec 11)
  | evcGlobalEnable
  | evcArmLine (line : Nat) (stores : List Host.Cell)
  | vectorModTimeout (vector : Nat)
  | msixUnmask (vector : Nat)
  -- observation
  | sampleTick
  | traceRunSet
  | traceRunClear
  | traceDrain (records : Nat)
  | crumbMramWrite
  -- fabric
  | flitReceive (port : Nat) (flit : Flit)
  | replayTimeout (port : Nat)
  | messageReceive (port : Nat) (msg : Message)
  | remoteSignalReceive (source : Nat) (cmd msgIndex : W32) (value word1 : W64)
  | remoteSignalAnswer (source : Nat) (cmd msgIndex : W32) (reject : Bool)
  | portTrainingDone (port : Nat) (identity : W64) (rttNs : W32) (lanes : BitVec 4)
  | portRetrain (port : Nat) (cause : RetrainCause) (lanes : BitVec 4)
  | timeExchangeStart
  | timeRequestReceive (dim peer : Nat) (t1 : BitVec 56)
  | timeResponseReceive (t2 t3 t4 : W64) (cycles : Nat)
  | lockStateMessage (locked : Bool)
  -- host link
  | hostWindowAccess (write : Bool) (offset : Nat) (data : List Byte)
  | atsInvalidation (base bytes : Nat)
  -- control cores, clocks, power
  | watchdogExpiry (core : Nat)
  | clkMonitorWindow (domain edges : Nat)
  | clkSwitchTimeout (domain : Nat)
  | forcedPath (domain : Nat)
  | clkRelockFail (domain : Nat)
  | xtalLoss
  | powerMeasure (volt10mV powerW : BitVec 16) (computeC otherC : Byte)
  | thermThrottle
  | thermTrip
  | pwrFail (pin low : Bool)
  | pwrFailEnd
  | inputLoss
  | pwrEnAssert (volt10mV : BitVec 16)
  | pwrEnRelease
  | perstAssert
  | perstRelease
  | hotReset
  | functionLevelReset
  | d3hotEntry
  | d0Return
  -- boot
  | xtalStable
  | xtalBootTimeout
  | fwImageLoaded
  | memTrainingDone (failedStacks failedChannels : List Nat)
  | cxlLinkTrained (width rateGT : Nat) (flit256 : Bool)
  | fabricReady
  -- security and sideband
  | spdmRequest (transport : SpdmTransport) (kind : SpdmKind)
  | ideKmKey (stream substream : Nat) (key : BitVec 256)
  | mctpControl (command : Byte) (eid : Byte)
  | pldmBase (command : Byte)
  | pldmSensorRead (sensor : Nat)
  | pldmFruRead
  | pldmCrumbRange
  | pldmCrumbEntries (seq : W32) (count : Nat)
  | sensorRefresh (inletC10 outletC10 : BitVec 16)
  -- completions and late events
  | commandComplete (ring : Nat)
  | portRetrainTimeout (port : Nat)
  | thermalThrottleEnd
  | eventRingHeadUpdate (stores : List Host.Cell)
  | sampleRingHeadUpdate (stores : List Host.Cell)
  deriving DecidableEq, Repr

end Sys2Proof
end

