-- ==== Sys2Proof/Decode.lean ====
section
/-!
DEFINITION. Reading a command from a word of the opcode table. The table gives no row any bits: the block's commands are writes,
messages and events, not words of one encoding, so that no word spells a command.
-/
namespace Sys2Proof

/-- The command that a word of the opcode table spells: the table gives no row bits, so none. -/
def decodeTableWord (_nbits _w : Nat) : Option Instr := none

end Sys2Proof
end

