-- ==== Sys2Proof/Config.lean ====
section
/-!
DEFINITION. What an implementation fixes and the manual leaves open: the free values, opaque constants of which no
proof can know a value.
-/
namespace Sys2Proof

/-- A free value: applied to a counter of the state that each use advances (log entry 8). -/
opaque Config.freeWord : Nat → W64

/-- The base addresses that the placement engine chooses where 10 R295-R300 leave the place open: applied to the placement
seed (a digest of the inputs of R293), the kind of thing placed and its ID (log entry 9). -/
opaque Config.placeAddr : W64 → Nat → Nat → Nat

/-- The bytes of an entry of a placement report (10 Table 10.11), of which the manual gives length and contents but not where each value
stands: applied to the section, the contents and the byte (log entry 37). -/
opaque Config.reportByte : Nat → List Nat → Nat → Byte

/-- Planned work of a stage per beat, in 10 ns, for the same inputs and a stage number (10 R296; log entry 9). -/
opaque Config.plannedWork : W64 → Nat → Nat

/-- Bytes of a stage per beat that cross the compute-die links of FIO in one direction, as planned, for the same inputs, a stage number
and a kind: 0 Zalet traffic, 1 traffic of F8-F15 (01 R19; log entry 9). -/
opaque Config.plannedFio : W64 → Nat → Nat → Nat

/-- Bytes per beat that a stage is planned to read from the stacks of a compute die, for the same inputs, a stage number and a die (10 R295;
log entry 9). -/
opaque Config.plannedRead : W64 → Nat → Nat → Nat

/-- Boundary edges that the copies of a re-placement outlast, which the manual bounds by nothing: applied to the placement ID in force (10
R308; log entry 73). -/
opaque Config.copyEdges : W64 → Nat

/-- Hits of some lookups in the directory cache, whose contents follow no stated rule: applied to the lookups before and their number (10
R303, R312; log entry 64). -/
opaque Config.dirHits : Nat → Nat → Nat

/-- Requests that wait for a tracker while a command runs (11 R327, Table 11.20), a matter of timing: applied to the waits and the commands
counted before (log entry 64). -/
opaque Config.trackerWaits : Nat → Nat → Nat

/-- Requests forwarded at the switch of a page group (10 R305), a matter of timing: applied to those counted before and the group (log entry
64). -/
opaque Config.migForwarded : Nat → Nat → Nat

/-- The host grants the translations of a context's accesses through ATS (12 R352): applied to the PASID plus 1, or 0 without one, and to the
invalidations seen (log entry 89). -/
opaque Config.atsGranted : Nat → Nat → Bool

/-- A read of host memory returns poisoned data (08 R218): applied to the address and to the commands fetched before (log entry 151). -/
opaque Config.hostPoison : Nat → Nat → Bool

/-- Whether the host's memory refuses an access that firmware makes at an address: its system's (13 Table 13.9; log entry 156). The first
argument is the free counter. -/
opaque Config.hostFails : Nat → Nat → Bool

/-- The index that a conversion into CB4 writes, of which the manual gives no rule: applied to the value in FP32 (03 R67; log entry
118). -/
opaque Config.cb4Index : F32 → Nat

/-- Byte `i` of the codebook array and of the codes that GATHER_PARAMS forms for working weights in CB4, of which the manual gives no rule:
applied to the masters in FP32 and to whether it is the codebook's (log entry 50). -/
opaque Config.cb4Weight : List F32 → Bool → Nat → Byte

/-- An output element of a product whose operands' blocks or slices do not run along the reduction, of which the manual gives no rule:
applied to the decoded pairs that meet in it (log entry 30). -/
opaque Config.crossProduct : List (F32 × F32) → F32

/-- An FP32 value of 2^64 or more, or not finite, as an unsigned 64-bit integer (08 R234; log entry 8). -/
opaque Config.wideInt : F32 → Nat

/-- Byte `i` of a digest entry of a replay record (08 Table 8.9), of which the manual gives the contents but not the places: kind,
ID, micro-batch, beat, CRC-32C and element count (log entry 39). -/
opaque Config.digestByte : Nat → Nat → Nat → Nat → Nat → Nat → Nat → Byte

/-- The control core that receives a mailbox of the driver, MB00-MB15: 13 Table 13.7 says only that firmware is its receiver
(log entry 23). -/
opaque Config.mailboxCore : Nat → Nat

end Sys2Proof
end

