-- ==== Sys2Proof/Machine/State.lean ====
section
/-!
DEFINITION. The state of the device as plain data, every piece of state the manual names (INVENTORY.md lists them with their
rules), the reasons a step can stop, and the state at power-on.

The state is cut into blocks as BAR0 is (12 Table 12.6). A large register array or table is an `SMap` in canonical form:
keys rising, no entry equal to the array's reset value.
-/
namespace Sys2Proof.Machine

/-- GLB_STATUS.STATE (12 Table 12.13). -/
inductive BootState where
  | bootRom | fwLoad | memTrain | link | fabric | ready | recovery | halted
  deriving DecidableEq, Repr

/-- Ring context STATE (11 Table 11.1). -/
inductive RingState where
  | disabled | enabled | error | aborted
  deriving DecidableEq, Repr

/-- The four states of a source on a route (13 R372). -/
inductive RouteState where
  | idle | pending | active | activePending
  deriving DecidableEq, Repr

/-- FAB_PORT_STATEn.STATE (09 Table 9.10). -/
inductive PortState where
  | unused | down | training | up | retrain | retired
  deriving DecidableEq, Repr

/-- OBS_TRACE_STATUS.STATE (15 Table 15.13). -/
inductive TraceState where
  | stopped | running | triggered | full
  deriving DecidableEq, Repr

/-- What a clock domain runs from (14 R397, R401). -/
inductive ClockSource where
  | stopped | rc | crystal | pll
  deriving DecidableEq, Repr

/-- What leaves the device (log entry 10). -/
inductive Output where
  | msix (vector : Nat) (addr : W64) (data : W32)
  | flit (port : Nat) (f : Flit)
  | message (port : Nat) (m : Message)
  | readData (value : W64)
  | windowData (poison : Bool) (data : List Byte)
  | backInvalidate (line : Nat)
  | atsComplete (base bytes : Nat)
  | firmwareNotice (box : Nat)
  | sideband (kind : Nat) (data : List Byte)
  | spdm (transport : SpdmTransport) (code : Nat) (data : List Byte)
  deriving DecidableEq, Repr

/-- A storage form (03 R60): format code, scale mode, block size, escape enable and raisin capacity. -/
structure Form where
  fmt : Byte
  mode : Nat
  b32 : Bool
  esc : Bool
  cap : Nat
  deriving DecidableEq, Repr

/-- What a finished command will put into its record (11 Table 11.15). `flags` is word 2 [63:32]. -/
structure Result where
  status : Byte
  flags : W32
  repeats : BitVec 16
  retries : Byte
  detail : W32
  deriving DecidableEq, Repr

/-- How far a fetched command has come. A `waiting` command has not started; a `started` one began at a time-base count and
waits for something outside it; a `committing` one finishes at the next advancing edge; a `finished` one awaits its record. -/
inductive Phase where
  | waiting
  | started (time : Nat)
  | committing (r : Result)
  | finished (r : Result)
  deriving DecidableEq, Repr

/-- A fetched command that is not complete (11 R325): its descriptor count, descriptor, its place in the order of all
fetches, the beat it is bound to, whether it was moved to a later beat (R40), its phase, and whether its record is held on a
full completion ring (R341). -/
structure Cmd where
  index : W32
  desc : Desc
  order : Nat
  beat : Nat
  late : Bool
  phase : Phase
  held : Bool
  deriving DecidableEq, Repr

/-- A ring context (11 Table 11.1) with what the device keeps beside it: a DISABLE under way (R319), the tail last read
(R322), the commands fetched and not complete (R325), and the highest beat any fetched command or TICK_MARK named (R39). -/
structure Ring where
  base : BitVec 58
  tailAddr : BitVec 61
  context : BitVec 16
  stage : BitVec 12
  stageRing : Bool
  log2 : BitVec 5
  state : RingState
  head : W32
  done : W32
  baseBeat : W64
  disabling : Bool
  tail : W32
  maxSeen : Nat
  cqErr : Bool
  cmds : List Cmd
  deriving DecidableEq, Repr

/-- A context entry (11 Table 11.2) with the head count last read (R341). -/
structure Ctx where
  valid : Bool
  priv : Bool
  priority : BitVec 2
  pasidEn : Bool
  pasid : BitVec 20
  cqBase : BitVec 52
  cqHeadAddr : BitVec 61
  cqLog2 : BitVec 5
  vector : BitVec 11
  cqTail : W32
  fetchQuota : BitVec 16
  cxlQuota : BitVec 17
  syncBase : BitVec 13
  syncCount : BitVec 14
  cqHead : W32
  deriving DecidableEq, Repr

/-- A sync object (11 R337). -/
structure SyncObj where
  value : W64
  remoteOk : Bool
  deriving DecidableEq, Repr

/-- The QSU (11 Table 11.20) with its tables (log entry 13). `remote` holds the remote SIGNALs that await their answer:
target device, CMD, ring and descriptor count (R340); `fetchLast` the ring of each class served last (R318). -/
structure Qsu where
  fetchEn : Bool
  ringError : Bool
  tblRefused : Bool
  cqError : Bool
  l1Held : Bool
  fetchW : BitVec 16
  fetchLast : SMap Nat
  tblSel : W64
  tblData : SMap W64
  tblResult : BitVec 2
  rings : SMap Ring
  ctxs : SMap Ctx
  sync : SMap SyncObj
  remote : List (Nat × W32 × Nat × W32)
  remoteSeq : W32
  deriving DecidableEq, Repr

/-- Tick timing group (02 Table 2.7). -/
structure TickTiming where
  t0 : W64
  periodUs : BitVec 16
  guard : BitVec 12
  dims : BitVec 2
  domainId : BitVec 16
  deriving DecidableEq, Repr

/-- Fabric topology group (09 Table 9.10). -/
structure FabTopo where
  d0 : BitVec 6
  d1 : BitVec 6
  d2 : BitVec 6
  x0 : BitVec 6
  x1 : BitVec 6
  x2 : BitVec 6
  periodUs : BitVec 16
  root : BitVec 10
  deriving DecidableEq, Repr

/-- One copy, active or pending, of every agreement group (12 R363, Table 12.8). -/
structure Staged where
  tick : TickTiming
  seed : W64
  recipeBase : W64
  statsBase : W64
  statsSize : W32
  streamAdapt : Bool
  forceExact : Bool
  ruleBase : W64
  votePolicy : BitVec 2
  topo : FabTopo
  groups : SMap W64
  ringBase : W64
  ctxBase : W64
  dbL2 : W64
  dbL1 : W64
  timeMode : BitVec 2
  capW : BitVec 12
  srcCfg : SMap W32
  vecMod : SMap W32
  post : BitVec 4
  traceMode : BitVec 2
  sizeMib : BitVec 13
  intervalUs : BitVec 16
  sampleMask : W64
  deriving DecidableEq, Repr

/-- CMT (12 Table 12.9). -/
structure Cmt where
  pending : W64
  dirty : W64
  refused : W64
  readPending : Bool
  stagedReject : W32
  applied : W32
  deriving DecidableEq, Repr

/-- GLB (12 Table 12.13), the held low word of a 64-bit register (R361), the high word that a 4-byte read has latched (02 R58), the power state D3hot (R359), the CXL link
(R349): whether it is up and whether CXL.cache and CXL.mem are enabled, whether ATS is enabled (R352), the time at which the
boot began (15 Table 15.10), and a function-level reset whose last records are not written (14 R420). -/
structure Glb where
  state : BootState
  linkDegraded : Bool
  badAccess : Bool
  earlyAccess : Bool
  fwVersion : W32
  liveIgnored : W32
  lastLive : BitVec 26
  tileMap : BitVec 320
  held : Option (Nat × W32)
  latch : Option (Nat × W32)
  d3hot : Bool
  linkUp : Bool
  cacheMem : Bool
  ats : Bool
  atsSeen : Nat
  bootAt : W64
  flr : Bool
  deriving DecidableEq, Repr

/-- The DONE report of the present tick (02 R43, 09 R281): local stages that reported NOT-DONE, the running OR, the rounds
forwarded, and the symbols received for later rounds as (dimension, coordinate, NOT-DONE). -/
structure Report where
  notDone : List Nat
  local_ : Bool
  running : Bool
  rounds : Nat
  symbols : List (Nat × Nat × Bool)
  deriving DecidableEq, Repr

/-- TKC (02 Table 2.8); UNLOCKED and GUARD_RAISED are functions of the state (R32, R44), and MISMATCH is set while `differing`, the
peers whose last DONE symbol carried another tick index, is not empty (R35). `aborted` lists (stage, beat) of aborted commands (R42). `bgNext` is what has been written to TKC_BG_CFGn, in force
from the next edge (R59). Background service (R54) is kept per activity and unit, keyed by 2^16 * activity + unit: `bgEdges` counts
edges, `bgLast` holds the edge of the last slot, `bgServed` lists what idle cycles have served since, and `bgSlot` the slots of this
tick. -/
structure Tkc where
  run : Bool
  armed : Bool
  running : Bool
  t0Past : Bool
  cfgRefused : Bool
  stalled : Bool
  differing : List (Nat × Nat)
  aborted : List (Nat × Nat)
  slipping : Bool
  slipLimit : BitVec 24
  tick : W64
  beat : W64
  slipConsec : W32
  slipTotal : Ctr
  slipRemote : Ctr
  stageSlip : SMap Ctr
  bgCfg : SMap (BitVec 24)
  bgNext : SMap (BitVec 24)
  bgEdges : Nat
  bgLast : SMap Nat
  bgServed : List Nat
  bgSlot : List Nat
  nextEdge : W64
  edgeMade : Bool
  report : Option Report
  deriving DecidableEq, Repr

/-- A clock domain instance (14 R397-R401): its source, dead windows in a row, reset asserted, out of service (R452). -/
structure Domain where
  source : ClockSource
  low : Nat
  inReset : Bool
  outOfService : Bool
  deriving DecidableEq, Repr

/-- CLK (14 Table 14.7), the time base (R404-R409) and the synchronisation to the parent (09 R285). `locked` is
CLK_STATUS.LOCKED; `heldT2` is the T2 of the exchange under way, `exchanged` the count at the last completed one; `tbSet` is what
CLK_TB_SET last took. -/
structure Clk where
  monEn : Bool
  cfgRefused : Bool
  stepped : Bool
  xtalOk : Bool
  dead : W32
  count : W64
  coarse : Bool
  acc : Int
  rate : Int
  corr : Int
  cycle : Nat
  domains : SMap Domain
  locked : Bool
  good : Nat
  skipped : Nat
  awaiting : Option W64
  heldT2 : Option W64
  exchanged : W64
  parentLocked : Bool
  syncAt : W64
  tbSet : W64
  deriving DecidableEq, Repr

/-- Pins of J-HOST (16 Table 16.2); ALERT_N is a function of the state (R458). -/
structure Pins where
  pwrEn : Bool
  perstN : Bool
  pwrFailN : Bool
  slotId : BitVec 6
  thermtrip : Bool
  deriving DecidableEq, Repr

/-- PWR (14 Table 14.9) and what R411-R415 and 16 R460, R462 keep beside it. -/
structure Pwr where
  powered : Bool
  tripped : Bool
  capEn : Bool
  capRefused : Bool
  pfSeen : Bool
  pfActive : Bool
  inputOk : Bool
  capTarget : BitVec 11
  thermTarget : BitVec 11
  floor : Bool
  aclk : BitVec 11
  below : Nat
  thermBelow : Nat
  volt : BitVec 16
  power : BitVec 16
  computeC : Byte
  otherC : Byte
  throttle : Bool
  inletC10 : BitVec 16
  outletC10 : BitVec 16
  lastMeasure : W64
  sensors : List Nat
  deriving DecidableEq, Repr

/-- A source of the event controller (13 R372, R373): its state on the host and on the core route, a level's present value,
and an edge held in its latch with stamp and payload. -/
structure Source where
  host : RouteState
  core : RouteState
  asserted : Bool
  latched : Option (W64 × W64)
  deriving DecidableEq, Repr

/-- A vector (13 R375-R378): requests since the last delivery, the time of the first, the fast source active on it, its
PBA bit, and the normal sources that have requested it. -/
structure Vec where
  requests : Nat
  first : Option Nat
  fast : Option Nat
  pba : Bool
  deriving DecidableEq, Repr

/-- An MSI-X table entry (13 R378). -/
structure Msix where
  addr : W64
  data : W32
  masked : Bool
  deriving DecidableEq, Repr

/-- EVC (13 Table 13.5); `tagHeld` is the pass tag of a CA_TAG_ERROR edge in its latch (R373). -/
structure Evc where
  ringEn : Bool
  armEn : Bool
  armHeld : Bool
  ringDrop : Bool
  globalDisable : Bool
  spuriousEoi : W32
  ringDrops : W32
  ringBase : W64
  ringHeadAddr : W64
  armAddr : W64
  seq : W32
  headCount : W32
  lost : Bool
  src : SMap Source
  vec : SMap Vec
  msix : SMap Msix
  funcMask : Bool
  tagHeld : Option W64
  deriving DecidableEq, Repr

/-- MBX (13 Table 13.10). `busy` lists the pairs whose command has no reply yet (R386), `owed` the replies that wait for room in their pair's
return mailbox. -/
structure Mbx where
  full : W64
  word : SMap W64
  reject : BitVec 16
  abort : BitVec 16
  busy : List Nat
  owed : SMap W64
  deriving DecidableEq, Repr

/-- SEC (13 Table 13.16); `staged` is the image FW_UPDATE has fetched with the pair and word that asked for it (R391). -/
structure Sec where
  imageRollback : Byte
  verified : Bool
  recovered : Bool
  fwDigest : List Byte
  doe : Nat
  mctp : Nat
  updState : BitVec 4
  updResult : Byte
  staged : Option (Nat × Nat × List Byte)
  ideKeys : SMap (BitVec 256)
  mctpEid : Byte
  deriving DecidableEq, Repr

/-- A message on its way out (09 R262-R264): the hop it takes next, whether that is the second hop of a detour, the message, its place
in the order in which commands started, and how many of its slots have left. -/
structure Outgoing where
  dim : Nat
  peer : Nat
  detour : Bool
  msg : Message
  order : Nat
  gone : Nat
  deriving DecidableEq, Repr

/-- A flit in the replay buffer (09 R253): its SEQ, the VC of its data slots, its sequenced control symbols, and its data slots as
words. -/
structure SentFlit where
  seq : Nat
  vc : Nat
  syms : List W64
  data : List W64
  deriving DecidableEq, Repr

/-- A Zalet port (09 R253-R256, R264, R265, R281, 15 R447): state, credit round trip, locked lanes, next SEQ, expected SEQ, the replay
buffer, messages that wait for a slot, messages that have left with the SEQ of their last flit while one of their flits is not
acknowledged, whether it answers with NAK, the DONE symbols it now places in every flit, credits per VC and pool, credits owed to the
peer, the VC whose turn it is with the flits left to it, the time ACK last advanced, replays in the last 1 ms, start of the retrain, and
the times of replay retrains and of failed retrains. -/
structure Port where
  state : PortState
  rtt : W32
  lanes : BitVec 4
  txSeq : Nat
  rxExp : Nat
  replay : List SentFlit
  queue : List Outgoing
  sent : List (Nat × Outgoing)
  naking : Bool
  say : List W64
  credits : SMap Nat
  owed : SMap Nat
  turnVc : Nat
  turnLeft : Nat
  ackTime : Nat
  replays : List Nat
  retrainAt : Option Nat
  replayRetrains : List Nat
  failedRetrains : List Nat
  deriving DecidableEq, Repr

/-- One contribution to an element of a reduction (09 R272): a WIRE8 code, or a value. -/
inductive Contribution where
  | code (q : Int)
  | value (v : F32)
  deriving DecidableEq, Repr

/-- An entry of a shard map (08 R210): layer, slot, owner, first element in the buffer and number of elements. -/
structure Shard where
  layer : Nat
  slot : Nat
  owner : Nat
  base : Nat
  count : Nat
  deriving DecidableEq, Repr

/-- A REDUCE_SCATTER in progress (09 R278): its command, group, VC, sequence number in the group (Table 9.5), tensor, flat index of
the buffer's first element, step, wire kind (0 WIRE8, 1 BF16, 2 SIGN1), Ouvut arithmetic, the dimensions of its phases and the
phase it now sends, the number of elements that have still to enter each phase and, last, to be summed for good, the shards, the values
held by element of the buffer (the own gradient, then the final sums), and the contributions received, keyed by
phase * 2^52 + coordinate * 2^40 + element (of SIGN1, the device for the coordinate); a message rejected, a poisoned source, and
the escapes, elements and messages sent, the run seed it started with (03 R94), its place in the order in which commands started (R262),
the replica of a locked set that runs it, and what the replicas that are done have given (02 R51, R52). -/
structure Reduction where
  ring : Nat
  index : W32
  group : Nat
  vc : Nat
  seq : W32
  tensor : Nat
  first : Nat
  step : W32
  kind : Nat
  ouvut : Bool
  dims : List Nat
  phase : Nat
  todo : List Nat
  shards : List Shard
  held : SMap F32
  got : SMap Contribution
  rejected : Bool
  poisoned : Bool
  escapes : Nat
  sent : Nat
  msgs : Nat
  seed : W64
  order : Nat
  rep : Nat
  inStep : Option W64
  done : Option Result
  deriving DecidableEq, Repr

/-- A transfer that waits for its peer (09 R280, 11 R335): its command, a kind (0 SEND, 1 RECV, 2 ALL_TO_ALL, 3 remote COPY,
4 GATHER_PARAMS), peer, VC, match tag or group, length (of ALL_TO_ALL, of one member's part), own device address, the CMD of its
messages, the pieces of device memory its operand lies in, whether the peer has answered, the poisoned ranges of the data, the bytes
still missing, the data collected by offset, what the peer announced (of a SEND, the key of its tick-buffer half), its place in the order in which commands started (R262), the replica of a locked set that runs it, whether a message
was rejected (R268), and what the replicas that are done have given (02 R51, R52). -/
structure Transfer where
  ring : Nat
  index : W32
  kind : Nat
  peer : Nat
  vc : Nat
  tag : Nat
  bytes : Nat
  addr : Nat
  pieces : List (Nat × Nat)
  cmd : W32
  bound : Bool
  spans : List (Nat × Nat)
  missing : Nat
  data : SMap (List Byte)
  head : List Nat
  poisoned : Bool
  order : Nat
  rep : Nat
  rejected : Bool
  done : Option Result
  deriving DecidableEq, Repr

/-- A WIRE8 scale table (09 R270): the generation, the tensor it was formed for where it is valid, and one code per 32 elements. -/
structure ScaleTable where
  gen : W32
  tensor : Option Nat
  codes : List Byte
  deriving DecidableEq, Repr

/-- FAB (09 Table 9.10), ports, the step vote (R282, R283) and collectives. `errStage` is what of the staging SIGN1 error memory
differs from the active one in device memory, keyed by tensor * 2^40 + element, with the slot of each element (R275, R276); `marks` the
duplicate marks (R264), `frameCmd` the CMD of the vote frame, `started` counts the commands whose messages have a place in their order (R262), `peerPorts` holds for each peer
device the ports it last reported not to be UP (R263), `held` messages without a route (R263), `early` messages with their port that came before their command, `loop` messages to this
device itself, `requests` GATHER_PARAMS requests that wait for a commit (01 R27). -/
structure Fab where
  syncEn : Bool
  linkEn : Bool
  voteMismatch : Bool
  scaleMisfit : Bool
  cableErr : Bool
  topoRefused : Bool
  vcWeight : W32
  syncOffset : W64
  ports : SMap Port
  detour : SMap Byte
  held : List Outgoing
  frame : Option VoteFrame
  frameCmd : W32
  round : Nat
  frames : List (Nat × Nat × VoteFrame)
  final : Option VoteFrame
  reductions : List Reduction
  transfers : List Transfer
  early : List (Nat × Message)
  loop : List Message
  requests : List Message
  marks : SMap Nat
  cmdSeq : SMap W32
  started : Nat
  peerPorts : SMap W32
  errStage : SMap F32
  errSlot : SMap Nat
  deriving DecidableEq, Repr

/-- A staging-log entry (07 R193): the row, its new bytes and state bytes with their addresses, its slot, committed. -/
structure LogEntry where
  table : Nat
  row : Nat
  unit : Nat
  writes : List (Nat × List Byte)
  slot : Nat
  committed : Bool
  deriving DecidableEq, Repr

/-- What the NBEs keep per embedding table (07 R202): stream exponent l, sum (in units of 2^-300) and number of the x_w of the
present window and of the closed one, and the m last formed. -/
structure StreamState where
  l : Nat
  sum : Nat
  n : Nat
  closedSum : Nat
  closedN : Nat
  last : F32
  deriving DecidableEq, Repr

/-- MEM (07 Table 7.12), the bytes and poisoned lines of the device address space (Table 7.1, R177), hotness (R186, R302; keyed
by page number of a near page), staging logs (R193), streams (R202), the snoop filter, most recent first (12 R355), the row cache of
each column as its 256-byte lines, most recent first (Table 7.3, R185), and the next word or sector of each patrol (R178, R204). -/
structure Mem where
  farScrubEn : Bool
  nearScrubEn : Bool
  badAddr : Bool
  farUe : Bool
  nearUe : Bool
  farTrained : Bool
  nearTrained : Bool
  scrubPeriod : W32
  farMap : W64
  colMap : BitVec 1024
  cells : List Host.Cell
  poison : List Nat
  hot : SMap Nat
  log : List LogEntry
  streams : SMap StreamState
  snoop : List Nat
  rowCache : SMap (List Nat)
  scrubNear : SMap Nat
  scrubFar : SMap Nat
  deriving DecidableEq, Repr

/-- Steering state of a recipe (05 Table 5.6). -/
structure Steer where
  lastChange : W32
  clean : Byte
  rung : BitVec 3
  action : BitVec 4
  deriving DecidableEq, Repr

/-- A LAYER_STATS record (05 Table 5.3). `events` holds ELEMENTS to ACC_OVF in order. -/
structure StatRec where
  step : W32
  recipe : Nat
  rung : Nat
  flags : Byte
  repeats : BitVec 16
  events : List Ctr
  shadowChecks : W32
  shadowDisagree : W32
  shadowDropped : W32
  obsMax : F32
  obsMin : F32
  expHist : SMap Nat
  shadowHist : SMap Nat
  deriving DecidableEq, Repr

/-- A captured output tile waiting for its shadow check (05 R152): layer, role of the output, recipe, rung, the operands of each of its
elements as (decoded activations, decoded weights) in ascending K, and the values y before bias. -/
structure Capture where
  tile : Nat
  layer : Nat
  role : Nat
  recipe : Nat
  rung : Nat
  bytes : Nat
  ys : List F32
  rows : List (List F32)
  cols : List (List F32)
  deriving DecidableEq, Repr

/-- PRC (05 Table 5.12), the recipe table, steering, LAYER_STATS (log entry 14), scale adaptation and shadow checks. A
statistics key is unit + 2^12 * role + 2^14 * layer. `closing` holds the records whose window ended at a guard band until the
edge makes them the closed copies (R133). -/
structure Prc where
  steerEn : Bool
  shadowEn : Bool
  scaleAdaptEn : Bool
  recipeReject : Bool
  statsOverrun : Bool
  precisionPending : Bool
  defaultRecipe : BitVec 14
  recipes : SMap (BitVec 512)
  recipeNext : SMap (BitVec 512)
  steer : SMap Steer
  decided : SMap Steer
  cur : SMap StatRec
  closing : SMap StatRec
  closed : SMap StatRec
  amaxCur : SMap F32
  amaxClosed : SMap F32
  amax : SMap (List F32)
  sliceCur : SMap (F32 × F32)
  sliceClosed : SMap (F32 × F32)
  windowClosed : Bool
  raised : List (Nat × Nat)
  shadowNext : SMap Byte
  shadow : SMap Byte
  captures : List Capture
  bootstrap : List Nat
  deriving DecidableEq, Repr

/-- A root computation of RULE 4 (08 R225-R227): the factor, the update it started after, the committed factor's values and side,
whether it has started, and the result once done (`some none` is FAILED). -/
structure Root where
  factor : Nat
  after : Nat
  n : Nat
  input : List F32
  started : Bool
  result : Option (Option (List F32))
  deriving DecidableEq, Repr

/-- The step that is open (01 R20-R28): its number and graph, whether a VOTE or a STEP_COMMIT in its place has executed and waits
for its guard band, whether the frame is frozen, whether the edge that fixes the result has come and steering has taken it, the
vote flags collected for it (08 R237), recording and replay (08 R242-R244) with the digests formed, the running CRC of the error
memory, the shard map entries seen (08 R211), and whether its STEP_COMMIT was aborted before the result was fixed (11 R345). -/
structure OpenStep where
  num : W64
  graph : Nat
  votePending : Bool
  frozen : Bool
  stepBit : Bool
  slotBits : BitVec 16384
  skipped : Bool
  precision : Bool
  fixed : Bool
  decided : Bool
  recording : Option W64
  replaying : Option W64
  mismatch : Bool
  digests : List (List Byte)
  errCrc : W32
  layersSeen : List Nat
  slotsSeen : List Nat
  aborted : Bool
  deriving DecidableEq, Repr

/-- UPD (08 Table 8.14), schedules, rule snapshots, the open step and the layers with a staged update. `passed` tells that a step
boundary has passed since the last reset (R478). `roots` holds what the content of a root status record stands for: the root
computations of its block, keyed by the number that the record carries (R473; log entry 119). `positions` is the ring section of the last
step boundary (Table 8.9), and `recStart` a record whose start sections that boundary has written (R242). `opening` is the step whose
boundary has passed and whose STEP_BEGIN, fetched as number `boundary`, has still to execute (R218); `recHeld` tells that no advancing edge
has followed the commit of a recorded step (R242). -/
structure Upd where
  rootsEn : Bool
  replayMismatch : Bool
  precondFallback : Bool
  policyMismatch : Bool
  lastSkipped : Bool
  lastDiscarded : Bool
  lueMap : W64
  replayStatus : W64
  lastStep : W64
  schedVal : SMap (BitVec 128)
  skipMap : BitVec 16384
  sched : SMap (BitVec 512)
  schedNext : SMap (BitVec 512)
  schedUsed : SMap F32
  step : Option OpenStep
  opening : Option OpenStep
  boundary : Option Nat
  recHeld : Bool
  nextFault : Bool
  seed : Option W64
  stepCount : W64
  rules : SMap (Option (BitVec 512))
  staged : List Nat
  slotOf : SMap Nat
  gradGot : List Nat
  roots : SMap (List Root)
  passed : Bool
  positions : List W64
  recStart : Option W64
  armed : Option W64
  replay : Option W64
  replaySeed : W64
  deriving DecidableEq, Repr

/-- A stage entry of a graph image (10 Table 10.2). -/
structure StageEnt where
  stage : Nat
  kind : Nat
  strict : Bool
  locked : Bool
  replicas : Nat
  tiles : Nat
  group : Option Nat
  deriving DecidableEq, Repr

/-- A layer entry (10 Table 10.3) with its K-channel list (05 R145). -/
structure LayerEnt where
  layer : Nat
  stage : Nat
  recipe : Option Nat
  rule : Option Nat
  weight : Nat
  input : Nat
  output : Nat
  k : Nat
  n : Nat
  channels : List Nat
  deriving DecidableEq, Repr

/-- A tensor entry (10 Table 10.4). -/
structure TensorEnt where
  tensor : Nat
  form : Form
  role : Nat
  sign1 : Bool
  hostVisible : Bool
  rows : Nat
  k : Nat
  sliceRows : Nat
  recipe : Option Nat
  rule : Option Nat
  slot : Nat
  deriving DecidableEq, Repr

/-- An edge entry (10 Table 10.5). -/
structure EdgeEnt where
  edge : Nat
  producer : Nat
  consumer : Nat
  tensor : Nat
  deriving DecidableEq, Repr

/-- A hint entry (10 Table 10.5). -/
structure HintEnt where
  kind : Nat
  a : Nat
  b : Nat
  arg : Nat
  deriving DecidableEq, Repr

/-- A loaded graph image (10 R288, R289). -/
structure Image where
  ouvut : Bool
  plainEnds : Bool
  seed : W64
  stages : List StageEnt
  layers : List LayerEnt
  tensors : List TensorEnt
  edges : List EdgeEnt
  hints : List HintEnt
  deriving DecidableEq, Repr

/-- A placed stage (10 Table 10.11 section 1): tiles per replica, near-bank engines, planned work, planned beat, effective guard band,
background reserve and repeat reserve in 10 ns (02 R55, R56, 10 R296), planned MVT build-bound share in 1/65,536, and planned FIO bytes
per beat (01 R19). -/
structure StagePl where
  stage : Nat
  tiles : List (List Nat)
  nbes : Nat
  planned : Nat
  beat : Nat
  guard : Nat
  reserve : Nat
  spare : Nat
  share : Nat
  fio : Nat
  deriving DecidableEq, Repr

/-- The places of one copy of an owned layer (08 R236, R473): the masters' FP32 and extension planes, the state arrays, the per-layer
record, and the factors and roots of RULE 4. -/
structure LayerAt where
  hi : Nat
  lo : Nat
  s1 : Nat
  s2 : Nat
  rec_ : Nat
  fac : Nat
  deriving DecidableEq, Repr

/-- A placed layer (section 2 and the regions of R473): path per rung, owner, LUE of each rule block and of the roots of its two
factors, slot base, the active and the staging copy (R236), whether the regions hold the factors of RULE 4, the summed-gradient region,
and the WIRE8 scale table of its gradient, behind it the one that this owner has formed and a GATHER_PARAMS fetches (09 R270). -/
structure LayerPl where
  layer : Nat
  paths : List Nat
  exact : Bool
  owner : Nat
  lues : List Nat
  rootLues : List Nat
  statsBase : Nat
  now : LayerAt
  next : LayerAt
  factors : Bool
  grad : Nat
  wire : Nat
  deriving DecidableEq, Repr

/-- A placed tensor (section 3): tier (0 tile, 1 near, 2 far, 3 paged), address, bytes reserved, raisin region, outlier side array,
extension plane of M40, codebook array of CB4 (03 R67, R83), first scale region entry and number of entries (R471), window offset,
distance of the data of two replicas (02 R51), and active SIGN1 error memory (09 R275). -/
structure TensorPl where
  tensor : Nat
  tier : Nat
  dpa : Nat
  bytes : Nat
  raisin : Nat
  outlier : Nat
  ext : Nat
  book : Nat
  scale : Nat
  entries : Nat
  window : Option Nat
  rep : Nat
  err : Nat
  deriving DecidableEq, Repr

/-- One half of a placed edge (section 4): its address, raisin region, side array and extension plane. -/
structure HalfPl where
  dpa : Nat
  raisin : Nat
  outlier : Nat
  ext : Nat
  deriving DecidableEq, Repr

/-- A placed edge (section 4): its halves, the bytes of a half, and the distance of the data of two replicas (02 R51). -/
structure EdgePl where
  edge : Nat
  half0 : HalfPl
  half1 : HalfPl
  bytes : Nat
  rep : Nat
  deriving DecidableEq, Repr

/-- A placed embedding table (section 5); `logs` lists the staging log of each unit as (unit, address, bytes) (07 R193), `far` is its
part of the far hotness table, a byte for each row page (10 R302). -/
structure TablePl where
  table : Nat
  rowsPerPage : Nat
  accPages : Nat
  statePages : Nat
  pages : Nat
  quota : Nat
  logBytes : Nat
  logs : List (Nat × Nat × Nat)
  level2 : Nat
  statsId : Nat
  raisin : Nat
  far : Nat
  l0 : Nat
  deriving DecidableEq, Repr

/-- Tile SRAM that a tile gives to its shadow buffer and its product-table sets (section 6). -/
structure SramPl where
  tile : Nat
  shadow : Nat
  sets : Nat
  deriving DecidableEq, Repr

/-- A placement: the images it places by handle, and what its report says (10 Table 10.11); `taken` lists the ranges of device memory
that it and the tables of R475 use, but for the near places of page groups. -/
structure Placement where
  id : W64
  images : SMap Image
  stages : List StagePl
  layers : List LayerPl
  tensors : List TensorPl
  edges : List EdgePl
  tables : List TablePl
  sram : List SramPl
  hints : List Bool
  regions : List (Nat × Nat)
  lost : List Nat
  traceMib : Nat
  taken : List (Nat × Nat)
  slots : List Nat
  deriving DecidableEq, Repr

/-- A row directory entry (10 Table 10.9). -/
structure DirEnt where
  far : Bool
  pinned : Bool
  tries : Nat
  hold : Nat
  page : Nat
  home : Nat
  acc : Nat
  farSlot : Nat
  nearSlot : Nat
  deriving DecidableEq, Repr

/-- A page group being copied in this tick (10 R304, R305): table, row page, dirty, complete. -/
structure CopyJob where
  table : Nat
  page : Nat
  dirty : Bool
  complete : Bool
  deriving DecidableEq, Repr

/-- PLE (10 Table 10.13), loaded images by handle, placement in force, the images that the next step boundary places (10 R307),
handles to unload there, the report buffer, row directory (key table * 2^40 + page) and migration. -/
structure Ple where
  migrateEn : Bool
  migrateNext : Bool
  hdmMiss : Bool
  placeFail : Bool
  replacePending : Bool
  reason : Byte
  migCfg : W32
  migNext : W32
  images : SMap Image
  placement : Option Placement
  next : Option (SMap Image)
  unload : List Nat
  report : Option (W64 × Nat)
  dir : SMap DirEnt
  pins : List (Nat × Nat × Nat × Bool)
  copies : List CopyJob
  retry : List (Nat × Nat)
  copySlips : Nat
  deriving DecidableEq, Repr

/-- A version of a layer's working weights (01 R472, 08 R241, 11 R330): the step tag, the first beat that may read it, its
form and TENSOR scale, the strips, the raisin region, the outlier side array, the codebooks, the zero-point column sums of each logical
column in pieces of its blocks (04 R114), whether it reads poisoned, and whether its product tables are built (06 R164). -/
structure Weights where
  step : W64
  from_ : Nat
  form : Form
  scale : F32
  data : List Byte
  raisins : List Byte
  outliers : List F32
  codebook : List Byte
  sums : List (List Int)
  poisoned : Bool
  tables : Bool
  deriving DecidableEq, Repr

/-- What a tick-buffer half holds (02 R41, R42, 05 R147): the form it was written in and whether it is poisoned. -/
structure Half where
  form : Option Form
  poisoned : Bool
  deriving DecidableEq, Repr

/-- An accumulator entry (04 R112, R113): the FP32 value, or a * 2^E; whether it overflowed (R115), and whether an integer chain met a
NaN element, which an integer entry cannot hold (log entry 29). -/
structure Entry where
  f : F32
  a : Int
  e : Int
  started : Bool
  lost : Bool
  nan : Bool
  deriving DecidableEq, Repr

/-- The weight registers of one set, active or shadow (04 R99, R107): the formats of activations and weights, elements per weight
block and per scale seam, logical columns in use, the register of each cell by 128 * row + column, 8 bits with the parity bit above them,
and what the loader delivers beside them, by 128 * logical column + block: scale codes and zero-point column sums. -/
structure CellSet where
  af : Nat
  wf : Nat
  block : Nat
  seam : Nat
  cols : Nat
  regs : SMap (BitVec 9)
  scales : SMap Nat
  sums : SMap Int
  deriving DecidableEq, Repr

/-- A tile's array (04 R99, R105, R108, R117): tag of its last pass, its start cycle and rows, a retry and a fault found since the last
command, the active and the shadow registers, and the accumulator files by 512 * logical column + row. -/
structure TileState where
  tag : BitVec 34
  last : Option (Nat × Nat)
  retried : Bool
  faulted : Bool
  active : CellSet
  shadow : CellSet
  acc : SMap Entry
  deriving DecidableEq, Repr

/-- Tile SRAM by name and the arrays (log entry 15). Weight versions are keyed by layer, halves by 2 * edge + half. `lateOut` lists
(stage, beat) of later beats whose outputs are poisoned when they come (02 R42, 11 R345). -/
structure Tiles where
  weights : SMap (List Weights)
  halves : SMap Half
  array : SMap TileState
  lateOut : List (Nat × Nat)
  condemned : List (Nat × Nat × Nat)
  deriving DecidableEq, Repr

/-- A crumb log entry (15 R445). -/
structure Crumb where
  kind : Byte
  subject : BitVec 24
  seq : W32
  stamp : W64
  payload : W64
  epoch : W32
  step : W32
  deriving DecidableEq, Repr

/-- A trace record (15 Table 15.6). -/
structure TraceRec where
  kind : Byte
  unit : BitVec 12
  stage : BitVec 12
  seq : W32
  stamp : W64
  p2 : W64
  p3 : W64
  deriving DecidableEq, Repr

/-- OBS (15 Table 15.13), trace FIFO, crumb log, fault history (R447) and every 48-bit counter (R428), keyed by its slot in
the counter window. `faultTimes` is keyed by the fault channel's code (class * 4096 + index) and cause. -/
structure Obs where
  traceRun : Bool
  sampleEn : Bool
  traceRefused : Bool
  triggered : Bool
  sampleDrop : Bool
  crumbSkip : Bool
  sampleBase : W64
  sampleHeadAddr : W64
  sampleSeq : W32
  sampleDrops : W32
  sampleHead : W32
  sampleNo : W64
  sampleLost : Bool
  nextSample : W64
  traceMask : W32
  traceState : TraceState
  trigPtr : BitVec 27
  writePtr : BitVec 27
  traceDrops : W32
  fifoDrops : W32
  fifo : List TraceRec
  fifoLost : Ctr
  traceSeq : W32
  postLeft : Nat
  trigCfg : W32
  faultCfg : W32
  crumbSeq : W32
  crumbs : List Crumb
  queue : List Crumb
  skipped : Nat
  buckets : SMap Nat
  faultTimes : SMap (List Nat)
  watchdogs : List Nat
  ctrs : SMap Ctr
  deriving DecidableEq, Repr

/-- What manufacture fixes (12 Table 12.13, 13 Table 13.16; log entry 2). -/
structure Fuses where
  stepping : Byte
  grade : BitVec 2
  tiles : BitVec 320
  serial : W64
  keyHash : BitVec 256
  rollback : Nat
  debugLocked : Bool
  deriving DecidableEq, Repr

/-- An entry of the retirement list (15 R451). -/
structure RetireEnt where
  unit : BitVec 16
  cause : Byte
  epoch : W32
  stamp : W64
  deriving DecidableEq, Repr

/-- What outlives power: flash and MRAM (13 Table 13.13, 16 R470). -/
structure Store where
  image : List Byte
  certChain : List Byte
  retired : List RetireEnt
  log : List Crumb
  epoch : W32
  mramSeq : W32
  deriving DecidableEq, Repr

/-- The state of the device. -/
structure State where
  pending : List Instr
  out : List Output
  freeCtr : Nat
  host : List Host.Cell
  fuses : Fuses
  store : Store
  pins : Pins
  pwr : Pwr
  clk : Clk
  glb : Glb
  cmt : Cmt
  act : Staged
  pend : Staged
  tkc : Tkc
  qsu : Qsu
  evc : Evc
  mbx : Mbx
  sec : Sec
  fab : Fab
  mem : Mem
  prc : Prc
  upd : Upd
  ple : Ple
  tiles : Tiles
  obs : Obs
  deriving DecidableEq, Repr

/-- Reasons the machine stops with a fault. -/
inductive Fault where
  /-- Raised by no command: the manual describes a block, which has no state in which it stops without an effect that the
  manual gives (HALTED and power-off are states in which commands have no effect). Safe. -/
  | none
  deriving DecidableEq, Repr

/-- Reasons a command has no meaning. -/
inductive Refusal where
  /-- Raised by an arm of `exec` whose command has no meaning yet. Safe. -/
  | notModelled (mnemonic : String)
  deriving DecidableEq, Repr

/-- Reset values of the agreement groups (the field tables of each chapter). -/
def resetStaged : Staged where
  tick := { t0 := 0, periodUs := 0x03E8, guard := 0x0C8, dims := 0, domainId := 0 }
  seed := 0
  recipeBase := 0
  statsBase := 0
  statsSize := 0
  streamAdapt := true
  forceExact := false
  ruleBase := 0
  votePolicy := 0
  topo := { d0 := 1, d1 := 1, d2 := 1, x0 := 0, x1 := 0, x2 := 0, periodUs := 0x007D, root := 0 }
  groups := []
  ringBase := 0
  ctxBase := 0
  dbL2 := 0
  dbL1 := 0
  timeMode := 0
  capW := 0x9C4
  srcCfg := []
  vecMod := []
  post := 8
  traceMode := 0
  sizeMib := 0x0040
  intervalUs := 0x0064
  sampleMask := 0

/-- Reset values of the TKC (02 Table 2.8); the background defaults of Table 2.3 stand as the table's default. -/
def resetTkc : Tkc where
  run := false
  armed := false
  running := false
  t0Past := false
  cfgRefused := false
  stalled := false
  differing := []
  aborted := []
  slipping := false
  slipLimit := 0x000100
  tick := 0
  beat := 0
  slipConsec := 0
  slipTotal := 0
  slipRemote := 0
  stageSlip := []
  bgCfg := []
  bgNext := []
  bgEdges := 0
  bgLast := []
  bgServed := []
  bgSlot := []
  nextEdge := 0
  edgeMade := false
  report := none

/-- Reset values of the QSU (11 Table 11.20). -/
def resetQsu : Qsu where
  fetchEn := false
  ringError := false
  tblRefused := false
  cqError := false
  l1Held := false
  fetchW := 0x8421
  fetchLast := []
  tblSel := 0
  tblData := []
  tblResult := 0
  rings := []
  ctxs := []
  sync := []
  remote := []
  remoteSeq := 0

/-- Reset values of the EVC (13 Table 13.5). -/
def resetEvc : Evc where
  ringEn := false
  armEn := false
  armHeld := false
  ringDrop := false
  globalDisable := false
  spuriousEoi := 0
  ringDrops := 0
  ringBase := 0
  ringHeadAddr := 0
  armAddr := 0
  seq := 0
  headCount := 0
  lost := false
  src := []
  vec := []
  msix := []
  funcMask := false
  tagHeld := none

/-- Reset values of the FAB (09 Table 9.10). -/
def resetFab : Fab where
  syncEn := false
  linkEn := false
  voteMismatch := false
  scaleMisfit := false
  cableErr := false
  topoRefused := false
  vcWeight := 0x11222440
  syncOffset := 0
  ports := []
  detour := []
  held := []
  frame := none
  frameCmd := 0
  round := 0
  frames := []
  final := none
  reductions := []
  transfers := []
  early := []
  loop := []
  requests := []
  marks := []
  cmdSeq := []
  started := 0
  peerPorts := []
  errStage := []
  errSlot := []

/-- Reset values of the MEM (07 Table 7.12). -/
def resetMem : Mem where
  farScrubEn := true
  nearScrubEn := true
  badAddr := false
  farUe := false
  nearUe := false
  farTrained := false
  nearTrained := false
  scrubPeriod := 0x05A005A0
  farMap := BitVec.allOnes 64
  colMap := BitVec.allOnes 1024
  cells := []
  poison := []
  hot := []
  log := []
  streams := []
  snoop := []
  rowCache := []
  scrubNear := []
  scrubFar := []

/-- Reset values of the PRC (05 Table 5.12). -/
def resetPrc : Prc where
  steerEn := true
  shadowEn := true
  scaleAdaptEn := true
  recipeReject := false
  statsOverrun := false
  precisionPending := false
  defaultRecipe := 0
  recipes := []
  recipeNext := []
  steer := []
  decided := []
  cur := []
  closing := []
  closed := []
  amaxCur := []
  amaxClosed := []
  amax := []
  sliceCur := []
  sliceClosed := []
  windowClosed := false
  raised := []
  shadowNext := []
  shadow := []
  captures := []
  bootstrap := []

/-- Reset values of the UPD (08 Table 8.14). -/
def resetUpd : Upd where
  rootsEn := true
  replayMismatch := false
  precondFallback := false
  policyMismatch := false
  lastSkipped := false
  lastDiscarded := false
  lueMap := BitVec.allOnes 64
  replayStatus := 0
  lastStep := BitVec.allOnes 64
  schedVal := []
  skipMap := 0
  sched := []
  schedNext := []
  schedUsed := []
  step := none
  opening := none
  boundary := none
  recHeld := false
  nextFault := false
  seed := none
  stepCount := 0
  rules := []
  staged := []
  slotOf := []
  gradGot := []
  roots := []
  passed := false
  positions := []
  recStart := none
  armed := none
  replay := none
  replaySeed := 0

/-- Reset values of the PLE (10 Table 10.13). -/
def resetPle : Ple where
  migrateEn := true
  migrateNext := true
  hdmMiss := false
  placeFail := false
  replacePending := false
  reason := 0
  migCfg := 0x20040400
  migNext := 0x20040400
  images := []
  placement := none
  next := none
  unload := []
  report := none
  dir := []
  pins := []
  copies := []
  copySlips := 0
  retry := []

/-- Reset values of the tiles: nothing written (01 R472). -/
def resetTiles : Tiles where
  weights := []
  halves := []
  array := []
  lateOut := []
  condemned := []

/-- Reset values of the OBS (15 Table 15.13). -/
def resetObs : Obs where
  traceRun := false
  sampleEn := false
  traceRefused := false
  triggered := false
  sampleDrop := false
  crumbSkip := false
  sampleBase := 0
  sampleHeadAddr := 0
  sampleSeq := 0
  sampleDrops := 0
  sampleHead := 0
  sampleNo := 0
  sampleLost := false
  nextSample := 0
  traceMask := 0
  traceState := .stopped
  trigPtr := 0
  writePtr := 0
  traceDrops := 0
  fifoDrops := 0
  fifo := []
  fifoLost := 0
  traceSeq := 0
  postLeft := 0
  trigCfg := 0
  faultCfg := 0x08000200
  crumbSeq := 0
  crumbs := []
  queue := []
  skipped := 0
  buckets := []
  faultTimes := []
  watchdogs := []
  ctrs := []

/-- Reset values of the PWR (14 Table 14.9). -/
def resetPwr : Pwr where
  powered := true
  tripped := false
  capEn := true
  capRefused := false
  pfSeen := false
  pfActive := false
  inputOk := false
  capTarget := 0x4E2
  thermTarget := 0x4E2
  floor := false
  aclk := 0x4E2
  below := 0
  thermBelow := 0
  volt := 0
  power := 0
  computeC := 0
  otherC := 0
  throttle := false
  inletC10 := 0
  outletC10 := 0
  lastMeasure := 0
  sensors := []

/-- Reset values of the CLK (14 Table 14.7). -/
def resetClk : Clk where
  monEn := true
  cfgRefused := false
  stepped := false
  xtalOk := false
  dead := 0
  count := 0
  coarse := true
  acc := 0
  rate := 0
  corr := 0
  cycle := 0
  domains := []
  locked := false
  good := 0
  skipped := 0
  awaiting := none
  heldT2 := none
  exchanged := 0
  parentLocked := false
  syncAt := 0
  tbSet := 0

/-- Reset values of the GLB (12 Table 12.13); the tile map is the fuses' (R2). -/
def resetGlb (tiles : BitVec 320) : Glb where
  state := .bootRom
  linkDegraded := false
  badAccess := false
  earlyAccess := false
  fwVersion := 0
  liveIgnored := 0
  lastLive := 0
  tileMap := tiles
  held := none
  latch := none
  d3hot := false
  linkUp := false
  cacheMem := false
  ats := false
  atsSeen := 0
  bootAt := 0
  flr := false

/-- Reset values of SEC (13 Table 13.16) and of the sideband endpoint ID. -/
def resetSec : Sec where
  imageRollback := 0
  verified := false
  recovered := false
  fwDigest := []
  doe := 0
  mctp := 0
  updState := 0
  updResult := 0
  staged := none
  ideKeys := []
  mctpEid := 0

/-- Reset values of CMT (12 Table 12.9). -/
def resetCmt : Cmt where
  pending := 0
  dirty := 0
  refused := 0
  readPending := false
  stagedReject := 0
  applied := 0

/-- Reset values of MBX (13 Table 13.10). -/
def resetMbx : Mbx where
  full := 0
  word := []
  reject := 0
  abort := 0
  busy := []
  owed := []

/-- What the model takes for the fuses of the part it describes (log entry 2). -/
def modelFuses : Fuses where
  stepping := 0
  grade := 0
  tiles := BitVec.allOnes 320
  serial := 0
  keyHash := 0xD875DB7DEF232236AEC738C6B0BB3E80142F5D0FD8F4DF24FED6EEF5CBB50D9F
  rollback := 0
  debugLocked := false

/-- Right after power-on with PERST_N released: BOOT_ROM, the time base at 0, every register at its reset value
(log entries 1 and 2). -/
def State.reset : State where
  pending := []
  out := []
  freeCtr := 0
  host := []
  fuses := modelFuses
  store := { image := [], certChain := [], retired := [], log := [], epoch := 1, mramSeq := 0 }
  pins := { pwrEn := true, perstN := true, pwrFailN := true, slotId := 0x3F, thermtrip := false }
  pwr := resetPwr
  clk := resetClk
  glb := resetGlb modelFuses.tiles
  cmt := resetCmt
  act := resetStaged
  pend := resetStaged
  tkc := resetTkc
  qsu := resetQsu
  evc := resetEvc
  mbx := resetMbx
  sec := resetSec
  fab := resetFab
  mem := resetMem
  prc := resetPrc
  upd := resetUpd
  ple := resetPle
  tiles := resetTiles
  obs := resetObs

end Sys2Proof.Machine
end

