-- ==== Sys2Proof/Machine/Ops.lean ====
section
/-!
DEFINITION. The named operations over memory, counters and identity: byte memories in canonical form, host memory
(12 R350), the counters of 15 R427-R429, free values, the stamp (14 R404) and what the device is doing.
-/
namespace Sys2Proof.Machine

/-- The byte at an address; an unlisted address reads 0 (log entries 3 and 4). -/
def Memory.get : List Host.Cell → Nat → Byte
  | [], _ => 0
  | (k, b) :: t, a => if k = a then b else Memory.get t a

/-- Remove an address. -/
def Memory.del : List Host.Cell → Nat → List Host.Cell
  | [], _ => []
  | (k, b) :: t, a => if k = a then t else (k, b) :: Memory.del t a

/-- Insert or replace a byte, addresses rising. -/
def Memory.put : List Host.Cell → Nat → Byte → List Host.Cell
  | [], a, v => [(a, v)]
  | (k, b) :: t, a, v =>
    if a < k then (a, v) :: (k, b) :: t else if a = k then (a, v) :: t else (k, b) :: Memory.put t a v

/-- Write one byte; the value an unlisted address reads as is not listed. -/
def Memory.set (m : List Host.Cell) (a : Nat) (v : Byte) : List Host.Cell :=
  if v = 0 then Memory.del m a else Memory.put m a v

/-- The canonical form: addresses strictly rising, no byte equal to 0. -/
def Memory.wf : List Host.Cell → Bool
  | [] => true
  | [(_, b)] => b != 0
  | (k, b) :: (k', b') :: t => b != 0 && decide (k < k') && Memory.wf ((k', b') :: t)

/-- `n` bytes from address `a`. -/
def Memory.read (m : List Host.Cell) (a : Nat) : Nat → List Byte
  | 0 => []
  | n + 1 => Memory.get m a :: Memory.read m (a + 1) n

/-- Write bytes from address `a` upwards. -/
def Memory.write (m : List Host.Cell) (a : Nat) : List Byte → List Host.Cell
  | [] => m
  | b :: bs => Memory.write (Memory.set m a b) (a + 1) bs

/-- Apply stores in order. -/
def Memory.stores (m : List Host.Cell) (cs : List Host.Cell) : List Host.Cell :=
  cs.foldl (fun m c => Memory.set m c.1 c.2) m

/-- The low 64 bits of an address: host and device addresses are 64 bits wide. -/
def addr64 (a : Nat) : Nat := a % 2 ^ 64

/-- Read host memory. -/
def hostRead (s : State) (a n : Nat) : List Byte := Memory.read s.host (addr64 a) n

/-- Read a little-endian number of `n` bytes from host memory. -/
def hostNat (s : State) (a n : Nat) : Nat := leNat (hostRead s a n)

/-- Read a 64-bit word from host memory. -/
def hostW64 (s : State) (a : Nat) : W64 := BitVec.ofNat 64 (hostNat s a 8)

/-- Write host memory. -/
def hostWrite (s : State) (a : Nat) (bs : List Byte) : State := { s with host := Memory.write s.host (addr64 a) bs }

/-- Take a free value (log entry 8): the step reads and advances the counter. -/
def takeFree (s : State) : W64 × State := (Config.freeWord s.freeCtr, { s with freeCtr := s.freeCtr + 1 })

/-- Something leaves the device (log entry 10). -/
def emit (o : Output) (s : State) : State := { s with out := s.out ++ [o] }

/-- The time base with bits [2:0] as 0 (R404), as a number. -/
def now (s : State) : Nat := s.clk.count.toNat

/-- A stamp: the count with bit 0 replaced by COARSE (R404). -/
def stamp (s : State) : W64 := putBit s.clk.count 0 s.clk.coarse

/-- Time-base units in a microsecond (R404). -/
def usUnits : Nat := 16000

/-- Move the time base up to a due time; it never moves back (log entry 7). -/
def advanceTo (t : Nat) (s : State) : State :=
  if now s < t then { s with clk := { s.clk with count := BitVec.ofNat 64 (roundUp 8 t) } } else s

/-- The device is running: READY, powered, not in D3hot, with CXL.cache (R359, R362, R370, R349). -/
def serving (s : State) : Bool :=
  s.glb.state == .ready && s.pwr.powered && !s.pwr.tripped && !s.glb.d3hot && s.glb.cacheMem

/-- The device has power and is past the boot ROM and not halted: the units of the fabric and memory act. -/
def alive (s : State) : Bool := s.glb.state == .ready && s.pwr.powered && !s.pwr.tripped

/-- Tile `t` is in service (R2, R3). -/
def tileOn (s : State) (t : Nat) : Bool := decide (t < 320) && s.glb.tileMap.getLsbD t

/-- Effective guard band in 10 ns (R44, Table 2.1): G_min is 0.35 µs and 0.55 µs for each dimension. -/
def guardMin (s : State) : Nat := 35 + 55 * s.act.tick.dims.toNat
def guardEff (s : State) : Nat := max s.act.tick.guard.toNat (guardMin s)

/-- SLOT_100NS and WINDOW of a background activity at reset (Table 2.3). -/
def bgReset (i : Nat) : BitVec 24 :=
  match i with
  | 0 => 0x0A0040
  | 1 => 0x140010
  | 2 => 0x140020
  | 3 => 0x050001
  | 4 => 0x140040
  | 5 => 0x0A0008
  | _ => 0

/-- TKC_BG_CFGn in force. -/
def bgCfgOf (s : State) (i : Nat) : BitVec 24 := SMap.get s.tkc.bgCfg i (bgReset i)

/-- Length of a background slot in 0.1 us: 0 acts as 1, more than 20 as 20 (Table 2.8). -/
def bgSlotLen (s : State) (i : Nat) : Nat := max 1 (min 20 (bits (bgCfgOf s i) 23 16))

/-- Key of a background activity on a unit. -/
def bgKey (i u : Nat) : Nat := 2 ^ 16 * i + u

/-- Idle cycles have given an activity its service on a unit (02 R54; log entry 53). -/
def serveBg (i u : Nat) (s : State) : State :=
  if s.tkc.bgServed.contains (bgKey i u) then s else { s with tkc := { s.tkc with bgServed := s.tkc.bgServed ++ [bgKey i u] } }

/-- Number of bits set in the low `n`. -/
def popCount {w : Nat} (x : BitVec w) (n : Nat) : Nat := ((List.range n).filter fun i => x.getLsbD i).length

/-- Bank column `c` (flat NBE index) is in service. -/
def columnOn (s : State) (c : Nat) : Bool := decide (c < 1024) && s.mem.colMap.getLsbD c

/-- Far channel `c` (flat index) is in service. -/
def channelOn (s : State) (c : Nat) : Bool := decide (c < 64) && s.mem.farMap.getLsbD c

/-- Counter slots of the counter window (R428). -/
def tileCtr (t i : Nat) : Nat := 0x1000 + 32 * t + i
def nbeCtr (n i : Nat) : Nat := 0x4000 + 16 * n + i
def farCtr (f i : Nat) : Nat := 0x8000 + 8 * f + i
def portCtr (p i : Nat) : Nat := 0x8200 + 16 * p + i
def pleCtr (i : Nat) : Nat := 0x8400 + i
def qsuCtr (i : Nat) : Nat := 0x8410 + i
def obsCtr (i : Nat) : Nat := 0x8420 + i

/-- Add to a counter, modulo 2^48 (R427). -/
def count (slot n : Nat) (s : State) : State :=
  { s with obs := { s.obs with ctrs := SMap.alter s.obs.ctrs slot 0 (fun c => c + BitVec.ofNat 48 n) } }

/-- A unit counter's value. -/
def ctrAt (s : State) (slot : Nat) : Nat := (SMap.get s.obs.ctrs slot 0).toNat

/-- Sum of a unit counter over units, modulo 2^48 (R429). -/
def ctrSum (s : State) (slots : List Nat) : Nat := (slots.foldl (fun a k => a + ctrAt s k) 0) % 2 ^ 48

/-- A device counter (Table 15.2). -/
def deviceCtr (s : State) (i : Nat) : Nat :=
  if i < 32 then ctrSum s ((List.range 320).map fun t => tileCtr t i)
  else if i < 48 then ctrSum s ((List.range 1024).map fun n => nbeCtr n (i - 32))
  else if i < 56 then ctrSum s ((List.range 16).map fun f => farCtr f (i - 48))
  else if i < 72 then ctrSum s ((List.range 32).map fun p => portCtr p (i - 56))
  else if i < 88 then ctrAt s (pleCtr (i - 72))
  else if i < 104 then ctrAt s (qsuCtr (i - 88))
  else if i < 120 then ctrAt s (obsCtr (i - 104))
  else if i = 120 then s.tkc.slipTotal.toNat
  else if i = 121 then s.tkc.slipRemote.toNat
  else if i < 128 then 0
  else if i < 256 then ctrSum s ((List.range 80).map fun t => tileCtr (80 * ((i - 128) / 32) + t) ((i - 128) % 32))
  else if i < 512 then ctrSum s ((List.range 64).map fun n => nbeCtr (64 * ((i - 256) / 16) + n) ((i - 256) % 16))
  else if i < 1536 then ctrSum s ((List.range 10).map fun t => tileCtr (10 * ((i - 512) / 32) + t) ((i - 512) % 32))
  else if i < 2048 then ctrAt s (portCtr ((i - 1536) / 16) ((i - 1536) % 16))
  else if i < 2176 then ctrAt s (farCtr ((i - 2048) / 8) ((i - 2048) % 8))
  else if i < 4096 then (SMap.get s.tkc.stageSlip (i - 2176) 0).toNat
  else 0

/-- A slot of the counter window (R428); unassigned slots read 0. -/
def windowCtr (s : State) (slot : Nat) : Nat :=
  if slot < 0x1000 then deviceCtr s slot else ctrAt s slot

/-- The step number of the last STEP_BEGIN, low 32 bits (R93). -/
def stepNo (s : State) : W32 := s.upd.stepCount.setWidth 32

/-- A domain's state; before the first change AON and CCLK, on which CC0 runs the boot ROM at 50 MHz, run from the RC oscillator and the
others are stopped (R388; log entry 155). -/
def domainOf (s : State) (c : Nat) : Domain :=
  SMap.get s.clk.domains c { source := if c = 0 ∨ c = 5 then .rc else .stopped, low := 0, inReset := false, outOfService := false }

/-- CCLK and HCLK run, so that edges pass their latches (R373). -/
def evcClocked (s : State) : Bool :=
  (domainOf s 5).source != .stopped && (domainOf s 6).source != .stopped && !(domainOf s 5).inReset && !(domainOf s 6).inReset

end Sys2Proof.Machine
end

