-- ==== Sys2Proof/Machine/Events.lean ====
section
/-!
DEFINITION. The crumb log (15 R444, R445), the trace FIFO and triggers (15 R436-R441), event sources, routes, moderation
and delivery (13 R371-R381). Every command that raises an event goes through `raise`.
-/
namespace Sys2Proof.Machine

/-- Sources of the fast class (Table 13.1). -/
def isFast (src : Nat) : Bool := src < 4

/-- Level sources (Table 13.1). -/
def isLevel (src : Nat) : Bool := src == 5 || src == 0x41

/-- The sources that exist (R371). -/
def isSource (src : Nat) : Bool :=
  src ≤ 5 || [0x10, 0x11, 0x20, 0x21, 0x30, 0x40, 0x41, 0x50, 0x60, 0x70, 0x80, 0xF0, 0x140].contains src ||
    (decide (0x100 ≤ src) && decide (src < 0x140))

/-- Bytes of a crumb entry (R445). -/
def Crumb.bytes (c : Crumb) : List Byte :=
  wordsBytes [at' 64 56 c.kind.toNat ||| at' 64 32 c.subject.toNat ||| c.seq.setWidth 64, c.stamp, c.payload,
    at' 64 32 c.epoch.toNat ||| c.step.setWidth 64]

/-- Put an entry into retained SRAM, which keeps the last 4,096 (R444). -/
def crumbKeep (c : Crumb) (s : State) : State :=
  { s with obs := { s.obs with crumbs := (s.obs.crumbs ++ [c]).drop (s.obs.crumbs.length + 1 - 4096), crumbSeq := c.seq } }

/-- The next entry of a kind. -/
def crumbNext (kind subject : Nat) (payload : W64) (s : State) : Crumb :=
  { kind := BitVec.ofNat 8 kind, subject := BitVec.ofNat 24 subject, seq := s.obs.crumbSeq + 1, stamp := stamp s,
    payload := payload, epoch := s.store.epoch, step := stepNo s }

/-- Queue an entry for MRAM if there is room (R444). -/
def crumbQueue (c : Crumb) (s : State) : State :=
  if s.obs.queue.length < 128 then { s with obs := { s.obs with queue := s.obs.queue ++ [c] } }
  else { s with obs := { s.obs with skipped := s.obs.skipped + 1 } }

/-- An MRAM_SKIP entry enters once the queue has room (R444). -/
def crumbSkip (s : State) : State :=
  if s.obs.skipped = 0 ∨ 128 ≤ s.obs.queue.length then s
  else
    let c := crumbNext 0x3E 0 (BitVec.ofNat 64 s.obs.skipped) s
    let s := count (obsCtr 5) s.obs.skipped (count (obsCtr 4) 1 (crumbKeep c s))
    { s with obs := { s.obs with queue := s.obs.queue ++ [c], skipped := 0, crumbSkip := true } }

/-- Write a crumb log entry (R444, R445). -/
def crumb (kind subject : Nat) (payload : W64) (s : State) : State :=
  let s := crumbSkip s
  let c := crumbNext kind subject payload s
  crumbQueue c (count (obsCtr 4) 1 (crumbKeep c s))

/-- MRAM slots (R444). -/
def mramSlots : Nat := 32768

/-- Write the oldest waiting entry to MRAM (R444). -/
def crumbFlush1 (s : State) : State :=
  match s.obs.queue with
  | [] => s
  | c :: q =>
    crumbSkip
      { s with
        obs := { s.obs with queue := q }
        store := { s.store with log := (s.store.log ++ [c]).drop (s.store.log.length + 1 - mramSlots), mramSeq := c.seq } }

/-- Write every waiting entry to MRAM (R415). -/
def crumbFlush (s : State) : State := iterate crumbFlush1 (s.obs.queue.length + 1) s

/-- Records of the FIFO that take one of its 8,192 ordinary slots (R437). -/
def fifoUsed (s : State) : Nat := (s.obs.fifo.filter fun r => r.kind != 0x0E && r.kind != 0x0F).length

/-- Put a record into the trace FIFO, with the next SEQ (R436). -/
def fifoPush (kind unit stage : Nat) (st p2 p3 : W64) (s : State) : State :=
  { s with obs := { s.obs with
      fifo := s.obs.fifo ++ [{ kind := BitVec.ofNat 8 kind, unit := BitVec.ofNat 12 unit, stage := BitVec.ofNat 12 stage,
                               seq := s.obs.traceSeq, stamp := st, p2 := p2, p3 := p3 }]
      traceSeq := s.obs.traceSeq + 1 } }

/-- The GAP record that precedes the first record accepted after a loss (R437). -/
def fifoGap (s : State) : State :=
  if s.obs.fifoLost = 0 then s
  else
    let s' := fifoPush 0x0F 0xB00 0 (stamp s) (s.obs.fifoLost.setWidth 64) 0 s
    { s' with obs := { s'.obs with fifoLost := 0 } }

/-- A record enters the FIFO, or is dropped when it is full; a TRIGGER record is never dropped (R437). -/
def fifoEnter (kind unit stage : Nat) (st p2 p3 : W64) (s : State) : State :=
  if kind ≠ 0x0E ∧ 8192 ≤ fifoUsed s then
    { s with obs := { s.obs with fifoDrops := satInc s.obs.fifoDrops, fifoLost := satInc s.obs.fifoLost } }
  else fifoPush kind unit stage st p2 p3 (fifoGap s)

/-- Whether tracing writes records: STATE is not stopped. -/
def tracing (s : State) : Bool := s.obs.traceState != .stopped

/-- The host access of the EVC's and sampler's rings: PHASE of record count `k` in a ring of 2^n (R341). -/
def phaseBit (k n : Nat) : Nat := (k / 2 ^ n + 1) % 2

/-- A ring of 2^n records is full when the count minus the head count is 2^n (R341). -/
def ringFull (tail head : W32) (n : Nat) : Bool := (tail - head).toNat == 2 ^ n

/-- Write an event record (R381, Table 13.2). -/
def eventRecord (src : Nat) (st payload : W64) (s : State) : State :=
  let n := bits s.evc.ringBase 4 0
  if ringFull s.evc.seq s.evc.headCount n then
    { s with evc := { s.evc with ringDrops := satInc s.evc.ringDrops, ringDrop := true, lost := true } }
  else
    let k := s.evc.seq.toNat
    let w0 : W64 := at' 64 53 src ||| at' 64 52 (b2n (isFast src)) ||| at' 64 51 (b2n s.evc.lost) |||
      at' 64 50 (phaseBit k n) ||| s.evc.seq.setWidth 64
    let base := s.evc.ringBase.toNat / 4096 * 4096
    let s := hostWrite s (base + 32 * (k % 2 ^ n)) (wordsBytes [w0, st, payload, 0])
    { s with evc := { s.evc with seq := s.evc.seq + 1, lost := false } }

/-- Configuration of a source, active copy (Table 13.6); RECORD resets to 1. -/
def srcCfg (s : State) (src : Nat) : W32 := SMap.get s.act.srcCfg src 0x40000000#32
def hostEn (s : State) (src : Nat) : Bool := (srcCfg s src).getLsbD 31
def recordEn (s : State) (src : Nat) : Bool := (srcCfg s src).getLsbD 30
def srcVector (s : State) (src : Nat) : Nat := bits (srcCfg s src) 10 0
def modTime (s : State) (v : Nat) : Nat := bits (SMap.get s.act.vecMod v 0) 31 16
def modCount (s : State) (v : Nat) : Nat := bits (SMap.get s.act.vecMod v 0) 7 0

/-- An idle source and an idle vector; an MSI-X entry at PCI reset is masked (log entry 11). -/
def idleSource : Source := { host := .idle, core := .idle, asserted := false, latched := none }
def idleVec : Vec := { requests := 0, first := none, fast := none, pba := false }
def resetMsix : Msix := { addr := 0, data := 0, masked := true }

def sourceOf (s : State) (src : Nat) : Source := SMap.get s.evc.src src idleSource
def vecOf (s : State) (v : Nat) : Vec := SMap.get s.evc.vec v idleVec
def msixOf (s : State) (v : Nat) : Msix := SMap.get s.evc.msix v resetMsix

def setSource (src : Nat) (x : Source) (s : State) : State :=
  { s with evc := { s.evc with src := SMap.set s.evc.src src x idleSource } }
def setVec (v : Nat) (x : Vec) (s : State) : State :=
  { s with evc := { s.evc with vec := SMap.set s.evc.vec v x idleVec } }

/-- The next state of a route when its source raises (R372): an edge in the active state waits as active-pending; a level that asserts
there is sampled at the completion. -/
def RouteState.raised (level : Bool) : RouteState → RouteState
  | .idle => .pending
  | .active => if level then .active else .activePending
  | r => r

/-- The next state of a route on a completion; `again` is a level source still asserted (R372). -/
def RouteState.completed (again : Bool) : RouteState → RouteState
  | .activePending => .pending
  | .active => if again then .pending else .idle
  | r => r

/-- Host delivery is held back for a vector: masked (R378), disabled (R379), or halted (R370). -/
def masked (s : State) (v : Nat) : Bool := s.evc.funcMask || (msixOf s v).masked
def deliveryHeld (s : State) (v : Nat) : Bool := masked s v || s.evc.globalDisable || s.glb.state == .halted

/-- One MSI-X message for a vector (12 Table 12.3). -/
def msixWrite (v : Nat) (s : State) : State := emit (.msix v (msixOf s v).addr (msixOf s v).data) s

/-- Address of the byte that holds arm bit `v` (R376). -/
def armByte (s : State) (v : Nat) : Nat := s.evc.armAddr.toNat / 256 * 256 + v / 8

/-- Vector `v` is armed (R376). -/
def armed (s : State) (v : Nat) : Bool :=
  s.evc.armEn && s.evc.armHeld && (Memory.get s.host (armByte s v)).getLsbD (v % 8)

/-- Clear arm bit `v` by a read with ownership (R376). -/
def disarm (v : Nat) (s : State) : State :=
  hostWrite s (armByte s v) [putBit (Memory.get s.host (armByte s v)) (v % 8) false]

/-- One of the conditions of R375 holds for a vector with requests. -/
def vecDue (s : State) (v : Nat) : Bool :=
  let x := vecOf s v
  decide (0 < x.requests) &&
    (decide (max 1 (modCount s v) ≤ x.requests) ||
     (match x.first with | some t => decide (t + modTime s v * usUnits ≤ now s) | none => false) || armed s v)

/-- Every pending normal source of a vector becomes active on the host route (R375). -/
def activateNormal (v : Nat) (m : SMap Source) (s : State) : SMap Source :=
  m.map fun p =>
    if p.2.host == .pending && !isFast p.1 && srcVector s p.1 == v then (p.1, { p.2 with host := .active }) else p

/-- Deliver a vector: one message, its pending normal sources active, count and timer cleared (R375, R376). -/
def deliver (v : Nat) (s : State) : State :=
  let wasArmed := armed s v
  let s := msixWrite v s
  let s := { s with evc := { s.evc with src := activateNormal v s.evc.src s } }
  let s := setVec v { vecOf s v with requests := 0, first := none, pba := false } s
  if wasArmed then disarm v s else s

/-- A pending fast source of a vector could be delivered: none is active on it (R377). -/
def fastWaits (s : State) (v : Nat) : Bool :=
  (vecOf s v).fast.isNone && s.evc.src.any fun p => isFast p.1 && p.2.host == .pending && srcVector s p.1 == v

/-- The PBA bit of a vector: a delivery condition holds while it is masked (R378). -/
def syncPba (v : Nat) (s : State) : State := setVec v { vecOf s v with pba := masked s v && (vecDue s v || fastWaits s v) } s

/-- Deliver a vector if a condition holds, or hold it back with its PBA bit (R375, R378, R379). -/
def checkVec (v : Nat) (s : State) : State :=
  if vecDue s v then
    if deliveryHeld s v then syncPba v s else deliver v s
  else s

/-- One request on a vector (R375). -/
def request (v : Nat) (s : State) : State :=
  let x := vecOf s v
  checkVec v (setVec v { x with requests := x.requests + 1, first := some (x.first.getD (now s)) } s)

/-- Deliver a pending fast source at once unless its vector holds an active one (R377). -/
def checkFast (src : Nat) (s : State) : State :=
  let v := srcVector s src
  let x := sourceOf s src
  if x.host == .pending && isFast src && (vecOf s v).fast.isNone then
    if deliveryHeld s v then syncPba v s
    else
      let s := msixWrite v s
      let s := setSource src { x with host := .active } s
      setVec v { vecOf s v with fast := some src, pba := false } s
  else s

/-- The host route of a source that has just become pending (R375, R377). -/
def hostPend (src : Nat) (s : State) : State :=
  if isFast src then checkFast src s else request (srcVector s src) s

/-- The core route delivers its next source: fast before normal, ascending; a fast source waits for the active fast one, a
normal one for any active one (R374; log entry 17). In HALTED the cores are held in reset and take nothing (R370). -/
def coreDeliver (s : State) : State :=
  let act := s.evc.src.filter fun p => p.2.core == .active || p.2.core == .activePending
  let pend := s.evc.src.filter fun p => p.2.core == .pending
  let pick := if s.glb.state == .halted || act.any (fun p => isFast p.1) then none
    else match pend.find? (fun p => isFast p.1) with
      | some p => some p
      | none => if act.isEmpty then pend.head? else none
  match pick with
  | some p => setSource p.1 { p.2 with core := .active } s
  | none => s

/-- Firmware completes the source it handles and the core route delivers the next (R372, R374; log entry 17). -/
def coreService (s : State) : State :=
  let act := s.evc.src.filter fun p => p.2.core == .active || p.2.core == .activePending
  let cur := match act.find? (fun p => isFast p.1) with | some p => some p | none => act.head?
  coreDeliver (match cur with
    | some p => setSource p.1 { p.2 with core := p.2.core.completed p.2.asserted } s
    | none => s)

/-- A mailbox source raises on its receiver's route only (R383, Table 13.7). -/
def onCoreRoute (src : Nat) : Bool := !(decide (0x110 ≤ src) && decide (src < 0x140))
def onHostRoute (src : Nat) : Bool := !(decide (0x100 ≤ src) && decide (src < 0x110)) && !(decide (0x120 ≤ src) && decide (src < 0x140))

/-- A source raises on its routes (R372, R375). -/
def raiseRoutes (src : Nat) (s : State) : State :=
  let x := sourceOf s src
  let s := if onCoreRoute src then coreDeliver (setSource src { x with core := x.core.raised (isLevel src) } s) else s
  if hostEn s src && onHostRoute src then
    let y := sourceOf s src
    let s := setSource src { y with host := y.host.raised (isLevel src) } s
    if y.host == .idle then hostPend src s else s
  else s

/-- Crumb entry, record and routes of a raise, without its trace record and trigger. -/
def raiseCore (src : Nat) (st payload : W64) (s : State) : State :=
  let s := crumb 0x01 src payload s
  let s := if s.evc.ringEn && recordEn s src then eventRecord src st payload s else s
  raiseRoutes src s

/-- An edge that arrives while CCLK or HCLK is stopped is held with its stamp; later ones merge into it (R373). -/
def latchEdge (src : Nat) (payload : W64) (s : State) : State :=
  let x := sourceOf s src
  setSource src { x with latched := some (x.latched.getD (stamp s, payload)) } s

/-- OBS_TRIGGER raises, with its trace record; the raise does not itself trigger (log entry 16). -/
def raiseTrigger (st payload : W64) (s : State) : State :=
  let s := if s.obs.traceMask.getLsbD 4 then fifoEnter 0x04 0xB00 0 st payload 0xF0 s else s
  raiseCore 0xF0 st payload s

/-- A trigger is taken: a TRIGGER record, and OBS_TRIGGER raises, at once or from its latch (R373, R440). -/
def trigger (cause what : Nat) (s : State) : State :=
  if !tracing s || (s.act.traceMode == 2 && (s.obs.traceState != .running || s.obs.triggered)) then s
  else
    let seq := s.obs.traceSeq + (if s.obs.fifoLost = 0 then 0 else 1)
    let s := fifoEnter 0x0E 0xB00 0 (stamp s) (BitVec.ofNat 64 cause) (BitVec.ofNat 64 what) s
    let s := { s with obs := { s.obs with triggered := true } }
    let payload : W64 := at' 64 32 seq.toNat ||| at' 64 16 what ||| at' 64 0 cause
    if evcClocked s then raiseTrigger (stamp s) payload s else latchEdge 0xF0 payload s

/-- A trace record of kinds 1-10 at a given stamp (R436), with the trigger on its kind (R440). -/
def traceAt (st : W64) (kind unit stage : Nat) (p2 p3 : W64) (s : State) : State :=
  if tracing s && s.obs.traceMask.getLsbD kind then
    let room := decide (fifoUsed s < 8192)
    let s := fifoEnter kind unit stage st p2 p3 s
    if room && s.obs.trigCfg.getLsbD 30 && bits s.obs.trigCfg 15 12 == kind then trigger 2 kind s else s
  else s

/-- A trace record now. -/
def trace (kind unit stage : Nat) (p2 p3 : W64) (s : State) : State := traceAt (stamp s) kind unit stage p2 p3 s

/-- A raise that has passed its latch (R371, R373, R381, R440, R445). -/
def raiseNow (src : Nat) (st payload : W64) (s : State) : State :=
  let s := raiseCore src st payload s
  let s := traceAt st 0x04 0xB00 0 payload (BitVec.ofNat 64 src) s
  if s.obs.trigCfg.getLsbD 31 && bits s.obs.trigCfg 10 0 == src then trigger 1 src s else s

/-- An edge raises; while CCLK or HCLK is stopped its latch holds the first (R373). -/
def raise (src : Nat) (payload : W64) (s : State) : State :=
  if evcClocked s then raiseNow src (stamp s) payload s else latchEdge src payload s

/-- The second record of CA_TAG_ERROR, with the pass tag (Table 13.1). -/
def tagRecord (st tag : W64) (s : State) : State :=
  let s := crumb 0x01 0x01 tag s
  if s.evc.ringEn && recordEn s 0x01 then eventRecord 0x01 st tag s else s

/-- CA_TAG_ERROR raises with its two records; the latch holds both, those of the first edge (R373, Table 13.1). -/
def raiseTag (tile : Nat) (tag : W64) (s : State) : State :=
  if evcClocked s then tagRecord (stamp s) tag (raise 0x01 (at' 64 32 tile) s)
  else { latchEdge 0x01 (at' 64 32 tile) s with evc := { (latchEdge 0x01 (at' 64 32 tile) s).evc with tagHeld := some (s.evc.tagHeld.getD tag) } }

/-- A level source asserts (R372). -/
def assertLevel (src : Nat) (payload : W64) (s : State) : State :=
  let x := sourceOf s src
  if x.asserted then s else raise src payload (setSource src { x with asserted := true } s)

/-- A level source de-asserts; one that did so before the clocks returned has not been seen (R372; log entry 154). -/
def deassertLevel (src : Nat) (s : State) : State :=
  setSource src { sourceOf s src with asserted := false, latched := if isLevel src then none else (sourceOf s src).latched } s

/-- An edge leaves its latch: OBS_TRIGGER and CA_TAG_ERROR as they raise, any other as every raise. -/
def releaseEdge (src : Nat) (st payload : W64) (s : State) : State :=
  if src = 0xF0 then raiseTrigger st payload s
  else
    let t := raiseNow src st payload s
    match src, s.evc.tagHeld with
    | 0x01, some tag => tagRecord st tag { t with evc := { t.evc with tagHeld := none } }
    | _, _ => t

/-- The clocks have returned: latched edges pend, in ascending order of source (R373, R374). -/
def releaseLatches (s : State) : State :=
  if evcClocked s then
    (s.evc.src.filter fun p => p.2.latched.isSome).foldl (fun s p =>
      match p.2.latched with
      | some (st, payload) => releaseEdge p.1 st payload (setSource p.1 { sourceOf s p.1 with latched := none } s)
      | none => s) s
  else s

/-- Deliver whatever R379 lets deliver: fast sources first, then vectors in ascending number. -/
def deliverAll (s : State) : State :=
  let fast := (s.evc.src.filter fun p => isFast p.1).map (·.1)
  let s := fast.foldl (fun s src => checkFast src s) s
  (s.evc.vec.map (·.1)).foldl (fun s v => checkVec v s) s

/-- No vector holds a fast source as its active one any more, whatever vector its VECTOR names by now (R377). -/
def freeFast (src : Nat) (s : State) : State :=
  ((s.evc.vec.filter fun p => p.2.fast == some src).map (·.1)).foldl (fun s v => setVec v { vecOf s v with fast := none } s) s

/-- A completion written by the driver (R380); `fastBank` is EVC_FAST_EOI. A fast source that waited for it goes before the completed one
that pends again (R377). -/
def complete (fastBank : Bool) (src : Nat) (s : State) : State :=
  let x := sourceOf s src
  if isFast src == fastBank && (x.host == .active || x.host == .activePending) then
    let h := x.host.completed (x.asserted && isLevel src)
    let s := setSource src { x with host := h } s
    let s := if fastBank then
        ((s.evc.src.filter fun p => isFast p.1 && p.2.host == .pending && p.1 != src).map (·.1)).foldl (fun s k => checkFast k s)
          (freeFast src s)
      else s
    if h == .pending then hostPend src s else s
  else { s with evc := { s.evc with spuriousEoi := satInc s.evc.spuriousEoi } }

/-- A write to a live field while its condition holds (12 R367). -/
def liveIgnored (offset : Nat) (s : State) : State :=
  let s := { s with glb := { s.glb with liveIgnored := satInc s.glb.liveIgnored, lastLive := BitVec.ofNat 26 offset } }
  raise 0x60 (BitVec.ofNat 64 (offset % 2 ^ 26)) s

end Sys2Proof.Machine
end

