-- ==== Sys2Proof/Machine/Bus.lean ====
section
/-!
DEFINITION. A host access to BAR0 as the device takes it (12 R360-R362): alignment, the held low word, and the blocks that
answer outside READY. Every command that is such an access passes here first.
-/
namespace Sys2Proof.Machine

/-- The blocks that answer outside READY: GLB, MBX, PWR, the MSI-X table and PBA (R362). -/
def earlyBlock (off : Nat) : Bool :=
  off / 0x10000 == 0 || off / 0x10000 == 3 || off / 0x10000 == 5 || (decide (0x200000 ≤ off) && decide (off < 0x208100))

/-- A block lies at the offset (Table 12.6). -/
def inBlock (off : Nat) : Bool := decide (off < 0xF0000) || (decide (0x100000 ≤ off) && decide (off < 0x208100))

/-- The access has one of the two sizes and is naturally aligned (R361). -/
def alignedAccess (off size : Nat) : Bool := (size == 4 || size == 8) && off % size == 0

/-- Discard the held low word, unless this is the 4-byte write of its high word (R361). -/
def dropHeld (off size : Nat) (s : State) : State :=
  match s.glb.held with
  | some (o, _) =>
    if size = 4 ∧ off = o + 4 then s else { s with glb := { s.glb with held := none, badAccess := true } }
  | none => s

/-- A host write arrives: whether the addressed block takes it, and the state with the flags of R361 and R362. -/
def busWrite (off size : Nat) (s : State) : Bool × State :=
  if !s.pwr.powered || s.pwr.tripped then (false, s)
  else
    let s := dropHeld off size s
    if !alignedAccess off size then (false, { s with glb := { s.glb with badAccess := true } })
    else if s.glb.state == .ready || earlyBlock off then (true, s)
    else if inBlock off then (false, { s with glb := { s.glb with earlyAccess := true } })
    else (false, s)

/-- A host read arrives: whether the addressed block answers it, and the state with the flags of R361 and R362. It leaves a held low word
where it is (R361). -/
def busRead (off size : Nat) (s : State) : Bool × State :=
  if !s.pwr.powered || s.pwr.tripped then (false, s)
  else if !alignedAccess off size then (false, { s with glb := { s.glb with badAccess := true } })
  else if s.glb.state == .ready || earlyBlock off then (true, s)
  else if inBlock off then (false, { s with glb := { s.glb with earlyAccess := true } })
  else (false, s)

/-- A host write with its effect. -/
def onBus (off size : Nat) (f : State → State) (s : State) : State :=
  match busWrite off size s with
  | (true, s') => f s'
  | (false, s') => s'

end Sys2Proof.Machine
end

