-- ==== Sys2Proof/Machine/Crypto.lean ====
section
/-!
DEFINITION. CRC-32C (15 R435), SHA-256 and ECDSA P-256 verification, which the manual names by their standards
(09 R252, 10 R294, 13 R390).
-/
namespace Sys2Proof.Machine

/-- One bit of the reflected CRC-32C. -/
def crcBit (c : W32) : W32 := if c.getLsbD 0 then (c >>> 1) ^^^ 0x82F63B78#32 else c >>> 1

/-- One byte of the reflected CRC-32C. -/
def crcByte (c : W32) (b : Byte) : W32 := iterate crcBit 8 (c ^^^ b.setWidth 32)

/-- CRC-32C: reflected polynomial 0x82F63B78, initial value and final exclusive OR all ones (15 R435). -/
def crc32c (bs : List Byte) : W32 := bs.foldl crcByte 0xFFFFFFFF#32 ^^^ 0xFFFFFFFF#32

/-- The largest `r` with r^k at most `n`, searched for downward from bit `b`. -/
def rootFloor (k n : Nat) : Nat → Nat → Nat
  | 0, r => r
  | b + 1, r => rootFloor k n b (if (r + 2 ^ b) ^ k ≤ n then r + 2 ^ b else r)

/-- The first 32 bits of the fraction of the `k`-th root of `p`. -/
def rootBits (k p : Nat) : W32 := BitVec.ofNat 32 (rootFloor k (p * 2 ^ (32 * k)) 40 0)

/-- The first `n` primes; `fuel` bounds the numbers tried. -/
def firstPrimes (n fuel : Nat) : List Nat :=
  ((List.range fuel).foldl (fun ps i => if ps.any (fun p => (i + 2) % p == 0) then ps else ps ++ [i + 2]) []).take n

/-- The additive constants of the 64 rounds of SHA-256: from the cube roots of the first 64 primes. -/
def shaConsts : List W32 := (firstPrimes 64 311).map (rootBits 3)

/-- The eight words in which SHA-256 starts: from the square roots of the first eight primes. -/
def shaStart : List W32 := (firstPrimes 8 20).map (rootBits 2)

/-- Exclusive OR of a word turned right by each of some amounts. -/
def turned (x : W32) (ns : List Nat) : W32 := ns.foldl (fun y n => y ^^^ x.rotateRight n) 0

/-- The word that follows sixteen words of the schedule, oldest first. -/
def shaNext (w : List W32) : W32 :=
  let old := w.getD 1 0
  let late := w.getD 14 0
  w.getD 0 0 + (turned old [7, 18] ^^^ (old >>> 3)) + w.getD 9 0 + (turned late [17, 19] ^^^ (late >>> 10))

/-- A round for the constant `k` with the schedule's window of sixteen words, which moves on by one. `v` holds the eight working
words from the last to the first. -/
def shaRound (vw : List W32 × List W32) (k : W32) : List W32 × List W32 :=
  let (v, w) := vw
  let word (i : Nat) : W32 := v.getD (7 - i) 0
  let choice := word 6 ^^^ (word 4 &&& (word 5 ^^^ word 6))
  let most := (word 0 &&& (word 1 ||| word 2)) ||| (word 1 &&& word 2)
  let x := word 7 + k + w.getD 0 0 + choice + turned (word 4) [6, 11, 25]
  ([word 6, word 5, word 4, word 3 + x, word 2, word 1, word 0, x + most + turned (word 0) [2, 13, 22]], w.drop 1 ++ [shaNext w])

/-- Take in one block of 64 bytes. -/
def shaBlock (h : List W32) (blk : List Byte) : List W32 :=
  let words := (chunks 4 blk).map fun q => BitVec.ofNat 32 (beNat q)
  List.zipWith (fun x y => x + y) h (shaConsts.foldl shaRound (h.reverse, words)).1.reverse

/-- SHA-256 as 32 bytes: the message with a one bit, zeros and its length in bits, taken in by blocks. -/
def sha256 (msg : List Byte) : List Byte :=
  let zeros := (55 + 64 - msg.length % 64) % 64
  let whole := msg ++ [0x80] ++ List.replicate zeros 0 ++ (leBytes 8 (8 * msg.length)).reverse
  ((chunks 64 whole).foldl shaBlock shaStart).flatMap fun x => (leBytes 4 x.toNat).reverse

/-- The P-256 field prime. -/
def p256p : Nat := 0xFFFFFFFF00000001000000000000000000000000FFFFFFFFFFFFFFFFFFFFFFFF
/-- The P-256 group order. -/
def p256n : Nat := 0xFFFFFFFF00000000FFFFFFFFFFFFFFFFBCE6FAADA7179E84F3B9CAC2FC632551
/-- The P-256 coefficient b. -/
def p256b : Nat := 0x5AC635D8AA3A93E7B3EBBD55769886BC651D06B0CC53B0F63BCE3C3E27D2604B
/-- The P-256 base point. -/
def p256g : Nat × Nat :=
  (0x6B17D1F2E12C4247F8BCE6E563A440F277037D812DEB33A0F4A13945D898C296,
   0x4FE342E2FE1A7F9B8EE7EB4A7C0F9E162BCE33576B315ECECBB6406837BF51F5)

/-- a^k mod m, k of at most `fuel` bits. -/
def powMod (m : Nat) : Nat → Nat → Nat → Nat
  | 0, _, _ => 1 % m
  | fuel + 1, a, k =>
    let h := powMod m fuel (a * a % m) (k / 2)
    if k % 2 = 1 then h * a % m else h

/-- The inverse modulo a prime. -/
def invMod (m a : Nat) : Nat := powMod m 256 (a % m) (m - 2)

/-- Sum of two points, `none` being the point at infinity. -/
def ecAdd (a b : Option (Nat × Nat)) : Option (Nat × Nat) :=
  match a, b with
  | none, q => q
  | p, none => p
  | some (x1, y1), some (x2, y2) =>
    let p := p256p
    if x1 = x2 && (y1 + y2) % p = 0 then none
    else
      let l :=
        if x1 = x2 then (3 * x1 * x1 + (p - 3)) * invMod p (2 * y1) % p
        else (y2 + p - y1) * invMod p ((x2 + p - x1) % p) % p
      let x3 := (l * l + 2 * p - x1 - x2) % p
      some (x3, (l * ((x1 + p - x3) % p) + p - y1) % p)

/-- k times a point, k of at most `fuel` bits. -/
def ecMul : Nat → Nat → Option (Nat × Nat) → Option (Nat × Nat)
  | 0, _, _ => none
  | fuel + 1, k, q =>
    let h := ecMul fuel (k / 2) (ecAdd q q)
    if k % 2 = 1 then ecAdd h q else h

/-- ECDSA P-256 verification of a signature (r, s) over a SHA-256 digest (13 R390). -/
def ecdsaVerify (qx qy r s z : Nat) : Bool :=
  let onCurve := qx < p256p && qy < p256p &&
    (qy * qy) % p256p == (qx * qx * qx + (p256p - 3) * qx + p256b) % p256p
  if onCurve && 0 < r && r < p256n && 0 < s && s < p256n then
    let w := invMod p256n s
    match ecAdd (ecMul 256 (z * w % p256n) (some p256g)) (ecMul 256 (r * w % p256n) (some (qx, qy))) with
    | none => false
    | some (x, _) => x % p256n == r
  else false

end Sys2Proof.Machine
end

