-- ==== Sys2Proof/Machine/DevMem.lean ====
section
/-!
DEFINITION. The device address space (07 R173, R174), poisoned lines (R177), the snoop filter (12 R355) and dirty page
groups (R195). Every unit reads and writes device memory through `devRead` and `devWrite`.
-/
namespace Sys2Proof.Machine

/-- Where a device address lies (Table 7.1). -/
inductive Region where
  | near (column : Nat)
  | far (channel : Nat)
  | tile (t : Nat)
  | nbe (column : Nat)
  | reserved
  deriving DecidableEq, Repr

/-- Bases and sizes of Table 7.1. -/
def nearSize : Nat := 0x8000000000
def farBase : Nat := 0x20000000000
def farSize : Nat := 0x20000000000
def tileBase : Nat := 0x100000000000
def tileBytes : Nat := 0x400000
def nbeBase : Nat := 0x100100000000
def nbeBytes : Nat := 0x40000

/-- Decode a device address (Table 7.1). -/
def regionOf (a : Nat) : Region :=
  if a < nearSize then .near (a / 2 ^ 29)
  else if a < farBase then .reserved
  else if a < farBase + farSize then .far ((a - farBase) / 4096 % 64)
  else if a < tileBase then .reserved
  else if a < tileBase + 320 * tileBytes then .tile ((a - tileBase) / tileBytes)
  else if a < nbeBase then .reserved
  else if a < nbeBase + 1024 * nbeBytes then .nbe ((a - nbeBase) / nbeBytes)
  else .reserved

/-- The address lies in a hole (R174). -/
def isHole (s : State) (a : Nat) : Bool :=
  match regionOf a with
  | .near c => !columnOn s c
  | .far c => !channelOn s c
  | .tile t => !tileOn s t
  | .nbe c => !columnOn s c
  | .reserved => true

/-- The 64-byte lines a range of `n` bytes touches. -/
def linesOf (a n : Nat) : List Nat := if n = 0 then [] else (List.range ((a + n - 1) / 64 + 1 - a / 64)).map fun i => a / 64 + i

/-- Some line of the range reads as poisoned: it is poisoned, or it lies in a hole (R174, R177). -/
def devPoison (s : State) (a n : Nat) : Bool := (linesOf a n).any fun l => s.mem.poison.contains l || isHole s (64 * l)

/-- The bytes of a range; those of a hole read 0 and poisoned. -/
def devBytes (s : State) (a n : Nat) : List Byte := Memory.read s.mem.cells a n

/-- Set BAD_ADDR (R174). -/
def badAddr (s : State) : State := { s with mem := { s.mem with badAddr := true } }

/-- A line that the snoop filter holds is back-invalidated and leaves the filter (12 R355). -/
def snoopLine (l : Nat) (s : State) : State :=
  if s.mem.snoop.contains l then
    emit (.backInvalidate l) { s with mem := { s.mem with snoop := s.mem.snoop.filter fun x => x != l } }
  else s

/-- What a unit's access does before its data: back-invalidation of held lines, BAD_ADDR for holes (R174, R355). -/
def touchLine (l : Nat) (s : State) : State :=
  let s := snoopLine l s
  if isHole s (64 * l) then badAddr s else s

/-- Touch every line of a range. -/
def touch (a n : Nat) (s : State) : State := (linesOf a n).foldl (fun s l => touchLine l s) s

/-- Read device memory: the bytes, whether they are poisoned, and the state after the access. -/
def devRead (a n : Nat) (s : State) : List Byte × Bool × State := (devBytes s a n, devPoison s a n, touch a n s)

/-- The addresses of a page group: the row and state pages, then the accumulation pages (R181, Table 10.9). -/
def groupPages (e : DirEnt) (accPages statePages : Nat) : List Nat :=
  ((List.range (1 + statePages)).map fun i => e.page + i * (if e.far then 0x40000 else 0x1000)) ++
    (List.range accPages).map fun i => e.acc + i * 0x1000

/-- Key of a row page in the directory. -/
def dirKey (table page : Nat) : Nat := table * 2 ^ 40 + page

/-- A placed table. -/
def tablePl (s : State) (t : Nat) : Option TablePl :=
  match s.ple.placement with
  | some p => p.tables.find? fun x => x.table == t
  | none => none

/-- The pages of a group as the directory gives them. -/
def groupAddrs (s : State) (table page : Nat) : List Nat :=
  match SMap.find s.ple.dir (dirKey table page), tablePl s table with
  | some e, some t => groupPages e t.accPages t.statePages
  | _, _ => []

/-- A write to a page group during its copy tick makes it dirty (R195). -/
def markDirty (a n : Nat) (s : State) : State :=
  if s.ple.copies.isEmpty then s
  else
    let hit (c : CopyJob) : Bool := (groupAddrs s c.table c.page).any fun p => decide (a < p + 4096) && decide (p < a + n)
    { s with ple := { s.ple with copies := s.ple.copies.map fun c => if hit c then { c with dirty := true } else c } }

/-- Write the part of a line (R174, R177): nothing in a hole; a whole line replaces its poison, a part leaves it. -/
def devWriteLine (a : Nat) (bs : List Byte) (s : State) : State :=
  if isHole s a then badAddr s
  else
    let s := snoopLine (a / 64) s
    let poison := if bs.length = 64 then s.mem.poison.filter (fun x => x != a / 64) else s.mem.poison
    { s with mem := { s.mem with cells := Memory.write s.mem.cells a bs, poison := poison } }

/-- Cut a range into its pieces within 64-byte lines. -/
def linePieces : Nat → Nat → List Byte → List (Nat × List Byte)
  | 0, _, _ => []
  | fuel + 1, a, bs =>
    if bs.isEmpty then []
    else
      let n := 64 - a % 64
      (a, bs.take n) :: linePieces fuel (a + n) (bs.drop n)

/-- Write device memory. -/
def devWrite (a : Nat) (bs : List Byte) (s : State) : State :=
  (linePieces (bs.length + 1) a bs).foldl (fun s p => devWriteLine p.1 p.2 s) (markDirty a bs.length s)

/-- Every line that the snoop filter holds and `hit` picks is back-invalidated, in the filter's order. -/
def snoopWhere (hit : Nat → Bool) (s : State) : State := (s.mem.snoop.filter hit).foldl (fun s l => snoopLine l s) s

/-- Poison the lines of a range that exist (R42, R177, R192): a write of a unit, so that lines the host holds are taken back first (12
R355); a page group in its copy tick becomes dirty (R195). -/
def devPoisonRange (a n : Nat) (s : State) : State :=
  let s := snoopWhere (fun l => (linesOf a n).contains l && !isHole s (64 * l)) (markDirty a n s)
  let p := (linesOf a n).foldl (fun m l => if isHole s (64 * l) then m else insertNat l m) s.mem.poison
  { s with mem := { s.mem with poison := p } }

/-- A FP32 word of device memory. -/
def devF32 (s : State) (a : Nat) : F32 := BitVec.ofNat 32 (leNat (devBytes s a 4))

/-- The writes of committed staging-log entries: they stand for their places until they are written back (R193). -/
def loggedWrites (s : State) : List (Nat × List Byte) := (s.mem.log.filter fun e => e.committed).flatMap (·.writes)

/-- Lay a write over the bytes from address `a`. -/
def overlay (a : Nat) (bs : List Byte) (w : Nat × List Byte) : List Byte :=
  if w.1 + w.2.length ≤ a ∨ a + bs.length ≤ w.1 then bs
  else bs.zipIdx.map fun p => if w.1 ≤ a + p.2 then w.2.getD (a + p.2 - w.1) p.1 else p.1

/-- The bytes of a range as reads return them (R193). -/
def devView (s : State) (a n : Nat) : List Byte := (loggedWrites s).foldl (overlay a) (devBytes s a n)

/-- A range as reads return it holds poison: a line of it that no logged write covers. -/
def viewPoison (s : State) (a n : Nat) : Bool :=
  (linesOf a n).any fun l => devPoison s (64 * l) 1 &&
    !(loggedWrites s).any fun w => decide (w.1 ≤ max (64 * l) a) && decide (min (64 * l + 64) (a + n) ≤ w.1 + w.2.length)

/-- The lowest in-service engine of a stack, if any. -/
def firstNbe (s : State) (stack : Nat) : Option Nat := ((List.range 64).map fun i => 64 * stack + i).find? fun c => columnOn s c

/-- Add to the fault bucket of a column (class 1) or a far channel (class 2) (15 R447). -/
def bucketKey (cls idx : Nat) : Nat := cls * 4096 + idx

/-- The firmware region (13 R393): the top 64 MiB of the highest-numbered column of S00 in service. -/
def firmwareRegion (s : State) : Nat :=
  match ((List.range 64).reverse).find? fun c => columnOn s c with
  | some c => c * 2 ^ 29 + (2 ^ 29 - 2 ^ 26)
  | none => 0

/-- Segments of the trace buffer for a size in MiB: base and length in MiB, from S15.N63 downward (15 R442). -/
def traceSegsFuel (s : State) : Nat → Nat → Nat → List (Nat × Nat)
  | 0, _, _ => []
  | fuel + 1, col, left =>
    if left = 0 then []
    else if columnOn s (960 + col) then
      let n := min left 512
      ((960 + col) * 2 ^ 29 + (512 - n) * 2 ^ 20, n) :: traceSegsFuel s fuel (col - 1) (left - n)
    else traceSegsFuel s fuel (col - 1) left

/-- Segments of the trace buffer. -/
def traceSegs (s : State) (mib : Nat) : List (Nat × Nat) := traceSegsFuel s 64 63 mib

/-- Size of the trace buffer in force: the active SIZE_MIB. -/
def traceMib (s : State) : Nat := s.act.sizeMib.toNat

/-- Device address of byte `b` of the trace buffer. -/
def segAddr : List (Nat × Nat) → Nat → Option Nat
  | [], _ => none
  | (base, n) :: t, b => if b < n * 2 ^ 20 then some (base + b) else segAddr t (b - n * 2 ^ 20)

end Sys2Proof.Machine
end

