-- ==== Sys2Proof/Machine/Flags.lean ====
section
/-!
DEFINITION. Completion statuses, flags and DETAIL codes (11 R344, Tables 11.12, 11.16, 11.17, 02 R52).
-/
namespace Sys2Proof.Machine

/-- Status codes (Table 11.17). -/
def stOk : Byte := 0x00
def stRepeated : Byte := 0x01
def stFlags : Byte := 0x02
def stRetried : Byte := 0x03
def stAborted : Byte := 0x10
def stDescErr : Byte := 0x11
def stFault : Byte := 0x12
def stPoisoned : Byte := 0x13
def stDiscarded : Byte := 0x14
def stTimeout : Byte := 0x15
def stAccess : Byte := 0x16

/-- Flag bits of word 2 [63:32], as bits of the 32-bit field (Table 11.16). -/
def flCorr : W32 := 0x1
def flBadIndex : W32 := 0x2
def flPrecision : W32 := 0x4
def flSkip : W32 := 0x8
def flMisfit : W32 := 0x10
def flPrecond : W32 := 0x20
def flMismatch : W32 := 0x40
def flSyncSat : W32 := 0x80
def flLate : W32 := 0x100
def flRecorded : W32 := 0x200
def flSurplus : W32 := 0x400

/-- The flags that turn OK into OK_FLAGS: bits 32-40 and 42 (R344). -/
def flagMask : W32 := 0x5FF

/-- Rank of a status, higher first (R344). -/
def stRank (st : Byte) : Nat :=
  match [stDescErr, stAccess, stFault, stPoisoned, stTimeout, stAborted, stDiscarded, stFlags, stRepeated, stRetried].idxOf? st with
  | some i => 11 - i
  | none => 0

/-- The higher-ranking of two statuses. -/
def stMax (a b : Byte) : Byte := if stRank a < stRank b then b else a

/-- The result of a command that ends in `base`, or without error when `base` is OK, with its flags, repeats and retries
(R344). -/
def mkResult (base : Byte) (flags : W32) (repeats retries : Nat) : Result :=
  let ok : Byte :=
    if flags &&& flagMask ≠ 0 then stFlags else if 0 < repeats then stRepeated else if 0 < retries then stRetried else stOk
  { status := stMax base ok, flags := flags, repeats := BitVec.ofNat 16 (min repeats 65535),
    retries := BitVec.ofNat 8 (min retries 1), detail := 0 }

/-- A command finished without anything to report. -/
def okResult : Result := mkResult stOk 0 0 0

/-- A command finished with a status. -/
def stResult (st : Byte) : Result := mkResult st 0 0 0

/-- DESCRIPTOR_ERROR with a code of Table 11.12 and the word of the failed check. -/
def descErr (code word : Nat) : Result :=
  { status := stDescErr, flags := 0, repeats := 0, retries := 0, detail := at' 32 24 code ||| at' 32 16 word }

/-- Add flags and a status to a result (R52, R344). -/
def Result.add (r : Result) (st : Byte) (flags : W32) : Result :=
  if r.status = stDescErr then r
  else
    let base := if stRank r.status ≤ stRank stFlags then stOk else r.status
    let m := mkResult (stMax base st) (r.flags ||| flags) r.repeats.toNat r.retries.toNat
    { m with detail := r.detail }

end Sys2Proof.Machine
end

