-- ==== Sys2Proof/Machine/Operands.lean ====
section
/-!
DEFINITION. Descriptor fields, operand words and the checks that hold for every descriptor (11 R328, R329, R336, Tables
11.4-11.11), and what the placement in force gives an ID.
-/
namespace Sys2Proof.Machine

/-- Header fields (Table 11.4). -/
def Desc.opcode (d : Desc) : Nat := bits d.w0 7 0
def Desc.fence (d : Desc) : Bool := bit d.w0 9
def Desc.quiet (d : Desc) : Bool := bit d.w0 10
def Desc.irq (d : Desc) : Bool := bit d.w0 11
def Desc.recompute (d : Desc) : Bool := bit d.w0 12
def Desc.context (d : Desc) : Nat := bits d.w0 31 16
def Desc.stage (d : Desc) : Nat := bits d.w0 43 32
def Desc.beatOff (d : Desc) : Nat := bits d.w0 59 44
def Desc.tag (d : Desc) : Nat := bits d.w1 63 32
def Desc.micro (d : Desc) : Nat := bits d.w1 31 16

/-- Word `i` of a descriptor. -/
def Desc.word (d : Desc) (i : Nat) : W64 := [d.w0, d.w1, d.w2, d.w3, d.w4, d.w5, d.w6, d.w7].getD i 0

/-- A descriptor from its 64 bytes. -/
def descOf (bs : List Byte) : Desc :=
  let w (i : Nat) : W64 := BitVec.ofNat 64 (leNat ((bs.drop (8 * i)).take 8))
  { w0 := w 0, w1 := w 1, w2 := w 2, w3 := w 3, w4 := w 4, w5 := w 5, w6 := w 6, w7 := w 7 }

/-- The bytes of a descriptor. -/
def Desc.bytes (d : Desc) : List Byte := wordsBytes [d.w0, d.w1, d.w2, d.w3, d.w4, d.w5, d.w6, d.w7]

/-- An operand word (Table 11.5). -/
structure Operand where
  edge : Bool
  out : Bool
  first : Nat
  id : Nat
  deriving DecidableEq, Repr

/-- Read an operand word. -/
def operand (w : W64) : Operand := { edge := bit w 63, out := bit w 62, first := bits w 61 32, id := bits w 31 0 }

/-- "No operand" (R329). -/
def Operand.isNone (o : Operand) : Bool := o.id == 0xFFFFFFFF && !o.edge

/-- The key by which R326 compares operands: a tensor ID, or an edge half by edge and role. -/
def Operand.key (o : Operand) : Nat := if o.edge then 2 ^ 33 + 2 * o.id + b2n o.out else o.id % 2 ^ 24

/-- Opcodes (Table 11.6). -/
def opNop : Nat := 0x00
def opSignal : Nat := 0x01
def opWait : Nat := 0x02
def opFence : Nat := 0x03
def opTickMark : Nat := 0x04
def opVote : Nat := 0x05
def opLoadGraph : Nat := 0x10
def opPlace : Nat := 0x11
def opReplace : Nat := 0x12
def opPin : Nat := 0x13
def opUnloadGraph : Nat := 0x14
def opMatmul : Nat := 0x20
def opMatvec : Nat := 0x21
def opEmbGather : Nat := 0x22
def opEmbPool : Nat := 0x23
def opEmbScatter : Nat := 0x24
def opElemwise : Nat := 0x25
def opNorm : Nat := 0x26
def opSoftmax : Nat := 0x27
def opAttend : Nat := 0x28
def opConvert : Nat := 0x29
def opLoadWeights : Nat := 0x2A
def opCopy : Nat := 0x40
def opGatherParams : Nat := 0x41
def opReduceScatter : Nat := 0x42
def opAllToAll : Nat := 0x43
def opSend : Nat := 0x44
def opRecv : Nat := 0x45
def opUpdateLayer : Nat := 0x50
def opRowUpdate : Nat := 0x51
def opStepBegin : Nat := 0x52
def opStepCommit : Nat := 0x53
def opScheduleSet : Nat := 0x54
def opSetRecipe : Nat := 0x60
def opReadStats : Nat := 0x61
def opShadowCfg : Nat := 0x62
def opDigest : Nat := 0x70
def opDump : Nat := 0x71
def opTraceCtl : Nat := 0x72
def opSampleNow : Nat := 0x73
def opReplay : Nat := 0x74
def opRecordStep : Nat := 0x75
def opAbort : Nat := 0xF0
def opQuery : Nat := 0xF1

/-- Every opcode of Table 11.6. -/
def opcodes : List Nat :=
  [0, 1, 2, 3, 4, 5, 0x10, 0x11, 0x12, 0x13, 0x14, 0x20, 0x21, 0x22, 0x23, 0x24, 0x25, 0x26, 0x27, 0x28, 0x29, 0x2A,
   0x40, 0x41, 0x42, 0x43, 0x44, 0x45, 0x50, 0x51, 0x52, 0x53, 0x54, 0x60, 0x61, 0x62, 0x70, 0x71, 0x72, 0x73, 0x74, 0x75,
   0xF0, 0xF1]

/-- The opcode is accepted on a ring of this kind (Table 11.6). -/
def kindOk (stageRing : Bool) (op : Nat) : Bool :=
  if [0x00, 0x01, 0x02, 0x03, 0x40, 0x54, 0x60, 0x61, 0x62, 0x72, 0x73].contains op then true
  else if (0x10 ≤ op && op ≤ 0x14) || op == 0xF0 || op == 0xF1 then !stageRing
  else stageRing

/-- The bits of words 2-7 that an opcode names (Tables 11.7-11.11); all others are reserved (R328). -/
def usedBits (op : Nat) : List Nat :=
  let all := 2 ^ 64 - 1
  let f (hi lo : Nat) : Nat := 2 ^ (hi + 1) - 2 ^ lo
  match op with
  | 0x01 => [f 63 52 + f 12 0, all]
  | 0x02 => [f 63 32 + f 12 0, all]
  | 0x03 => [1]
  | 0x04 | 0x05 | 0x52 | 0x53 => [all]
  | 0x10 => [all]
  | 0x11 => [all, f 31 0]
  | 0x12 => [all, f 35 0, all]
  | 0x13 => [f 63 40 + 1, f 39 0, f 39 0]
  | 0x14 => [f 3 0]
  | 0x20 | 0x21 => [all, all, all, all, f 63 12, f 63 8]
  | 0x22 | 0x23 => [f 63 24 + f 19 16 + f 13 8, all, all, all, f 63 39]
  | 0x24 => [f 63 24 + f 19 16 + f 13 8, all, all, all, f 63 39, f 23 0]
  | 0x25 => [all, all, all, all, all, f 63 15]
  | 0x26 => [all, all, all, all, f 63 14, f 63 32]
  | 0x27 => [all, all, all, all, f 63 14, f 63 32]
  | 0x28 => [all, all, all, all, f 63 7, all]
  | 0x29 => [all, all, all, all, f 63 16, f 63 50]
  | 0x2A => [all, all, all, all, f 63 16, f 39 0]
  | 0x40 => [all, all, f 63 49 + f 39 0]
  | 0x41 => [f 63 47, all]
  | 0x42 => [all, all, f 63 42]
  | 0x43 => [all, all, f 63 42 + f 23 0]
  | 0x44 | 0x45 => [all, f 63 51 + f 31 0, f 39 0]
  | 0x50 => [f 63 48]
  | 0x51 => [f 63 40, all]
  | 0x54 => [f 63 57, all]
  | 0x60 => [f 63 50, all]
  | 0x61 => [all, f 63 62 + f 31 0, f 63 32]
  | 0x62 => [f 63 48 + f 7 0]
  | 0x70 => [all, all]
  | 0x71 => [f 63 40, all, all, f 39 0]
  | 0x72 => [f 63 56 + f 47 0, all]
  | 0x73 => [all]
  | 0x74 => [all, all]
  | 0x75 => [all]
  | 0xF0 => [f 15 0]
  | 0xF1 => [all, f 63 56 + f 31 0, f 19 0]
  | _ => []

/-- The first word, from word 2, in which a reserved bit is set. -/
def reservedWord (d : Desc) : Option Nat :=
  ([2, 3, 4, 5, 6, 7].find? fun i => (Desc.word d i).toNat &&& (2 ^ 64 - 1 - (usedBits (Desc.opcode d)).getD (i - 2) 0) != 0)

/-- RECOMPUTE is accepted on this command (R328). -/
def recomputeOk (d : Desc) : Bool :=
  let op := Desc.opcode d
  let mode := bits d.w6 15 14
  ((op == 0x20 || op == 0x21) && mode == 0) || op == 0x22 || op == 0x23 || op == 0x25 || (op == 0x27 && mode == 0) ||
    (op == 0x26 && decide (mode ≤ 1)) || op == 0x28 || op == 0x29

/-- The checks of every descriptor against its ring, in the order of Table 11.12's codes (log entry 18). -/
def headerCheck (stageRing : Bool) (context stage : Nat) (d : Desc) : Option Result :=
  let op := Desc.opcode d
  if !opcodes.contains op then some (descErr 0x01 0)
  else if !kindOk stageRing op then some (descErr 0x02 0)
  else if Desc.context d ≠ context ∨ Desc.stage d ≠ (if stageRing then stage else 0) ∨ (!stageRing && Desc.beatOff d ≠ 0) then
    some (descErr 0x03 0)
  else if bits d.w0 63 60 ≠ 0 ∨ bits d.w0 15 13 ≠ 0 ∨ bit d.w0 8 then some (descErr 0x04 0)
  else if bits d.w1 15 0 ≠ 0 then some (descErr 0x04 1)
  else
    match reservedWord d with
    | some i => some (descErr 0x04 i)
    | none => if Desc.recompute d && !recomputeOk d then some (descErr 0x08 0) else none

/-- The operands a descriptor reads and writes, by key (R326). -/
def readKeys (d : Desc) : List Nat :=
  let k (w : W64) : List Nat := if (operand w).isNone then [] else [(operand w).key]
  let t (n : Nat) : List Nat := [n % 2 ^ 24]
  match Desc.opcode d with
  | 0x20 | 0x21 => k d.w2 ++ k d.w3 ++ (if bit d.w6 12 then k d.w4 else []) ++ (if bit d.w6 13 then t (bits d.w7 31 8) else [])
  | 0x22 | 0x23 => t (bits d.w2 63 40) ++ k d.w3 ++ k d.w4
  | 0x24 => k d.w3 ++ k d.w4 ++ k d.w5
  | 0x25 => k d.w2 ++ k d.w3 ++ (if bits d.w6 15 8 = 0x12 then [] else k d.w4)
  | 0x26 => k d.w2 ++ k d.w3 ++ k d.w4
  | 0x27 | 0x28 => k d.w2 ++ k d.w3 ++ k d.w4
  | 0x29 => k d.w2
  | 0x40 => if bits d.w4 63 62 = 1 then t (bits d.w2 63 40) else []
  | 0x42 | 0x43 | 0x44 | 0x70 => k d.w2
  | 0x51 => k d.w3 ++ t (bits d.w2 63 40)
  | 0x71 => t (bits d.w2 63 40)
  | _ => []

/-- The operands a descriptor writes. -/
def writeKeys (d : Desc) : List Nat :=
  let k (w : W64) : List Nat := if (operand w).isNone then [] else [(operand w).key]
  let t (n : Nat) : List Nat := [n % 2 ^ 24]
  match Desc.opcode d with
  | 0x20 | 0x21 | 0x22 | 0x23 | 0x27 | 0x28 | 0x29 => k d.w5
  | 0x24 => t (bits d.w7 23 0)
  | 0x25 => k d.w5 ++ (if bits d.w6 15 8 = 0x12 then k d.w4 else [])
  | 0x26 => k d.w5 ++ k d.w4
  | 0x40 => if bits d.w4 61 60 = 1 && !bit d.w4 59 then t (bits d.w3 63 40) else []
  | 0x43 => k d.w3
  | 0x45 => k d.w2
  | 0x51 => t (bits d.w2 63 40)
  | _ => []

/-- Command `d` must wait for the earlier uncompleted `e` (R326). -/
def hazard (e d : Desc) : Bool :=
  (readKeys d).any (fun k => (writeKeys e).contains k) ||
    (writeKeys d).any (fun k => (writeKeys e).contains k || (readKeys e).contains k)

/-- The images that the placement in force places, in ascending handle (10 R288). -/
def imagesOf (s : State) : List Image := match s.ple.placement with | some p => p.images.map (·.2) | none => []

/-- A stage's entry in the loaded images. -/
def stageEnt (s : State) (n : Nat) : Option StageEnt := ((imagesOf s).flatMap (·.stages)).find? fun e => e.stage == n

/-- A layer's entry. -/
def layerEnt (s : State) (n : Nat) : Option LayerEnt := ((imagesOf s).flatMap (·.layers)).find? fun e => e.layer == n

/-- A tensor's entry. -/
def tensorEnt (s : State) (n : Nat) : Option TensorEnt := ((imagesOf s).flatMap (·.tensors)).find? fun e => e.tensor == n

/-- An edge's entry. -/
def edgeEnt (s : State) (n : Nat) : Option EdgeEnt := ((imagesOf s).flatMap (·.edges)).find? fun e => e.edge == n

/-- What the placement in force says of a stage, layer, tensor, edge. -/
def stagePl (s : State) (n : Nat) : Option StagePl := s.ple.placement.bind fun p => p.stages.find? fun e => e.stage == n
def layerPl (s : State) (n : Nat) : Option LayerPl := s.ple.placement.bind fun p => p.layers.find? fun e => e.layer == n
def tensorPl (s : State) (n : Nat) : Option TensorPl := s.ple.placement.bind fun p => p.tensors.find? fun e => e.tensor == n
def edgePl (s : State) (n : Nat) : Option EdgePl := s.ple.placement.bind fun p => p.edges.find? fun e => e.edge == n

/-- A stage is strict (02 R39); a stage that no image declares is lenient. -/
def isStrict (s : State) (n : Nat) : Bool := match stageEnt s n with | some e => e.strict | none => false

/-- Half of a tick buffer that a role names in a beat (02 R41). -/
def halfOf (out : Bool) (beat : Nat) : Nat := if out then beat % 2 else (beat + 1) % 2

/-- Key of a half. -/
def halfKey (edge half : Nat) : Nat := 2 * edge + half

/-- A half nothing has been written to. -/
def noHalf : Half := { form := none, poisoned := false }

/-- An operand names something the placement in force knows (Table 11.12 code 05). -/
def operandKnown (s : State) (o : Operand) : Bool :=
  if o.edge then (edgePl s o.id).isSome else decide (o.id < 2 ^ 24) && (tensorPl s o.id).isSome

/-- The boundary of a step has passed whose STEP_BEGIN has still to execute (08 R218). -/
def opens (s : State) : Bool :=
  match s.upd.boundary with
  | some n => s.qsu.rings.any fun p => p.2.cmds.any fun c => c.order == n && c.phase == .waiting
  | none => false

/-- The step a command runs in, from its boundary edge on (08 R218). -/
def theStep (s : State) : Option OpenStep := s.upd.step.or (if opens s then s.upd.opening else none)

/-- Change the step a command runs in. -/
def onStep (f : OpenStep → OpenStep) (s : State) : State :=
  match s.upd.step with
  | some o => { s with upd := { s.upd with step := some (f o) } }
  | none => if opens s then { s with upd := { s.upd with opening := s.upd.opening.map f } } else s

/-- The first difference of a replay (08 R244): UPD_REPLAY_STATUS keeps its section and entry. -/
def replayDiffers (sec entry : Nat) (s : State) : State :=
  match theStep s with
  | some o =>
    if o.replaying.isNone || o.mismatch then s
    else
      let w : W64 := at' 64 32 (o.num.toNat % 2 ^ 32) ||| at' 64 28 sec ||| BitVec.ofNat 64 (entry % 65536)
      onStep (fun o => { o with mismatch := true }) { s with upd := { s.upd with replayMismatch := true, replayStatus := w } }
  | none => s

/-- A digest of a recorded or replayed step is formed (08 R242, R244): kind 0 input or 1 result; a replay compares it with the
record's entry. -/
def formDigest (kind id micro beat : Nat) (bs : List Byte) (elems : Nat) (s : State) : State :=
  match theStep s with
  | some o =>
    if o.recording.isNone && o.replaying.isNone then s
    else
      let n := o.digests.length
      let e := (List.range 32).map (Config.digestByte kind id micro beat (crc32c bs).toNat elems)
      let s' := onStep (fun o => { o with digests := o.digests ++ [e] }) s
      match o.replaying with
      | some a => if n < 3840 && hostRead s (a.toNat + 0xE2000 + 32 * n) 32 != e then replayDiffers (kind + 1) n s' else s'
      | none => s'
  | none => s

/-- Check operand words: required ones known, unused ones "no operand"; the first failure. -/
def operandCheck (s : State) (d : Desc) (need : List Nat) (opt : List Nat) (unused : List Nat) : Option Result :=
  match unused.find? fun i => !(operand (Desc.word d i)).isNone with
  | some i => some (descErr 0x04 i)
  | none =>
    if s.ple.placement.isNone then some (descErr 0x05 2)
    else
      match need.find? (fun i => !operandKnown s (operand (Desc.word d i))) with
      | some i => some (descErr 0x05 i)
      | none =>
        match opt.find? (fun i => !(operand (Desc.word d i)).isNone && !operandKnown s (operand (Desc.word d i))) with
        | some i => some (descErr 0x05 i)
        | none => none

end Sys2Proof.Machine
end

