-- ==== Sys2Proof/Machine/Rings.lean ====
section
/-!
DEFINITION. Rings, contexts and commands (11 R313-R326, R341-R345): fetching, the rules that hold a command back, running
one, completing it and its record, and aborting a context.
-/
namespace Sys2Proof.Machine

/-- A ring context and a context entry at reset (Tables 11.1 and 11.2). -/
def resetRing : Ring :=
  { base := 0, tailAddr := 0, context := 0, stage := 0, stageRing := false, log2 := 0, state := .disabled, head := 0,
    done := 0, baseBeat := 0, disabling := false, tail := 0, maxSeen := 0, cqErr := false, cmds := [] }
def resetCtx : Ctx :=
  { valid := false, priv := false, priority := 0, pasidEn := false, pasid := 0, cqBase := 0, cqHeadAddr := 0, cqLog2 := 0,
    vector := 0, cqTail := 0, fetchQuota := 0, cxlQuota := 0, syncBase := 0, syncCount := 0, cqHead := 0 }
def resetSync : SyncObj := { value := 0, remoteOk := false }

def ringOf (s : State) (q : Nat) : Ring := SMap.get s.qsu.rings q resetRing
def ctxOf (s : State) (c : Nat) : Ctx := SMap.get s.qsu.ctxs c resetCtx
def syncOf (s : State) (i : Nat) : SyncObj := SMap.get s.qsu.sync i resetSync
def setRing (q : Nat) (r : Ring) (s : State) : State :=
  { s with qsu := { s.qsu with rings := SMap.set s.qsu.rings q r resetRing } }
def setCtx (c : Nat) (x : Ctx) (s : State) : State :=
  { s with qsu := { s.qsu with ctxs := SMap.set s.qsu.ctxs c x resetCtx } }
def setSync (i : Nat) (x : SyncObj) (s : State) : State :=
  { s with qsu := { s.qsu with sync := SMap.set s.qsu.sync i x resetSync } }

/-- A host access of a context succeeds (12 R352): with ATS enabled the host grants its translation or not, which an invalidation can change
(R353); a context with a PASID needs ATS. -/
def hostOk (s : State) (c : Nat) : Bool :=
  let x := ctxOf s c
  if s.glb.ats then Config.atsGranted (if x.pasidEn then x.pasid.toNat + 1 else 0) s.glb.atsSeen else !x.pasidEn

/-- An access of a context over CXL.cache succeeds: tail and head words, descriptors, completion records (12 R349, R350). -/
def cacheOk (s : State) (c : Nat) : Bool := s.glb.cacheMem && hostOk s c

/-- Base and completion ring addresses. -/
def Ring.baseAddr (r : Ring) : Nat := r.base.toNat * 64
def Ctx.cqAddr (c : Ctx) : Nat := c.cqBase.toNat * 4096

/-- Commands of a context that are fetched and not complete (R325). -/
def ctxInFlight (s : State) (c : Nat) : Nat :=
  s.qsu.rings.foldl (fun a p => if p.2.context.toNat = c then a + p.2.cmds.length else a) 0

/-- The ring may fetch one more command (R325). -/
def roomFor (s : State) (q : Nat) : Bool :=
  let r := ringOf s q
  let quota := (ctxOf s r.context.toNat).fetchQuota.toNat
  decide (r.cmds.length < 64) && (quota == 0 || decide (ctxInFlight s r.context.toNat < quota))

/-- Base beat for the next fetched command: that of the last TICK_MARK still waiting, else the context's (02 R38). -/
def Ring.fetchBase (r : Ring) : Nat :=
  match (r.cmds.filter fun c => Desc.opcode c.desc == opTickMark && c.phase == .waiting).getLast? with
  | some c => c.desc.w2.toNat
  | none => r.baseBeat.toNat

/-- The beat of a descriptor on a ring; a TICK_MARK counts for the beat it names (02 R38, R39; log entry 19). -/
def fetchBeat (r : Ring) (d : Desc) : Nat :=
  if !r.stageRing then 0 else if Desc.opcode d = opTickMark then d.w2.toNat else r.fetchBase + Desc.beatOff d

/-- How a fetched command starts out (02 R40, 11 R336): a reserved opcode or a command for an ended beat of a strict stage
is finished at once, and one for an ended beat of a lenient stage moves to the next beat. -/
def fetchCmd (s : State) (q : Nat) (d : Desc) : Cmd :=
  let r := ringOf s q
  let b := fetchBeat r d
  let ended := r.stageRing && Desc.opcode d != opTickMark && s.tkc.running && decide (b < s.tkc.beat.toNat)
  let strict := isStrict s r.stage.toNat
  let late := ended && !strict
  let phase : Phase :=
    if !opcodes.contains (Desc.opcode d) then .finished (descErr 0x01 0)
    else if ended && strict then .finished (descErr 0x06 0)
    else .waiting
  { index := r.head, desc := d, order := ctrAt s (qsuCtr 2), beat := if late then s.tkc.beat.toNat + 1 else b, late := late,
    phase := phase, held := false }

/-- The graph handle whose image declares a stage. -/
def graphOfStage (s : State) (stage : Nat) : Option Nat :=
  s.ple.placement.bind fun x => (x.images.find? fun p => p.2.stages.any fun e => e.stage == stage).map (·.1)

/-- The fault flag enters the step's vote, unless its frame is frozen (08 Table 8.8, 09 R282). -/
def voteStepBit (s : State) : State := onStep (fun st => if st.frozen then st else { st with stepBit := true }) s

/-- A slot bit enters the step's vote (08 Table 8.8). -/
def voteSlot (slot : Nat) (s : State) : State :=
  onStep (fun st => if st.frozen then st else { st with slotBits := putBit st.slotBits slot true }) s

/-- A non-finite value in an update: the step bit, or the slot's bit under the per-layer policy (08 Table 8.8). -/
def voteNonfinite (slot : Nat) (s : State) : State :=
  if s.act.votePolicy = 1 then voteSlot slot s else voteStepBit s

/-- What a finished command contributes to the step vote (08 Table 8.8). -/
def voteOfStatus (q : Nat) (op : Nat) (st : Byte) (s : State) : State :=
  let bad := st == stFault || st == stPoisoned || st == stAccess
  let update := op == opUpdateLayer || op == opRowUpdate || op == opReduceScatter
  if update && (bad || st == stDescErr) then voteStepBit s
  else if bad then
    match theStep s, (if (ringOf s q).stageRing then graphOfStage s (ringOf s q).stage.toNat else none) with
    | some o, some g => if o.graph = g then voteStepBit s else s
    | _, _ => s
  else s

/-- A fetched command enters its ring (R324). -/
def addCmd (q : Nat) (c : Cmd) (s : State) : State :=
  let r := ringOf s q
  count (qsuCtr 2) 1 (setRing q { r with head := r.head + 1, cmds := r.cmds ++ [c], maxSeen := max r.maxSeen c.beat } s)

/-- Fetch one descriptor into a ring (R324, R325); one that is finished at once enters the step vote (R336, 08 Table 8.8). -/
def fetchDesc (q : Nat) (d : Desc) (s : State) : State :=
  let c := fetchCmd s q d
  match c.phase with
  | .finished r => voteOfStatus q (Desc.opcode d) r.status (addCmd q c s)
  | _ => addCmd q c s

/-- Put a ring into the error state (R317, R323). -/
def ringError (q : Nat) (s : State) : State :=
  let r := ringOf s q
  setRing q { r with state := .error, cqErr := r.cqErr && r.state == .error } { s with qsu := { s.qsu with ringError := true } }

/-- Doorbell of one ring (R322, R323): read its tail word; `fetchAll` then fetches what it covers. -/
def doorbellRing (q : Nat) (s : State) : State :=
  let r := ringOf s q
  if r.state != .enabled || r.disabling then count (qsuCtr 3) 1 s
  else if !cacheOk s r.context.toNat then ringError q s
  else
    let tail : W32 := BitVec.ofNat 32 (hostNat s (r.tailAddr.toNat * 8) 4)
    let s := count (qsuCtr 1) 1 s
    if 2 ^ r.log2.toNat < (tail - r.head).toNat then raise 0x50 (BitVec.ofNat 64 q) (ringError q s)
    else setRing q { r with tail := tail } s

/-- Set bits of a byte, by number. -/
def setBits (b : Byte) : List Nat := (List.range 8).filter fun i => b.getLsbD i

/-- Numbers of the set bits of a list of bytes (R320: bit n is bit n mod 8 of byte floor(n / 8)). -/
def bitsOf (bs : List Byte) : List Nat := bs.zipIdx.flatMap fun p => (setBits p.1).map fun i => 8 * p.2 + i

/-- Read a 64-byte line of host memory with ownership and clear it (R322). -/
def takeLine (a : Nat) (s : State) : List Nat × State :=
  (bitsOf (hostRead s a 64), hostWrite s a (List.replicate 64 0))

/-- One level-1 line of a doorbell pass (R322). -/
def doorbellLine (line : Nat) (s : State) : State :=
  let l1 := takeLine (s.act.dbL1.toNat + 64 * line) s
  l1.1.foldl (fun s i =>
    let l2 := takeLine (s.act.dbL2.toNat + 64 * (512 * line + i)) s
    l2.1.foldl (fun s j => doorbellRing (512 * (512 * line + i) + j) s) l2.2) l1.2

/-- Rings with descriptors waiting (R318). -/
def fetchReady (s : State) : List (Nat × Ring) :=
  s.qsu.rings.filter fun p => p.2.state == .enabled && !p.2.disabling && p.2.tail != p.2.head

/-- The rings of a class that may be fetched from, by ring ID (R318, R325). -/
def fetchClass (s : State) (k : Nat) : List Nat :=
  ((fetchReady s).filter fun p => (ctxOf s p.2.context.toNat).priority.toNat == k && roomFor s p.1).map (·.1)

/-- Fetches a class has in a round: W of QSU_FETCH_W, 0 as 1 (R318, Table 11.20). -/
def fetchWeight (s : State) (k : Nat) : Nat := max 1 (bits s.qsu.fetchW (4 * k + 3) (4 * k))

/-- One descriptor of a ring with room; a refused host read puts the ring into the error state (R317, R324). -/
def fetchOne (q : Nat) (s : State) : State :=
  let r := ringOf s q
  if !cacheOk s r.context.toNat then ringError q s
  else fetchDesc q (descOf (hostRead s (r.baseAddr + 64 * (r.head.toNat % 2 ^ r.log2.toNat)) 64)) s

/-- Next ring of a class: the first with a higher ID than the last one served, else the lowest (R318). -/
def fetchNext (s : State) (k : Nat) : Option Nat :=
  let l := fetchClass s k
  (l.find? fun q => decide (SMap.get s.qsu.fetchLast k 0 < q)).or l.head?

/-- Serve one class, a descriptor at a time, up to its weight (R318; log entry 20). -/
def fetchServe (k : Nat) : Nat → State → State
  | 0, s => s
  | n + 1, s =>
    match fetchNext s k with
    | some q => fetchServe k n (fetchOne q { s with qsu := { s.qsu with fetchLast := SMap.set s.qsu.fetchLast k q 0 } })
    | none => s

/-- One round of the weighted round robin, from class 3 down (R318; log entry 20). -/
def fetchRound (s : State) : State := [3, 2, 1, 0].foldl (fun s k => fetchServe k (fetchWeight s k) s) s

/-- Rounds until no ring that may be fetched from is left (R318). -/
def fetchRounds : Nat → State → State
  | 0, s => s
  | n + 1, s => if ([3, 2, 1, 0].flatMap (fetchClass s)).isEmpty then s else fetchRounds n (fetchRound s)

/-- Serve every ring that waits, as far as the limits allow; a ring left at a limit counts (R318, R325). -/
def fetchAll (s : State) : State :=
  if s.qsu.fetchEn then
    let s' := fetchRounds (64 * (fetchReady s).length) s
    count (qsuCtr 4) (fetchReady s').length s'
  else s

/-- Replace the command of descriptor count `i` in a ring. -/
def setCmd (q : Nat) (i : W32) (f : Cmd → Cmd) (s : State) : State :=
  let r := ringOf s q
  setRing q { r with cmds := r.cmds.map fun c => if c.index = i then f c else c } s

/-- A command is finished; its record follows (R342). The LATE flag is the command's own (R40). -/
def finish (q : Nat) (c : Cmd) (r : Result) (s : State) : State :=
  let r := if c.late then r.add stOk flLate else r
  voteOfStatus q (Desc.opcode c.desc) r.status (setCmd q c.index (fun x => { x with phase := .finished r }) s)

/-- Set the phase a command has come to. -/
def setPhase (q : Nat) (c : Cmd) (p : Phase) (s : State) : State :=
  match p with
  | .finished r => finish q c r s
  | p => setCmd q c.index (fun x => { x with phase := p }) s

/-- The earlier commands of the ring that are not complete. -/
def earlier (r : Ring) (c : Cmd) : List Cmd := r.cmds.takeWhile fun x => x.index != c.index

/-- The oldest command of a ring that has not started. -/
def Ring.front (r : Ring) : Option Cmd := r.cmds.find? fun c => c.phase == .waiting

/-- The ring runs its fetched commands: it is enabled, disabling or in the error state (R319, R323). -/
def ringRuns (r : Ring) : Bool := r.state == .enabled || r.state == .error

/-- A beat of a stage ring has come (02 R38). -/
def beatDue (s : State) (c : Cmd) : Bool :=
  Desc.opcode c.desc == opTickMark || (s.tkc.running && decide (c.beat ≤ s.tkc.beat.toNat))

/-- The command that a ring starts next: the first waiting one whose beat has come, so that a command of the present beat is not held by
one of a later beat before it (02 R38). -/
def Ring.due (s : State) (r : Ring) : Option Cmd := r.cmds.find? fun c => c.phase == .waiting && (!r.stageRing || beatDue s c)

/-- Commands that add into accumulation rows or read them: an EMB_SCATTER or a ROW_UPDATE of a table (07 R187). -/
def addsRows (d : Desc) : Bool := Desc.opcode d == opEmbScatter || Desc.opcode d == opRowUpdate

/-- No lower stage has such work on the same table left in the beat (07 R187). -/
def stageOrder (s : State) (r : Ring) (c : Cmd) : Bool :=
  !addsRows c.desc || !r.stageRing ||
    s.qsu.rings.all fun p => !ringRuns p.2 || !p.2.stageRing || decide (r.stage.toNat ≤ p.2.stage.toNat) ||
      p.2.cmds.all fun e => !addsRows e.desc || bits e.desc.w2 63 40 != bits c.desc.w2 63 40 || decide (c.beat < e.beat) ||
        (match e.phase with | .finished _ => true | _ => false)

/-- A command may start (R314, R326, R338, 02 R38, 07 R187); one finished as it was fetched does not run (R336). -/
def startable (s : State) (r : Ring) (c : Cmd) : Bool :=
  let op := Desc.opcode c.desc
  let before := earlier r c
  ringRuns r && c.phase == .waiting &&
    (if r.stageRing then beatDue s c else before.isEmpty) && stageOrder s r c &&
    ((!Desc.fence c.desc && op != opFence && op != opSignal) || before.isEmpty) &&
    before.all fun e => !hazard e.desc c.desc

/-- Fetch `d` as a ring's next descriptor, where the ring can take one (log entry 5). -/
def fetchNow (q : Nat) (d : Desc) (s : State) : Option (Cmd × State) :=
  let r := ringOf s q
  if r.state == .enabled && !r.disabling && s.qsu.fetchEn && roomFor s q then
    let s := fetchDesc q d (setRing q { r with tail := if r.tail = r.head then r.head + 1 else r.tail } s)
    (ringOf s q).cmds.getLast?.map fun c => (c, s)
  else none

/-- The command a ring offers for descriptor `d`: the one it starts next if that has these words; where none may start, its oldest
waiting one if that has them, or `d` is fetched now (log entry 5). -/
def offer (q : Nat) (d : Desc) (s : State) : Option (Cmd × State) :=
  let r := ringOf s q
  match r.due s with
  | some c => if c.desc = d then some (c, s) else none
  | none =>
    match r.front with
    | some c => if c.desc = d then some (c, s) else fetchNow q d s
    | none => fetchNow q d s

/-- The words CMD_START and CMD_DONE share (15 Table 15.7). -/
def cmdTrace2 (c : Cmd) : W64 := at' 64 32 (Desc.tag c.desc) ||| c.index.setWidth 64

/-- The requests of a command that starts wait for trackers of their pools, by class and then in their order of arrival (R318, R327). Within
one command every request is served and every tracker is free again; how many waited is free (log entry 64). -/
def waitTrackers (s : State) : State := count (qsuCtr 5) (Config.trackerWaits (ctrAt s (qsuCtr 5)) (ctrAt s (qsuCtr 2))) s

/-- CMD_START record of a command (15 Table 15.7): a command on a direct ring belongs to the beat in which it starts (R314). -/
def traceStart (q : Nat) (r : Ring) (c : Cmd) (s : State) : State :=
  let beat := if r.stageRing then c.beat else s.tkc.beat.toNat
  let w3 : W64 := at' 64 56 (Desc.opcode c.desc) ||| at' 64 36 q ||| at' 64 0 (beat % 2 ^ 32)
  trace 0x01 0xB00 r.stage.toNat (cmdTrace2 c) w3 (waitTrackers s)

/-- What an operand key of a command names as an input: a tensor, or the tensor of an edge, with the bytes that it holds; those of an
embedding table are its row pages. -/
def inputOf (s : State) (beat k : Nat) : Option (TensorEnt × List Byte) :=
  if 2 ^ 33 ≤ k then
    let id := (k - 2 ^ 33) / 2
    match (edgeEnt s id).bind fun e => tensorEnt s e.tensor, edgePl s id with
    | some e, some p => some (e, devBytes s (if halfOf (k % 2 == 1) beat = 0 then p.half0.dpa else p.half1.dpa) p.bytes)
    | _, _ => none
  else
    match tensorEnt s k with
    | none => none
    | some e =>
      if e.role = 3 then some (e, (s.ple.dir.filter fun x => x.1 / 2 ^ 40 == k).flatMap fun x => devBytes s x.2.page 4096)
      else (tensorPl s k).map fun p => (e, devBytes s p.dpa p.bytes)

/-- Input digests of the tensors of other graphs that a command of the step reads (08 R242; log entry 39). -/
def digestInputs (r : Ring) (c : Cmd) (s : State) : State :=
  match theStep s, graphOfStage s r.stage.toNat with
  | some o, some g =>
    if !r.stageRing || o.graph ≠ g || (o.recording.isNone && o.replaying.isNone) then s
    else
      let own := match s.ple.placement with | some p => (match SMap.find p.images g with | some im => im.tensors | none => []) | none => []
      (readKeys c.desc).foldl (fun s k =>
        match inputOf s c.beat k with
        | some x =>
          if own.any fun y => y.tensor == x.1.tensor then s
          else formDigest 0 x.1.tensor (Desc.micro c.desc) c.beat x.2 (x.1.rows * x.1.k) s
        | none => s) s
  | _, _ => s

/-- What a command does once it may start: `check` decides DESCRIPTOR_ERROR, `body` is its effect, which tells the phase it
has come to; a body that answers `waiting` has not started. -/
structure Meaning where
  check : State → Ring → Cmd → Option Result
  body : Nat → Ring → Cmd → State → Phase × State

/-- Start a command of a ring (R336). -/
def startCmd (m : Meaning) (q : Nat) (c : Cmd) (s : State) : State :=
  let r := ringOf s q
  let hdr := headerCheck r.stageRing r.context.toNat r.stage.toNat c.desc
  match hdr.or (m.check s r c) with
  | some e => finish q c e (traceStart q r c s)
  | none =>
    let out := m.body q r c s
    match out.1 with
    | .waiting => out.2
    | p => digestInputs r c <| setPhase q c p (traceStart q r c out.2)

/-- Run a command of a ring: opcode `op` with descriptor `d` is what the driver's ring holds next (log entry 5). -/
def runCmd (op : Nat) (m : Meaning) (q : Nat) (d : Desc) (s : State) : State :=
  if !serving s || Desc.opcode d != op then s
  else
    match offer q d s with
    | none => s
    | some (c, s') => if startable s' (ringOf s' q) c then startCmd m q c s' else s'

/-- A WAIT whose value is reached completes (R339). -/
def wakeRing (q : Nat) (s : State) : State :=
  (ringOf s q).cmds.foldl (fun s c =>
    match c.phase with
    | .started _ =>
      if Desc.opcode c.desc = opWait && decide (c.desc.w3.toNat ≤ (syncOf s (bits c.desc.w2 12 0)).value.toNat) then
        finish q c okResult s
      else s
    | _ => s) s

/-- After a sync object has changed, every WAIT on it is looked at (R339). -/
def wakeWaits (s : State) : State := (s.qsu.rings.map (·.1)).foldl (fun s q => wakeRing q s) s

/-- Store a sync object's value and let its WAITs see it. -/
def putSync (i : Nat) (x : SyncObj) (s : State) : State := wakeWaits (setSync i x s)

/-- Every ring of a context enters the error state because a completion write or head read failed (R317). -/
def cqError (ctx : Nat) (s : State) : State :=
  let s := { s with qsu := { s.qsu with cqError := true } }
  (s.qsu.rings.map (·.1)).foldl (fun s q =>
    if (ringOf s q).context.toNat = ctx then setRing q { ringOf s q with state := .error, cqErr := true } (ringError q s) else s) s

/-- The record of a finished command (Table 11.15). -/
def recordBytes (s : State) (q : Nat) (c : Cmd) (x : Ctx) (r : Result) : List Byte :=
  let k := x.cqTail.toNat
  let w0 : W64 := at' 64 32 (Desc.tag c.desc) ||| at' 64 31 (phaseBit k x.cqLog2.toNat) ||| at' 64 8 q ||| r.status.setWidth 64
  let w2 : W64 := at' 64 32 r.flags.toNat ||| c.index.setWidth 64
  let w3 : W64 := at' 64 56 (Desc.opcode c.desc) ||| at' 64 48 r.retries.toNat ||| at' 64 32 r.repeats.toNat ||| r.detail.setWidth 64
  wordsBytes [w0, stamp s, w2, w3]

/-- CMD_DONE record (15 Table 15.7). -/
def traceDone (r : Ring) (c : Cmd) (x : Result) (s : State) : State :=
  let w3 : W64 := at' 64 56 (Desc.opcode c.desc) ||| at' 64 48 x.status.toNat ||| at' 64 32 x.repeats.toNat ||| x.flags.setWidth 64
  trace 0x02 0xB00 r.stage.toNat (cmdTrace2 c) w3 s

/-- The ring's oldest command is complete: it leaves the ring and DONE advances (R342); of an aborted ring, to the tail with the last (R345). -/
def popCmd (q : Nat) (s : State) : State :=
  let r := ringOf s q
  setRing q { r with done := if r.state == .aborted && r.cmds.length == 1 then r.head else r.done + 1, cmds := r.cmds.drop 1 } s

/-- Rings of a ring's context are in the error state because of a failed completion access: no further record (R319). -/
def cqFailed (s : State) (r : Ring) : Bool := s.qsu.rings.any fun p => p.2.context == r.context && p.2.cqErr && p.2.state == .error

/-- Complete the ring's oldest command if it is finished (R341-R343); `true` tells that it left the ring. -/
def completeHead (q : Nat) (s : State) : Bool × State :=
  let r := ringOf s q
  match r.cmds with
  | [] => (false, s)
  | c :: _ =>
    match c.phase with
    | .finished res =>
      let ctx := r.context.toNat
      let x := ctxOf s ctx
      if cqFailed s r || (Desc.quiet c.desc && res.status = stOk) then (true, popCmd q (traceDone r c res s))
      else if !cacheOk s ctx then (true, popCmd q (traceDone r c res (cqError ctx s)))
      else if ringFull x.cqTail x.cqHead x.cqLog2.toNat then
        (false, if c.held then s else count (qsuCtr 7) 1 (setCmd q c.index (fun y => { y with held := true }) s))
      else
        let s := hostWrite s (x.cqAddr + 32 * (x.cqTail.toNat % 2 ^ x.cqLog2.toNat)) (recordBytes s q c x res)
        let s := setCtx ctx { x with cqTail := x.cqTail + 1 } s
        let s := popCmd q (traceDone r c res (count (qsuCtr 6) 1 s))
        (true, if Desc.irq c.desc then request x.vector.toNat s else s)
    | _ => (false, s)

/-- Write records of a ring as long as they can be written. -/
def drainRing (q : Nat) : Nat → State → State
  | 0, s => s
  | fuel + 1, s =>
    match completeHead q s with
    | (true, s') => drainRing q fuel s'
    | (false, s') => s'

/-- Poison the OUT half of every edge a stage produces, for a beat (02 R42). -/
def poisonStageOut (stage beat : Nat) (s : State) : State :=
  let es := ((imagesOf s).flatMap (·.edges)).filter fun e => e.producer == stage
  let mark (m : SMap Half) (e : EdgeEnt) : SMap Half :=
    SMap.alter m (halfKey e.edge (halfOf true beat)) noHalf fun h => { h with poisoned := true }
  { s with tiles := { s.tiles with halves := es.foldl mark s.tiles.halves } }

/-- A command that an abort ends (R345 step 3); a STEP_COMMIT whose vote result is fixed is not one (R345). -/
def abortable (c : Cmd) : Bool :=
  match c.phase with
  | .finished _ => false
  | .committing _ => false
  | _ => true

/-- A VOTE that has not contributed is aborted: the fault flag enters the vote, which the device gives at its guard band (R345). A
STEP_COMMIT that was to vote in its place gives none. -/
def abortVote (c : Cmd) (s : State) : State :=
  let op := Desc.opcode c.desc
  match s.upd.step with
  | some o =>
    if (op = opVote ∨ op = opStepCommit) ∧ !o.frozen ∧ c.desc.w2 = o.num then
      if op = opVote then voteStepBit { s with upd := { s.upd with step := some { o with votePending := true } } }
      else
        match c.phase with
        | .started _ => { s with upd := { s.upd with step := some { o with votePending := false } } }
        | _ => s
    else s
  | none => s

/-- The step ends (01 R22, 08 Table 8.14): UPD_LAST_STEP, the skip map and the status bits. DESIGN CHOICE: no rule says whether a discarded
STEP_COMMIT is "the last commit" of LAST_SKIPPED and UPD_SKIP_MAPn; the model takes it for one that skipped no slot (log entry 150). -/
def closeStep (n : W64) (discarded : Bool) (slots : BitVec 16384) (s : State) : State :=
  let upd := { s.upd with
    recHeld := s.upd.recHeld || (match s.upd.step with | some o => o.recording.isSome | none => false)
    step := none, lastStep := n, lastDiscarded := discarded, lastSkipped := slots != 0, skipMap := slots, staged := [], slotOf := []
    gradGot := [] }
  { s with upd := upd, fab := { s.fab with frame := none, round := 0, frames := [], final := none }
           prc := { s.prc with bootstrap := [] } }

/-- Every staged update is dropped (01 R24, 07 R193, 09 R276). -/
def dropStaged (s : State) : State :=
  { s with mem := { s.mem with log := s.mem.log.filter (·.committed) }, fab := { s.fab with errStage := [], errSlot := [] } }

/-- A STEP_COMMIT of the open step is aborted: it sets UPD_LAST_STEP, and the step counts as discarded (01 R22, 14 R420). A step whose
vote is under way stays open until its result is fixed, so that the device serves the vote of its peers. -/
def abortCommit (c : Cmd) (s : State) : State :=
  match s.upd.step with
  | some o =>
    if Desc.opcode c.desc ≠ opStepCommit ∨ c.desc.w2 ≠ o.num then s
    else if o.frozen || o.votePending then
      { s with upd := { s.upd with lastStep := o.num, step := some { o with aborted := true } } }
    else closeStep o.num true 0 (dropStaged s)
  | none => s

/-- Abort one command (R345, 02 R42): ABORTED, its partial writes left; a VOTE that has not contributed adds the fault flag. The output of
a later beat is poisoned when that beat comes. -/
def abortCmd (q : Nat) (c : Cmd) (s : State) : State :=
  if abortable c then
    let r := ringOf s q
    let s := abortCommit c (abortVote c s)
    let s :=
      if !r.stageRing then s
      else { s with tkc := { s.tkc with aborted := s.tkc.aborted ++ [(r.stage.toNat, c.beat)] } }
    let s :=
      if !r.stageRing then s
      else if c.beat ≤ s.tkc.beat.toNat then poisonStageOut r.stage.toNat c.beat s
      else { s with tiles := { s.tiles with lateOut := s.tiles.lateOut ++ [(r.stage.toNat, c.beat)] } }
    let keepR := s.fab.reductions.filter fun x => !(x.ring == q && x.index == c.index)
    let keepT := s.fab.transfers.filter fun x => !(x.ring == q && x.index == c.index)
    let s := { s with fab := { s.fab with reductions := keepR, transfers := keepT } }
    setCmd q c.index (fun x => { x with phase := .finished (stResult stAborted) }) s
  else s

/-- Bring the descriptors between HEAD and the tail into the ring, to be completed ABORTED (R345). -/
def fetchRest (q : Nat) : Nat → State → State
  | 0, s => s
  | fuel + 1, s =>
    let r := ringOf s q
    if r.tail == r.head then s
    else
      let a := r.baseAddr + 64 * (r.head.toNat % 2 ^ r.log2.toNat)
      fetchRest q fuel (addCmd q { fetchCmd s q (descOf (hostRead s a 64)) with phase := .waiting } s)

/-- Step 1 of an abort on a ring (R345): its tail is read, and what an enabled ring still has to fetch up to it is brought in. Descriptors of a
ring in error, or of one that is not enabled, are never completed (R319), and more than the ring holds cannot be; HEAD comes to the tail all the
same (log entry 158). -/
def abortTail (q : Nat) (s : State) : State :=
  let r := ringOf s q
  if !cacheOk s r.context.toNat then s
  else
    let tail : W32 := BitVec.ofNat 32 (hostNat s (r.tailAddr.toNat * 8) 4)
    let s := count (qsuCtr 1) 1 s
    let s :=
      if r.state != .enabled || r.disabling || decide (2 ^ r.log2.toNat < (tail - r.head).toNat) then s
      else fetchRest q (2 ^ r.log2.toNat) (setRing q { r with tail := tail } s)
    setRing q { ringOf s q with head := tail, tail := tail } s

/-- Abort one ring: read its tail, end every unfinished command after `keep`, write the records that can be written (R345). With no command
left DONE is at the tail. -/
def abortRing (keep : Option W32) (q : Nat) (s : State) : State :=
  let n := 2 ^ (ringOf s q).log2.toNat + 64
  let s := abortTail q s
  let s := (ringOf s q).cmds.foldl (fun s c => if keep = some c.index then s else abortCmd q c s) s
  let r := ringOf s q
  let s := setRing q { r with state := .aborted, disabling := false, done := if r.cmds.isEmpty then r.head else r.done } s
  if keep = none then drainRing q n s else s

/-- Abort every ring of a context; `self` is the ring and count of the ABORT_CONTEXT itself (R345). -/
def abortContext (ctx : Nat) (self : Option (Nat × W32)) (s : State) : State :=
  (s.qsu.rings.map (·.1)).foldl (fun s q =>
    if (ringOf s q).context.toNat = ctx then
      abortRing (match self with | some (p, i) => if p = q then some i else none | none => none) q s
    else s) s

end Sys2Proof.Machine
end

