-- ==== Sys2Proof/Machine/FabOps.lean ====
section
/-!
DEFINITION. The lattice and its ports (09 R256-R263), the flits and messages that leave the device (R252-R255, R262-R267, 15 R443), and
the condemnation and retirement of units (15 R447-R449).
-/
namespace Sys2Proof.Machine

/-- Sizes and own coordinates of the lattice (R257), by dimension. -/
def latSize (s : State) (k : Nat) : Nat := [s.act.topo.d0.toNat, s.act.topo.d1.toNat, s.act.topo.d2.toNat].getD k 1
def latCoord (s : State) (k : Nat) : Nat := [s.act.topo.x0.toNat, s.act.topo.x1.toNat, s.act.topo.x2.toNat].getD k 0

/-- Device ID of coordinates (R257). -/
def deviceAt (s : State) (x0 x1 x2 : Nat) : Nat := x0 + latSize s 0 * (x1 + latSize s 1 * x2)
def myDevice (s : State) : Nat := deviceAt s (latCoord s 0) (latCoord s 1) (latCoord s 2)

/-- Coordinate of a device in a dimension. -/
def coordOf (s : State) (dev k : Nat) : Nat :=
  match k with
  | 0 => dev % latSize s 0
  | 1 => dev / latSize s 0 % latSize s 1
  | _ => dev / (latSize s 0 * latSize s 1)

/-- Number of devices of the domain. -/
def deviceCount (s : State) : Nat := latSize s 0 * latSize s 1 * latSize s 2

/-- The lattice obeys R257 and the coordinates lie in it (R286). -/
def topoOk (t : FabTopo) : Bool :=
  let ok (d x : BitVec 6) : Bool := decide (1 ≤ d.toNat) && decide (d.toNat ≤ 33) && decide (x.toNat < d.toNat)
  ok t.d0 t.x0 && ok t.d1 t.x1 && ok t.d2 t.x2 && decide (t.d0.toNat * t.d1.toNat * t.d2.toNat ≤ 1024) &&
    decide (t.d0.toNat + t.d1.toNat + t.d2.toNat ≤ 35)

/-- First port of a dimension (R259). -/
def portBase (s : State) (k : Nat) : Nat := ((List.range k).map fun j => latSize s j - 1).foldl (· + ·) 0

/-- The port to the peer at coordinate `y` of dimension `k` (R259). -/
def portTo (s : State) (k y : Nat) : Option Nat :=
  let x := latCoord s k
  if y = x ∨ latSize s k ≤ y then none else some (portBase s k + (if y < x then y else y - 1))

/-- Every (dimension, coordinate) pair that has a port. -/
def peers (s : State) : List (Nat × Nat) :=
  [0, 1, 2].flatMap fun k => ((List.range (latSize s k)).filter fun y => y != latCoord s k).map fun y => (k, y)

/-- The peer a port leads to (R259). -/
def peerOf (s : State) (p : Nat) : Option (Nat × Nat) := (peers s).find? fun q => portTo s q.1 q.2 == some p

/-- A port with no assignment. -/
def resetPort : Port :=
  { state := .unused, rtt := 0, lanes := 0, txSeq := 0, rxExp := 0, replay := [], queue := [], sent := [], naking := false, say := []
    credits := [], owed := [], turnVc := 0, turnLeft := 0, ackTime := 0, replays := [], retrainAt := none, replayRetrains := []
    failedRetrains := [] }

/-- The SEQs that the peer has not acknowledged, oldest first (R253). -/
def Port.unacked (x : Port) : List Nat := x.replay.map (·.seq)

def portAt (s : State) (p : Nat) : Port := SMap.get s.fab.ports p resetPort
def setPort (p : Nat) (x : Port) (s : State) : State :=
  { s with fab := { s.fab with ports := SMap.set s.fab.ports p x resetPort } }
def portUp (s : State) (p : Nat) : Bool := (portAt s p).state == .up

/-- FAB_PORT_LIVE. -/
def portLive (s : State) : W32 := (List.range 32).foldl (fun w p => if portUp s p then putBit w p true else w) 0

/-- Assigned ports and whether all are UP (FAB_STATUS.ALL_UP). -/
def assignedPorts (s : State) : List Nat := (peers s).filterMap fun q => portTo s q.1 q.2
def allUp (s : State) : Bool := (assignedPorts s).all fun p => portUp s p

/-- The device a port leads to (R257, R259). -/
def peerDevice (s : State) (k y : Nat) : Nat :=
  let c (j : Nat) : Nat := if j = k then y else latCoord s j
  deviceAt s (c 0) (c 1) (c 2)

/-- The port of the peer at coordinate `z` of dimension `k` towards coordinate `y` is UP, as far as the peer has told (R263; log entry
22). -/
def viaUp (s : State) (k z y : Nat) : Bool :=
  !((SMap.get s.fab.peerPorts (peerDevice s k z) 0).getLsbD (portBase s k + (if y < z then y else y - 1)))

/-- FAB_DETOUR entries (R263): VALID and VIA for each peer whose port is not UP, VIA the lowest coordinate with both ports UP. -/
def detourByte (s : State) (k y : Nat) : Byte :=
  match portTo s k y with
  | none => 0
  | some p =>
    if portUp s p then 0
    else
      match (List.range (latSize s k)).find? fun z =>
          z != y && z != latCoord s k && (match portTo s k z with | some q => portUp s q | none => false) && viaUp s k z y with
      | some z => BitVec.ofNat 8 (128 + z)
      | none => 0

/-- Firmware sets the detour table after a change of port state (R263). -/
def setDetours (s : State) : State :=
  let m := (peers s).foldl (fun (m : SMap Byte) q => SMap.set m (33 * q.1 + q.2) (detourByte s q.1 q.2) 0) []
  { s with fab := { s.fab with detour := m } }

/-- FAB_PORT_DOWN is asserted while an assigned port is not UP (13 Table 13.1). -/
def portLevel (s : State) : State :=
  if allUp s then deassertLevel 0x41 s else assertLevel 0x41 ((portLive s).setWidth 64) s

/-- The port that carries traffic to the peer at (k, y): its own, or the first hop of its detour (R263). -/
def hopPort (s : State) (k y : Nat) : Option Nat :=
  match portTo s k y with
  | none => none
  | some p =>
    if portUp s p then some p
    else
      let d := SMap.get s.fab.detour (33 * k + y) 0
      if d.getLsbD 7 then portTo s k (d.toNat % 64) else none

/-- The first hop towards a device in dimension order (R261); `none` where it is unreachable or is this device. -/
def routePort (s : State) (dev : Nat) : Option Nat :=
  match [0, 1, 2].find? fun k => coordOf s dev k != latCoord s k with
  | some k => hopPort s k (coordOf s dev k)
  | none => none

/-- Bytes of an escape entry and of a message's payload in slots (R267, Tables 9.5 and 9.6). -/
def msgSlots (m : Message) : Nat := 1 + ceilDiv m.body.length 64 + ceilDiv (8 * m.escapes.length) 64

/-- TP_SEND and TP_RECV words (15 Table 15.7). -/
def tpWord2 (src dst vc port : Nat) : W64 := at' 64 54 src ||| at' 64 44 dst ||| at' 64 41 vc ||| at' 64 36 port

/-- Credits a port holds after training, and their key by VC and pool (R254). -/
def poolSize (detour : Bool) : Nat := if detour then 128 else 896
def creditKey (vc : Nat) (detour : Bool) : Nat := 2 * vc + b2n detour

/-- A run of bytes as words, filled up to whole slots of 64 bytes (R267). -/
def slotWords (bs : List Byte) : List W64 :=
  (chunks 8 (bs ++ List.replicate (roundUp 64 bs.length - bs.length) 0)).map fun b => BitVec.ofNat 64 (leNat b)

/-- A message as the words of its slots: header, body, escape entries (R267, Tables 9.5 and 9.6). -/
def messageWords (m : Message) : List W64 :=
  [at' 64 60 m.kind ||| at' 64 56 m.hop ||| at' 64 50 m.group ||| at' 64 40 m.src ||| at' 64 30 m.dst,
   at' 64 40 m.tensor ||| BitVec.ofNat 64 (m.first % 2 ^ 40), at' 64 32 m.step.toNat ||| m.scaleGen.setWidth 64,
   at' 64 32 m.count ||| at' 64 16 m.escapes.length, at' 64 32 m.cmd.toNat ||| m.msgIndex.setWidth 64, 0, 0, 0] ++
    slotWords m.body ++ slotWords (m.escapes.flatMap fun e => leBytes 8 (e.value.toNat * 2 ^ 32 + e.offset % 2 ^ 14))

/-- The decision point of the coming edge, 0.2 µs before it, has passed (02 R43). -/
def decisionPassed (s : State) : Bool := decide (s.tkc.nextEdge.toNat ≤ now s + 3200)

/-- A port as it sends now: from the decision point on it places no DONE symbols (09 R281). -/
def voicePort (s : State) (p : Nat) : Port := if decisionPassed s then { portAt s p with say := [] } else portAt s p

/-- Unsequenced symbols that the port now places in every flit it sends: NAK with the expected SEQ, and DONE (R253, R281). -/
def freeSymbols (x : Port) : List W64 := (if x.naking then [at' 64 60 2 ||| BitVec.ofNat 64 x.rxExp] else []) ++ x.say

/-- A flit of this port with the given SEQ, VC, symbols and data slots: NCTRL takes what the data leave, NULL symbols fill it, ACK names
the last flit received in order, and CRC covers header and slots (R252, R253, Table 9.2). -/
def formFlit (x : Port) (seq vc : Nat) (syms data : List W64) : Flit :=
  let ctl := 32 - data.length / 8
  let words := (syms ++ List.replicate (8 * ctl - syms.length) 0).take (8 * ctl) ++ data
  let low : W32 := at' 32 20 seq ||| at' 32 9 ((x.rxExp + 2047) % 2048) ||| at' 32 3 ctl ||| BitVec.ofNat 32 (vc % 8)
  let crc := crc32c (leBytes 4 low.toNat ++ wordsBytes words)
  { header := at' 64 32 crc.toNat ||| low.setWidth 64, words := words, fecOk := true, fecCorr := 0 }

/-- A flit of the replay buffer as it leaves now: its unsequenced symbols are the current ones (R253). -/
def wireFlit (x : Port) (f : SentFlit) : Flit := formFlit x f.seq f.vc (f.syms ++ freeSymbols x) f.data

/-- An idle flit leaves with the current unsequenced symbols and those given; it repeats the previous SEQ (R253). -/
def sayIdle (p : Nat) (syms : List W64) (s : State) : State :=
  let x := voicePort s p
  emit (.flit p (formFlit x ((x.txSeq + 2047) % 2048) 0 (freeSymbols x ++ syms) [])) s

/-- CREDIT symbols for what a port owes, at most 1,024 credits each, and what it owes then (R254, Table 9.3). -/
def creditSymbols (owed : SMap Nat) : List W64 × SMap Nat :=
  (owed.map fun e => at' 64 60 1 ||| at' 64 57 (e.1 / 2) ||| at' 64 56 (e.1 % 2) ||| at' 64 32 (min 1024 e.2),
   owed.filterMap fun e => if 1024 < e.2 then some (e.1, e.2 - 1024) else none)

/-- What a flit takes from the messages of one VC: the queue and credits it leaves, its data slots, the messages whose first and whose
last slot it carries, and its slots on the second hop of a detour. -/
structure Pick where
  queue : List Outgoing
  credits : SMap Nat
  data : List W64
  began : List Outgoing
  ended : List Outgoing
  relayed : Nat

/-- Take up to `room` slots of a VC in the order of its queue: a slot needs a credit of its pool (R254), the slots of a message are
contiguous in its VC, and a message that has to wait for an earlier command does not begin (R262). -/
def pickSlots (waits : Outgoing → Bool) (vc : Nat) : List Outgoing → Nat → SMap Nat → Pick
  | [], _, c => { queue := [], credits := c, data := [], began := [], ended := [], relayed := 0 }
  | o :: q, room, c =>
    if o.msg.vc ≠ vc || (o.gone == 0 && waits o) then
      let r := pickSlots waits vc q room c
      { r with queue := o :: r.queue }
    else
      let key := creditKey vc o.detour
      let left := msgSlots o.msg - o.gone
      let n := min room (min left (SMap.get c key (poolSize o.detour)))
      let c := SMap.alter c key (poolSize o.detour) fun x => x - n
      let data := ((messageWords o.msg).drop (8 * o.gone)).take (8 * n)
      let began := if o.gone = 0 && 0 < n then [o] else []
      let far := if o.detour then n else 0
      if n = left then
        let r := pickSlots waits vc q (room - n) c
        { r with data := data ++ r.data, began := began ++ r.began, ended := o :: r.ended, relayed := far + r.relayed }
      else { queue := { o with gone := o.gone + n } :: q, credits := c, data := data, began := began, ended := [], relayed := far }

/-- A message of this device waits at a port for an earlier command of its VC (R262): a reduction that has still to send elements by the
port's dimension, or a SEND that waits for its RECV. -/
def ordered (s : State) (p vc : Nat) (o : Outgoing) : Bool :=
  let later (r : Reduction) : Bool := (r.dims.zip r.todo).any fun x => x.2 != 0 && (peerOf s p).map (·.1) == some x.1
  let rs := (s.fab.reductions.filter fun r => r.vc == vc && r.kind != 2 && later r).map (·.order)
  let ts := (s.fab.transfers.filter fun t => t.kind == 0 && !t.bound && t.vc == vc && routePort s t.peer == some p).map (·.order)
  o.msg.src == myDevice s && (rs ++ ts).any fun n => decide (n < o.order)

/-- What a flit with `room` data slots takes from a VC of a port. -/
def pickFrom (s : State) (p vc room : Nat) : Pick :=
  let x := portAt s p
  pickSlots (ordered s p vc) vc x.queue room x.credits

/-- The VC has a data slot ready at the port. -/
def vcReady (s : State) (p vc : Nat) : Bool := !(pickFrom s p vc 1).data.isEmpty

/-- FAB_VC_WEIGHT of a VC. -/
def vcWeight (s : State) (vc : Nat) : Nat := bits s.fab.vcWeight (4 * vc + 3) (4 * vc)

/-- The VC of the next flit's data slots, and the round robin's turn after it: VC0 first, VC1-VC7 by weight in flits, a VC of weight 0
only when no other has data ready (R265; log entry 43). -/
def nextVc (s : State) (p : Nat) : Option (Nat × Nat × Nat) :=
  let x := portAt s p
  let ready := ([1, 2, 3, 4, 5, 6, 7].map fun i => (x.turnVc + i) % 8).filter fun v => v != 0 && v != x.turnVc && vcReady s p v
  if vcReady s p 0 then some (0, x.turnVc, x.turnLeft)
  else if 0 < x.turnLeft && vcReady s p x.turnVc then some (x.turnVc, x.turnVc, x.turnLeft - 1)
  else
    let all := ready ++ (if x.turnVc != 0 && vcReady s p x.turnVc then [x.turnVc] else [])
    match all.find? fun v => 0 < vcWeight s v with
    | some v => some (v, v, vcWeight s v - 1)
    | none => all.head?.map fun v => (v, v, 0)

/-- The port can send a flit that is not idle: the replay buffer has room, and a VC has a slot ready or credits are owed (R253, R254). -/
def flitReady (s : State) (p : Nat) : Bool :=
  let x := portAt s p
  x.state == .up && decide (x.replay.length < 64) && (!x.owed.isEmpty || (nextVc s p).isSome)

/-- The first slot of a message leaves: TP_SEND (15 R443). -/
def slotBegan (p : Nat) (s : State) (o : Outgoing) : State :=
  if o.msg.msgIndex == 0 && o.msg.src == myDevice s then
    trace 0x08 (0xA00 + p) 0 (tpWord2 o.msg.src o.msg.dst o.msg.vc p) (o.msg.cmd.setWidth 64) s
  else s

/-- The last slot of a message leaves: the whole message has left by this port. -/
def slotEnded (p : Nat) (s : State) (o : Outgoing) : State := emit (.message p o.msg) (count (portCtr p 10) o.msg.escapes.length s)

/-- A flit leaves (R252-R254, R265): symbols first, then data slots of one VC; it takes the next SEQ and enters the replay buffer. -/
def sendFlit (p : Nat) (s : State) : State :=
  let x := portAt s p
  let cr := creditSymbols x.owed
  let room := 32 - ceilDiv (cr.1.length + (freeSymbols (voicePort s p)).length) 8
  let turn := (nextVc s p).getD (0, x.turnVc, x.turnLeft)
  let pk := pickFrom s p turn.1 room
  let f : SentFlit := { seq := x.txSeq, vc := turn.1, syms := cr.1, data := pk.data }
  let y := { x with
    txSeq := (x.txSeq + 1) % 2048, replay := x.replay ++ [f], ackTime := if x.replay.isEmpty then now s else x.ackTime, owed := cr.2
    queue := pk.queue, credits := pk.credits, sent := x.sent ++ pk.ended.map fun o => (x.txSeq, o)
    turnVc := turn.2.1, turnLeft := turn.2.2 }
  let n := pk.data.length / 8
  let s := count (portCtr p 7) pk.relayed (count (portCtr p 0) n (emit (.flit p (wireFlit (voicePort s p) f)) (setPort p y s)))
  pk.ended.foldl (slotEnded p) (pk.began.foldl (slotBegan p) s)

/-- Send what a port can send now. -/
def pump (p : Nat) : Nat → State → State
  | 0, s => s
  | fuel + 1, s => if flitReady s p then pump p fuel (sendFlit p s) else s

/-- A port sends the credits and slots it can: no more flits than the replay buffer holds. -/
def flushPort (p : Nat) (s : State) : State := pump p 64 s

/-- Slots of a VC that have arrived by a port are freed: their credits go back, those of a second hop to the detour pool (R254). -/
def oweSlots (p vc : Nat) (second : Bool) (n : Nat) (s : State) : State :=
  let x := portAt s p
  flushPort p (setPort p { x with owed := SMap.alter x.owed (creditKey vc second) 0 fun m => m + n } s)

/-- The port by which traffic of the peer at (k, y) comes, and whether that is the second hop of a detour (R263). -/
def portFrom (s : State) (k y : Nat) : Option (Nat × Bool) := (hopPort s k y).map fun p => (p, portTo s k y != some p)

/-- The port by which a message of a device comes in dimension order: by the last dimension in which the devices differ (R261). -/
def arrivalPort (s : State) (src : Nat) : Option (Nat × Bool) :=
  ([2, 1, 0].find? fun k => coordOf s src k != latCoord s k).bind fun k => portFrom s k (coordOf s src k)

/-- The slots of a message that has come from a peer or a device are freed. -/
def oweArrived (from_ : Option (Nat × Bool)) (vc n : Nat) (s : State) : State :=
  match from_ with | some x => oweSlots x.1 vc x.2 n s | none => s

/-- The port that carries a hop: a second hop of a detour is never detoured again (R263). -/
def outPort (s : State) (o : Outgoing) : Option Nat :=
  if o.detour then (portTo s o.dim o.peer).bind fun p => if portUp s p then some p else none else hopPort s o.dim o.peer

/-- A message leaves before another: it is of an earlier command, or has a lower MSG_INDEX of the same one (R262). -/
def Outgoing.before (o a : Outgoing) : Bool :=
  decide (o.order < a.order) || (o.order == a.order && decide (o.msg.msgIndex.toNat < a.msg.msgIndex.toNat))

/-- A message joins a port's queue behind those of its VC that belong before it, and a message under way (R262). -/
def insertOut (o : Outgoing) : List Outgoing → List Outgoing
  | [] => [o]
  | a :: q => if a.msg.vc == o.msg.vc && Outgoing.before o a && a.gone == 0 then o :: a :: q else a :: insertOut o q

/-- Put a message into its port's queue; without a route it waits (R263). -/
def queueOut (o : Outgoing) (s : State) : State :=
  match outPort s o with
  | some p => setPort p { portAt s p with queue := insertOut o (portAt s p).queue } s
  | none => { s with fab := { s.fab with held := insertOut o s.fab.held } }

/-- Hand a message to its port. -/
def sendOut (o : Outgoing) (s : State) : State :=
  match outPort s o with
  | some p => flushPort p (queueOut o s)
  | none => queueOut o s

/-- Every port sends what it can. -/
def flushPorts (s : State) : State := (List.range 32).foldl (fun s p => flushPort p s) s

/-- The next place in the order of commands (R262). -/
def takeOrder (s : State) : Nat × State := (s.fab.started, { s with fab := { s.fab with started := s.fab.started + 1 } })

/-- Send a message to the peer at (k, y) of a dimension, for the command at place `n` of the order. -/
def sendPeer (n k y : Nat) (m : Message) (s : State) : State :=
  sendOut { dim := k, peer := y, detour := false, msg := m, order := n, gone := 0 } s

/-- Send a message towards a device in dimension order (R261); one to this device itself does not leave it. -/
def sendAs (n dev : Nat) (m : Message) (s : State) : State :=
  match [0, 1, 2].find? fun k => coordOf s dev k != latCoord s k with
  | some k => sendPeer n k (coordOf s dev k) m s
  | none => { s with fab := { s.fab with loop := s.fab.loop ++ [m] } }

/-- Send a message towards a device along the phases of an all-gather, the dimensions in descending order (R277, R279). -/
def sendDown (n dev : Nat) (m : Message) (s : State) : State :=
  match [2, 1, 0].find? fun k => coordOf s dev k != latCoord s k with
  | some k => sendPeer n k (coordOf s dev k) m s
  | none => { s with fab := { s.fab with loop := s.fab.loop ++ [m] } }

/-- Send a message towards a device as a command that starts now. -/
def sendTo (dev : Nat) (m : Message) (s : State) : State := sendAs (takeOrder s).1 dev m (takeOrder s).2

/-- A message that comes by one port goes on by another: to the peer at (k, y) as the second hop of a detour (R263). -/
def relayOut (k y : Nat) (m : Message) (s : State) : State :=
  sendOut { dim := k, peer := y, detour := true, msg := m, order := (takeOrder s).1, gone := 0 } (takeOrder s).2

/-- Take from a port every message whose hop no longer leaves by it: whole messages are sent again on the new path (R264). -/
def unroute (p : Nat) (r : List Outgoing × State) : List Outgoing × State :=
  let s := r.2
  let x := portAt s p
  let stays (o : Outgoing) : Bool := outPort s o == some p
  let gone := ((x.sent.map (·.2) ++ x.queue).filter fun o => !stays o).map fun o => { o with gone := 0 }
  if gone.isEmpty then r
  else
    (r.1 ++ gone, setPort p { x with sent := x.sent.filter (fun e => stays e.2), queue := x.queue.filter stays } s)

/-- After a change of ports, every message leaves by the path it now has, in the order of R262 (R263, R264). -/
def reroute (s : State) : State :=
  let r := (List.range 32).foldl (fun r p => unroute p r) ((s.fab.held, s) : List Outgoing × State)
  flushPorts (r.1.foldl (fun s o => queueOut o s) { r.2 with fab := { r.2.fab with held := [] } })

/-- The next sequence number of a group's commands (Table 9.5). -/
def nextSeq (g : Nat) (s : State) : W32 × State :=
  let n := SMap.get s.fab.cmdSeq g 0 + 1
  (n, { s with fab := { s.fab with cmdSeq := SMap.set s.fab.cmdSeq g n 0 } })

/-- A management message's body: a type and words (log entry 47). -/
def mgmt (type : Nat) (ws : List Nat) : List Byte := (type :: ws).flatMap fun w => leBytes 8 w
def mgmtWords (m : Message) : List Nat := (chunks 8 m.body).map leNat

/-- Types of management messages. -/
def mRecvReady : Nat := 1
def mSendData : Nat := 2
def mSendFault : Nat := 3
def mRecvDone : Nat := 4
def mCopyEnd : Nat := 5
def mCopyDone : Nat := 6
def mGatherAsk : Nat := 7
def mGatherHead : Nat := 8
def mPorts : Nat := 9
def mLock : Nat := 10

/-- GROUP of a message that belongs to no group, the bit that keeps its CMD apart from a group's, and the one that keeps the CMD of what
an owner sends on request apart from its own commands' (log entry 47). -/
def noGroup : Nat := 63
def cmdBit : W32 := 0x80000000#32
def answerBit : W32 := 0x40000000#32

/-- A message of an all-gather: what an owner sends on a GATHER_PARAMS' request (R279). -/
def gatherMessage (m : Message) : Bool := m.vc == 2 && m.cmd &&& (cmdBit ||| answerBit) == cmdBit ||| answerBit

/-- A message of this device (Table 9.5). -/
def ownMessage (s : State) (kind group dst tensor first : Nat) (cmd : W32) (idx vc : Nat) (body : List Byte) : Message :=
  { kind := kind, hop := 0, group := group, src := myDevice s, dst := dst, tensor := tensor, first := first, step := stepNo s
    scaleGen := 0xFFFFFFFF#32, cmd := cmd, msgIndex := BitVec.ofNat 32 idx, vc := vc, count := body.length, body := body, escapes := [] }

/-- The CMD of the next transfer or management message of this device. -/
def nextCmd (s : State) : W32 × State :=
  let n := nextSeq 64 s
  ((n.1 &&& 0x3FFFFFFF#32) ||| cmdBit, n.2)

/-- Send a management message on VC7. -/
def tell (dst : Nat) (type : Nat) (ws : List Nat) (s : State) : State :=
  let n := nextCmd s
  sendTo dst (ownMessage n.2 5 noGroup dst 0 0 n.1 0 7 (mgmt type ws)) n.2

/-- Firmware tells the peers it can reach which of its ports are not UP (R263; log entry 22). -/
def tellPorts (s : State) : State :=
  ((peers s).filter fun q => (hopPort s q.1 q.2).isSome).foldl (fun s q => tell (peerDevice s q.1 q.2) mPorts [(~~~(portLive s)).toNat] s) s

/-- A port takes a state; detours, the messages on their way, what peers are told and the level event follow. -/
def portState (p : Nat) (st : PortState) (s : State) : State :=
  portLevel (tellPorts (reroute (setDetours (setPort p { portAt s p with state := st } s))))

/-- The ID symbol of this end of a port (R260, Table 9.3). -/
def idSymbol (s : State) (k : Nat) : W64 :=
  at' 64 60 5 ||| at' 64 50 (myDevice s) ||| at' 64 48 k ||| at' 64 42 (latCoord s k) ||| at' 64 26 s.act.tick.domainId.toNat

/-- A port that trains sends its identity (R256, R260). -/
def sayIdentity (p : Nat) (s : State) : State :=
  match peerOf s p with | some q => sayIdle p [idSymbol s q.1] s | none => s

/-- A unit code (15 R448). -/
def unitCode (cls idx : Nat) : Nat := cls * 4096 + idx

/-- A unit is condemned or out of service and not yet retired. -/
def isCondemned (s : State) (cls idx : Nat) : Bool := s.tiles.condemned.any fun c => c.1 == cls && c.2.1 == idx

/-- A unit that has been retired during the step sets the fault flag: of this step, or of the next when the frame is frozen
(01 R28, 15 R448). -/
def voteRetired (s : State) : State :=
  match theStep s with
  | some st => if st.frozen then { s with upd := { s.upd with nextFault := true } } else voteStepBit s
  | none => s

/-- The raise and the vote that cause 12 shares with a condemnation (15 R448, R452). -/
def unitRetired (cls idx cause : Nat) (s : State) : State :=
  let payload : W64 := at' 64 48 (unitCode cls idx) ||| at' 64 40 cause ||| (stepNo s).setWidth 64
  voteRetired (raise 0x04 payload s)

/-- Clear a unit's map bit and write its RETIRE entry (15 R449); cause 12 writes none (R452). -/
def retireUnit (cls idx cause : Nat) (s : State) : State :=
  let s :=
    match cls with
    | 0 => { s with glb := { s.glb with tileMap := putBit s.glb.tileMap idx false } }
    | 1 => { s with mem := { s.mem with colMap := putBit s.mem.colMap idx false } }
    | 2 => { s with mem := { s.mem with farMap := putBit s.mem.farMap idx false } }
    | 3 => portState idx .retired s
    | _ => { s with upd := { s.upd with lueMap := putBit s.upd.lueMap idx false } }
  if cause = 12 then s else crumb 0x31 (unitCode cls idx) (BitVec.ofNat 64 cause) s

/-- Firmware appends a retirement entry to flash; the list holds at most 4,096 (15 R448, R451). -/
def flashRetire (cls idx cause : Nat) (s : State) : State :=
  if 4096 ≤ s.store.retired.length then s
  else
    let e : RetireEnt := { unit := BitVec.ofNat 16 (unitCode cls idx), cause := BitVec.ofNat 8 cause, epoch := s.store.epoch, stamp := stamp s }
    { s with store := { s.store with retired := s.store.retired ++ [e] } }

/-- Condemn a unit (15 R448, R449): a port is retired at once, any other unit at the next boundary. -/
def condemn (cls idx cause : Nat) (s : State) : State :=
  if isCondemned s cls idx then s
  else
    let s := unitRetired cls idx cause s
    let s := crumb 0x30 (unitCode cls idx) (BitVec.ofNat 64 cause) s
    let s := flashRetire cls idx cause (count (obsCtr 6) 1 s)
    if cls = 3 then retireUnit 3 idx cause s
    else { s with tiles := { s.tiles with condemned := s.tiles.condemned ++ [(cls, idx, cause)] } }

/-- Fault history of a channel by cause: the times kept are those within the window (15 R447). -/
def noteFault (cls idx cause window : Nat) (t : Nat) (s : State) : Nat × State :=
  let k := unitCode cls idx * 16 + cause
  let keep := (SMap.get s.obs.faultTimes k []).filter fun x => decide (t < x + window)
  let l := keep ++ [t]
  (l.length, { s with obs := { s.obs with faultTimes := SMap.set s.obs.faultTimes k l [] } })

/-- A second, a minute and an hour of time base. -/
def secUnits : Nat := 16000000000
def hourUnits : Nat := 3600 * secUnits

/-- Threshold of a bucket (15 Table 15.13): below 64 acts as 64. -/
def bucketLimit (s : State) (cls : Nat) : Nat :=
  max 64 (if cls = 1 then bits s.obs.faultCfg 15 0 else bits s.obs.faultCfg 31 16)

/-- A correction enters a column's or channel's bucket (15 R447). -/
def addCorrection (cls idx : Nat) (s : State) : State :=
  let k := bucketKey cls idx
  let n := SMap.get s.obs.buckets k 0 + 1
  let s := { s with obs := { s.obs with buckets := SMap.set s.obs.buckets k n 0 } }
  if bucketLimit s cls ≤ n then condemn cls idx (if cls = 1 then 1 else 3) s else s

/-- A near line is poisoned by an uncorrectable word (07 R177, 15 Table 15.11). -/
def nearPoison (line : Nat) (s : State) : State :=
  let c := 64 * line / 2 ^ 29
  let s := { s with mem := { s.mem with poison := insertNat line s.mem.poison, nearUe := true } }
  let s := raise 0x10 (BitVec.ofNat 64 line) (count (nbeCtr c 14) 1 s)
  let r := noteFault 1 c 2 (24 * hourUnits) (now s) s
  if 4 ≤ r.1 then condemn 1 c 2 r.2 else r.2

/-- A far line is poisoned (07 R204, 15 Table 15.11). -/
def farPoison (line : Nat) (s : State) : State :=
  let c := (64 * line - farBase) / 4096 % 64
  let s := { s with mem := { s.mem with poison := insertNat line s.mem.poison, farUe := true } }
  let s := raise 0x11 (BitVec.ofNat 64 line) (count (farCtr (c / 4) 2) 1 s)
  let r := noteFault 2 c 4 (24 * hourUnits) (now s) s
  if 8 ≤ r.1 then condemn 2 c 4 r.2 else r.2

end Sys2Proof.Machine
end

