-- ==== Sys2Proof/Machine/Clocks.lean ====
section
/-!
DEFINITION. Clock domains, monitors and the forced path (14 R397-R403, 15 R452), the time base and its lock (14 R404-R410),
power measurement, capping and shedding (14 R411-R415), the watchdogs (13 R370) and the sideband's view of them (16 R458).
-/
namespace Sys2Proof.Machine

/-- The domain codes of Table 14.1. -/
def domainCodes : List Nat := [0, 1, 2, 3, 4, 5, 6, 7, 8, 9, 10] ++ (List.range 16).map fun i => 16 + i

/-- The compute-die, far and base-die domains: those that D3hot stops (R417). -/
def sleepDomains : List Nat := [1, 2, 3, 4, 9, 10] ++ (List.range 16).map fun i => 16 + i

/-- A domain no change has been made to (R388). -/
def resetDomain (c : Nat) : Domain :=
  { source := if c = 0 ∨ c = 5 then .rc else .stopped, low := 0, inReset := false, outOfService := false }

def setDomain (c : Nat) (d : Domain) (s : State) : State :=
  { s with clk := { s.clk with domains := SMap.set s.clk.domains c d (resetDomain c) } }

/-- The root of time alignment is this device (09 R285). -/
def isRoot (s : State) : Bool := s.act.topo.root.toNat == myDevice s

/-- The parent of a device, as dimension and coordinate: the highest-indexed coordinate that differs from the root's is set to the
root's (09 R285). -/
def parentOf (s : State) (dev : Nat) : Option (Nat × Nat) :=
  let root := s.act.topo.root.toNat
  ([2, 1, 0].find? fun k => coordOf s root k != coordOf s dev k).map fun k => (k, coordOf s root k)

/-- Peers whose parent is this device (09 R285). -/
def children (s : State) : List Nat :=
  ((peers s).filter fun q => parentOf s (peerDevice s q.1 q.2) == some (q.1, latCoord s q.1)).map fun q => peerDevice s q.1 q.2

/-- A change of lock is told to the children by a management message on VC7 (R409). -/
def setLocked (b : Bool) (s : State) : State :=
  if s.clk.locked = b then s
  else (children s).foldl (fun s d => tell d mLock [b2n b] s) { s with clk := { s.clk with locked := b } }

/-- Lock is lost at once (R409): the run of good exchanges starts again. -/
def loseLock (s : State) : State := setLocked false { s with clk := { s.clk with good := 0 } }

/-- The time base is coarse: the always-on domain is not on the crystal, or TCLK does not run from its PLL (R405). -/
def coarseNow (s : State) : Bool :=
  (domainOf s 0).source != .crystal || (domainOf s 7).source != .pll || (domainOf s 7).inReset

/-- The root is locked exactly while it is not coarse; any other device that becomes coarse loses lock (R409). -/
def relock (s : State) : State :=
  if isRoot s then (if s.clk.coarse then loseLock s else setLocked true s)
  else if s.clk.coarse then loseLock s else s

/-- After a change of domains: coarse mode, lock, and edges held in latches (R373, R405, R409). -/
def noteClocks (s : State) : State := releaseLatches (relock { s with clk := { s.clk with coarse := coarseNow s } })

/-- One TCLK cycle of a device that disciplines its count (R407). -/
def slew (c : Clk) : Clk :=
  let acc := c.acc + c.rate
  let cyc := c.cycle + 1
  let step (inc : Nat) (acc corr : Int) : Clk :=
    { c with acc := acc, corr := corr, cycle := cyc % 16, count := c.count + BitVec.ofNat 64 inc }
  if 8 * 2 ^ 32 ≤ acc then step 48 (acc - 8 * 2 ^ 32) c.corr
  else if acc ≤ -(8 * 2 ^ 32) then step 32 (acc + 8 * 2 ^ 32) c.corr
  else if 8 ≤ c.corr && c.cycle % 16 = 0 then step 48 acc (c.corr - 8)
  else if c.corr ≤ -8 && c.cycle % 16 = 0 then step 32 acc (c.corr + 8)
  else step 40 acc c.corr

/-- The device makes TIME exchanges and disciplines its count (R407). -/
def disciplined (s : State) : Bool := s.act.timeMode == 1 && s.fab.syncEn && !isRoot s

/-- One increment of the time base (R405, R407). -/
def timeCycle (s : State) : State :=
  if s.clk.coarse then { s with clk := { s.clk with count := s.clk.count + 320 } }
  else if disciplined s then { s with clk := slew s.clk }
  else { s with clk := { s.clk with count := s.clk.count + 40 } }

/-- What a step does when no command waits (log entries 7 and 17): one increment of the time base, and the control cores
complete the source they handle. -/
def idle (s : State) : State :=
  if !s.pwr.powered then s
  else
    let s := timeCycle s
    if evcClocked s && s.glb.state != .halted then coreService s else s

/-- CLK_TB_SET (R410): the count is set in FREE while the tick is stopped; otherwise the write is a live write. -/
def tbSet (value : W64) (s : State) : State :=
  if s.act.timeMode == 0 && !s.tkc.running then
    let v := BitVec.ofNat 64 (value.toNat / 8 * 8)
    { s with clk := { s.clk with count := v, tbSet := v } }
  else liveIgnored 0x20010 s

def execClkTbSet (value : W64) (s : State) : Host.Outcome State Fault Refusal := .next (onBus 0x20010 8 (tbSet value) s)

/-- Microseconds since the boot began. -/
def bootUs (s : State) : Nat := (now s - s.glb.bootAt.toNat) / usUnits

/-- Code of a boot state (12 Table 12.13). -/
def BootState.code : BootState → Nat
  | .bootRom => 0 | .fwLoad => 1 | .memTrain => 2 | .link => 3 | .fabric => 4 | .ready => 5 | .recovery => 6 | .halted => 7

/-- GLB_STATUS.STATE changes, with its BOOT_STATE entry (15 Table 15.10). -/
def enterState (b : BootState) (s : State) : State :=
  crumb 0x20 b.code (BitVec.ofNat 64 (bootUs s)) { s with glb := { s.glb with state := b } }

/-- The cap target in force: with CAP_EN 0 the nominal clock (R413). -/
def capMhz (s : State) : Nat := if s.pwr.capEn then s.pwr.capTarget.toNat else 1250

/-- The lowest of the three targets (R412). -/
def targetMhz (s : State) : Nat := min (min (capMhz s) s.pwr.thermTarget.toNat) (if s.pwr.floor then 500 else 1250)

/-- Expected edges of a domain in a window of 1 µs (R397, R400). -/
def expectedEdges (s : State) (c : Nat) : Nat :=
  if (domainOf s c).source == .crystal || (domainOf s c).source == .rc then 50
  else if c = 0 then 50
  else if c ≤ 4 then targetMhz s
  else if c = 5 then 2000
  else if c = 6 then 1000
  else if c = 7 then 400
  else if c = 8 then 1500
  else if c ≤ 10 then 900
  else 1000

/-- A domain is declared dead (R400). -/
def declareDead (c timeout : Nat) (s : State) : State :=
  raise 0x03 (BitVec.ofNat 64 (c + 32 * timeout)) { s with clk := { s.clk with dead := putBit s.clk.dead c true } }

/-- The monitors watch a domain: it exists, is not held in reset and is not put to sleep by D3hot. -/
def monitored (s : State) (c : Nat) : Bool :=
  s.pwr.powered && s.clk.monEn && domainCodes.contains c && !(domainOf s c).inReset && !(s.glb.d3hot && sleepDomains.contains c) &&
    s.clk.xtalOk

/-- CLK_MONITOR_WINDOW (R400): two windows in a row below half the expected count declare the domain dead; one without an
edge shows that it has stopped. -/
def monitorWindow (c edges : Nat) (s : State) : State :=
  if !monitored s c then s
  else
    let d := domainOf s c
    if 2 * edges < expectedEdges s c then
      let s := setDomain c { d with low := min 3 (d.low + 1), source := if edges = 0 then .stopped else d.source } s
      let s := { s with clk := { s.clk with coarse := coarseNow s } }
      if d.low = 1 then declareDead c 0 (relock s) else relock s
    else setDomain c { d with low := 0 } s

def execClkMonitorWindow (domain edges : Nat) (s : State) : Host.Outcome State Fault Refusal := .next (monitorWindow domain edges s)

/-- CLK_SWITCH_TIMEOUT (R399, R400): the domain hangs without a clock and is declared dead. -/
def switchTimeout (c : Nat) (s : State) : State :=
  if !monitored s c then s
  else
    let s := setDomain c { domainOf s c with source := .stopped, low := 2 } s
    declareDead c 1 (relock { s with clk := { s.clk with coarse := coarseNow s } })

def execClkSwitchTimeout (domain : Nat) (s : State) : Host.Outcome State Fault Refusal := .next (switchTimeout domain s)

/-- Tiles of a compute die, bank columns and LUEs of a stack, far channels of an I/O die (01 Table 1.1, Table 14.1). -/
def dieTiles (die : Nat) : List Nat := (List.range 80).map fun i => 80 * die + i
def stackColumns (k : Nat) : List Nat := (List.range 64).map fun i => 64 * k + i
def stackLues (k : Nat) : List Nat := (List.range 4).map fun i => 4 * k + i
def ioChannels (k : Nat) : List Nat := (List.range 32).map fun i => 32 * k + i

/-- The word of a mailbox is aborted (13 R385): the driver's by MBX_ABORT and MBX_ABORT_HOST, any other by a notice to
firmware. -/
def abortBox (b : Nat) (s : State) : State :=
  if s.mbx.full.getLsbD b then
    let s := { s with mbx := { s.mbx with full := putBit s.mbx.full b false, word := SMap.del s.mbx.word b } }
    if b < 16 then { s with mbx := { s.mbx with abort := putBit s.mbx.abort b true } } else emit (.firmwareNotice b) s
  else s

/-- A word in a mailbox is dropped without notice: its sender has been reset (13 R385). -/
def dropBox (b : Nat) (s : State) : State :=
  { s with mbx := { s.mbx with full := putBit s.mbx.full b false, word := SMap.del s.mbx.word b } }

/-- A mailbox is FULL, and a write to it (13 R383): stored and raised, or rejected. -/
def boxFull (s : State) (b : Nat) : Bool := s.mbx.full.getLsbD b

def boxWrite (b : Nat) (w : W64) (s : State) : State :=
  if boxFull s b then (if b < 16 then { s with mbx := { s.mbx with reject := putBit s.mbx.reject b true } } else s)
  else raise (0x100 + b) w { s with mbx := { s.mbx with full := putBit s.mbx.full b true, word := SMap.put s.mbx.word b w } }

/-- A reply that waits is written once there is room for it. -/
def sendOwed (pair : Nat) (s : State) : State :=
  match SMap.find s.mbx.owed pair with
  | some w => if boxFull s (16 + pair) then s else boxWrite (16 + pair) w { s with mbx := { s.mbx with owed := SMap.del s.mbx.owed pair } }
  | none => s

/-- Control core `c` restarts (13 R370): the mailboxes it receives are cleared, its unread words are dropped, and a crumb
entry is written. -/
def restartCore (c : Nat) (s : State) : State :=
  let mine := (List.range 16).filter fun b => Config.mailboxCore b % 8 == c
  let hit := mine.filter fun b => s.mbx.full.getLsbD b
  let s := mine.foldl (fun s b => dropBox (16 + b) (abortBox b s)) s
  let s := { s with mbx := { s.mbx with busy := s.mbx.busy.filter fun p => !mine.contains p
                                        owed := s.mbx.owed.filter fun p => !mine.contains p.1 } }
  let s := if hit.isEmpty then s else raise 0x140 (BitVec.ofNat 64 (hit.foldl (fun a b => a + 2 ^ b) 0)) s
  crumb 0x10 c 0 s

/-- HALTED: every control core is held in reset (13 R370), which aborts MB00-MB15 and drops what firmware has sent (R385). -/
def halt (s0 : State) : State :=
  let s := enterState .halted s0
  let hit := (List.range 16).filter fun b => s.mbx.full.getLsbD b
  let s := (List.range 16).foldl (fun s b => dropBox (16 + b) (abortBox b s)) s
  let s := { s with mbx := { s.mbx with busy := [], owed := [] } }
  if hit.isEmpty then s else raise 0x140 (BitVec.ofNat 64 (hit.foldl (fun a b => a + 2 ^ b) 0)) s

/-- WATCHDOG_EXPIRY (13 R370): the core restarts; three expiries within 10 minutes halt the device. -/
def watchdogExpiry (core : Nat) (s : State) : State :=
  if !s.pwr.powered || s.pwr.tripped || s.glb.state == .halted || 8 ≤ core then s
  else
    let s := restartCore core s
    let recent := (s.obs.watchdogs.filter fun t => decide (now s < t + 600 * secUnits)) ++ [now s]
    let s := { s with obs := { s.obs with watchdogs := recent } }
    if 3 ≤ recent.length then halt s else s

def execWatchdogExpiry (core : Nat) (s : State) : Host.Outcome State Fault Refusal := .next (watchdogExpiry core s)

/-- Halves that the die's stages have written in the beat are poisoned (Table 14.2). -/
def poisonDie (die : Nat) (s : State) : State :=
  match s.ple.placement with
  | none => s
  | some p =>
    let beat := s.tkc.beat.toNat
    let hit := (p.stages.filter fun e => e.tiles.any fun ts => ts.any fun t => t / 80 == die).map (·.stage)
    let es := ((imagesOf s).flatMap (·.edges)).filter fun e => hit.contains e.producer
    let mark (m : SMap Half) (e : EdgeEnt) : SMap Half :=
      SMap.alter m (halfKey e.edge (halfOf true beat)) noHalf fun h => if h.form.isSome then { h with poisoned := true } else h
    { s with tiles := { s.tiles with halves := es.foldl mark s.tiles.halves } }

/-- An UP port enters RETRAIN (09 R256). -/
def portRetrainNow (p : Nat) (s : State) : State :=
  if portUp s p then
    count (portCtr p 6) 1 (portState p .retrain (setPort p { portAt s p with retrainAt := some (now s) } s))
  else s

/-- The CXL link retrains: until CXL_LINK_TRAINED it carries nothing, and no line of the host is held (14 Table 14.2, 12 R349). -/
def linkDown (s : State) : State :=
  { s with glb := { s.glb with linkUp := false, cacheMem := false }, evc := { s.evc with armHeld := false }, qsu := { s.qsu with l1Held := false } }

/-- Effects of the forced path on the domain's units (Table 14.2). A command of the model that runs on tiles, engines or
channels is complete within its own command, so that none is in progress here (log entry 24). -/
def forcedEffects (c : Nat) (s : State) : State :=
  if 1 ≤ c && c ≤ 4 then poisonDie (c - 1) s
  else if c = 5 then (List.range 8).foldl (fun s k => restartCore k s) s
  else if c = 6 then linkDown s
  else if c = 8 then (assignedPorts s).foldl (fun s p => portRetrainNow p s) s
  else s

/-- The domain has been declared dead or has no clock. -/
def isDead (s : State) (c : Nat) : Bool := s.clk.dead.getLsbD c || (domainOf s c).source == .stopped || 2 ≤ (domainOf s c).low

/-- FORCED_PATH (R401, R402): reset, crystal reference, release; then the PLL relocks and the domain switches back. -/
def forcedPath (c : Nat) (s : State) : State :=
  if !s.pwr.powered || s.pwr.tripped || c = 0 || !domainCodes.contains c || !isDead s c || (domainOf s 0).source != .crystal ||
      s.glb.state == .bootRom || (s.glb.d3hot && sleepDomains.contains c) then s
  else
    let d := domainOf s c
    let s := noteClocks (setDomain c { d with source := .crystal, inReset := false, low := 0 } s)
    noteClocks (setDomain c { d with source := .pll, inReset := false, low := 0 } (forcedEffects c s))

def execForcedPath (domain : Nat) (s : State) : Host.Outcome State Fault Refusal := .next (forcedPath domain s)

/-- The units a domain takes out of service (15 R452), as class and index. -/
def domainUnits (s : State) (c : Nat) : List (Nat × Nat) :=
  if 1 ≤ c && c ≤ 4 then ((dieTiles (c - 1)).filter fun t => tileOn s t).map fun t => (0, t)
  else if c = 9 || c = 10 then ((ioChannels (c - 9)).filter fun k => channelOn s k).map fun k => (2, k)
  else if 16 ≤ c && c < 32 then
    (((stackColumns (c - 16)).filter fun k => columnOn s k).map fun k => (1, k)) ++
      ((stackLues (c - 16)).filter fun k => s.upd.lueMap.getLsbD k).map fun k => (4, k)
  else []

/-- A unit goes out of service with its domain (15 R452). -/
def outOfService (u : Nat × Nat) (s : State) : State :=
  if isCondemned s u.1 u.2 then s
  else
    let s := unitRetired u.1 u.2 12 s
    { s with tiles := { s.tiles with condemned := s.tiles.condemned ++ [(u.1, u.2, 12)] } }

/-- CLK_RELOCK_FAIL (R401, 15 R452): the domain stays on the crystal; its units go out of service, or the device halts. -/
def relockFail (c : Nat) (s : State) : State :=
  if !s.pwr.powered || s.pwr.tripped || c = 0 || !domainCodes.contains c || (domainOf s c).outOfService ||
      (domainOf s 0).source != .crystal || s.glb.state == .bootRom then s
  else
    let s := noteClocks (setDomain c { domainOf s c with source := .crystal, inReset := false, low := 0, outOfService := true } s)
    let s := count (obsCtr 8) 1 (crumb 0x13 c 0 s)
    if c = 5 || c = 6 || c = 8 then halt s else (domainUnits s c).foldl (fun s u => outOfService u s) s

def execClkRelockFail (domain : Nat) (s : State) : Host.Outcome State Fault Refusal := .next (relockFail domain s)

/-- Every domain but the always-on one is held in reset and has no clock. -/
def holdDomains (s : State) : State :=
  (domainCodes.filter fun c => c != 0).foldl (fun s c =>
    setDomain c { domainOf s c with source := .stopped, inReset := true } s) s

/-- XTAL_LOSS (R403): the RC oscillator, every other domain in reset, HALTED. -/
def xtalLoss (s : State) : State :=
  if !s.pwr.powered || s.pwr.tripped || !s.clk.xtalOk then s
  else
    let s := setDomain 0 { domainOf s 0 with source := .rc } { s with clk := { s.clk with xtalOk := false } }
    halt (crumb 0x11 0 0 (noteClocks (holdDomains s)))

def execXtalLoss (s : State) : Host.Outcome State Fault Refusal := .next (xtalLoss s)

/-- PWR_INPUT and PWR_TEMP (Table 14.9). -/
def pwrInput (s : State) : W32 := at' 32 16 s.pwr.power.toNat ||| s.pwr.volt.setWidth 32
def pwrTemp (s : State) : W32 := at' 32 8 s.pwr.otherC.toNat ||| s.pwr.computeC.setWidth 32

/-- One 25 MHz step of ACLK towards its target (R412). -/
def stepAclk (s : State) : State :=
  let f := s.pwr.aclk.toNat
  let t := targetMhz s
  let g := if s.pwr.floor then 500 else if f < t then min t (f + 25) else if t < f then max t (f - 25) else f
  { s with pwr := { s.pwr with aclk := BitVec.ofNat 11 g } }

/-- A target falls or rises by 25 MHz within 500-1,250 MHz. -/
def lowerMhz (f : BitVec 11) : BitVec 11 := BitVec.ofNat 11 (max 500 (f.toNat - 25))
def raiseMhz (f : BitVec 11) : BitVec 11 := BitVec.ofNat 11 (min 1250 (f.toNat + 25))

/-- The cap target after a measurement (R413). -/
def capStep (w : Nat) (s : State) : State :=
  let p := s.pwr
  let cap := s.act.capW.toNat
  if !p.capEn then s
  else if cap < w then { s with pwr := { p with capTarget := lowerMhz p.capTarget, below := 0 } }
  else if 100 * w < 95 * cap then
    if 9 ≤ p.below then { s with pwr := { p with capTarget := raiseMhz p.capTarget, below := 0 } }
    else { s with pwr := { p with below := p.below + 1 } }
  else { s with pwr := { p with below := 0 } }

/-- The thermal target after a measurement (R414): it falls until the junction is below 98 °C and then rises by one step for
ten measurements in a row below it (log entry 25). -/
def thermStep (s : State) : State :=
  let p := s.pwr
  if p.throttle then { s with pwr := { p with thermTarget := lowerMhz p.thermTarget, thermBelow := 0 } }
  else if 9 ≤ p.thermBelow then { s with pwr := { p with thermTarget := raiseMhz p.thermTarget, thermBelow := 0 } }
  else { s with pwr := { p with thermBelow := p.thermBelow + 1 } }

/-- THERMTRIP_N: every clock but the always-on one stops, every domain is held in reset (R414). -/
def thermTrip (s : State) : State :=
  if !s.pwr.powered || s.pwr.tripped then s
  else
    let s := crumb 0x12 0 ((pwrTemp s).setWidth 64) s
    noteClocks (holdDomains { s with pwr := { s.pwr with tripped := true }, pins := { s.pins with thermtrip := true } })

def execThermTrip (s : State) : Host.Outcome State Fault Refusal := .next (thermTrip s)

/-- The hottest compute-die junction is at 100 °C (R414): the level asserts and the target begins to fall. -/
def throttleOn (s : State) : State :=
  let s := assertLevel 0x05 0 { s with pwr := { s.pwr with throttle := true } }
  stepAclk (thermStep s)

/-- THERM_THROTTLE. -/
def thermThrottle (s : State) : State := if !s.pwr.powered || s.pwr.tripped then s else throttleOn s

def execThermThrottle (s : State) : Host.Outcome State Fault Refusal := .next (thermThrottle s)

/-- THERMAL_THROTTLE_END (R414): the level de-asserts and the target stops falling. -/
def throttleEnd (s : State) : State :=
  if !s.pwr.powered || s.pwr.tripped then s
  else deassertLevel 0x05 { s with pwr := { s.pwr with throttle := false, thermBelow := 0 } }

def execThermalThrottleEnd (s : State) : Host.Outcome State Fault Refusal := .next (throttleEnd s)

/-- The thermal source and its falling phase as a measured temperature gives them (R414, 13 Table 13.1). -/
def thermMeasured (s : State) : State :=
  let c := s.pwr.computeC.toNat
  if 100 ≤ c then assertLevel 0x05 0 { s with pwr := { s.pwr with throttle := true } }
  else
    let s := deassertLevel 0x05 s
    if c < 98 then { s with pwr := { s.pwr with throttle := false } } else s

/-- POWER_MEASURE (R411-R414): every 100 µs. -/
def powerMeasure (volt10mV powerW : BitVec 16) (computeC otherC : Byte) (s : State) : State :=
  if !s.pwr.powered || s.pwr.tripped then s
  else
    let t := s.pwr.lastMeasure.toNat + 100 * usUnits
    let s := advanceTo t s
    let ok := decide (4600 ≤ volt10mV.toNat) && decide (volt10mV.toNat ≤ 6000)
    let s := { s with pwr := { s.pwr with volt := volt10mV, power := powerW, computeC := computeC, otherC := otherC, inputOk := ok, lastMeasure := s.clk.count } }
    if 115 ≤ max computeC.toNat otherC.toNat then thermTrip s
    else stepAclk (thermStep (thermMeasured (capStep powerW.toNat s)))

def execPowerMeasure (volt10mV powerW : BitVec 16) (computeC otherC : Byte) (s : State) : Host.Outcome State Fault Refusal :=
  .next (powerMeasure volt10mV powerW computeC otherC s)

/-- PWR_FAIL (R415): the warning starts: the floor at once, the event, the crumb log flushed to MRAM. -/
def pwrFail (pin low : Bool) (s : State) : State :=
  let s := if pin then { s with pins := { s.pins with pwrFailN := false } } else s
  if !s.pwr.powered || s.pwr.tripped || s.pwr.pfActive || !(pin || low) then s
  else
    let cause := b2n pin + 2 * b2n low
    let payload : W64 := at' 64 32 (pwrInput s).toNat ||| BitVec.ofNat 64 cause
    let s := { s with pwr := { s.pwr with floor := true, aclk := 500, pfActive := true, pfSeen := true } }
    crumbFlush (raise 0x02 payload s)

def execPwrFail (pin low : Bool) (s : State) : Host.Outcome State Fault Refusal := .next (pwrFail pin low s)

/-- PWR_FAIL_END (R415): the floor is removed. -/
def pwrFailEnd (s : State) : State :=
  { s with pins := { s.pins with pwrFailN := true }, pwr := { s.pwr with floor := false, pfActive := false } }

def execPwrFailEnd (s : State) : Host.Outcome State Fault Refusal :=
  .next (if s.pwr.powered && !s.pwr.tripped then pwrFailEnd s else { s with pins := { s.pins with pwrFailN := true } })

/-- ALERT_N is asserted (16 R458). -/
def alert (s : State) : Bool :=
  s.pwr.powered && (!s.pwr.inputOk || s.pwr.pfActive || (sourceOf s 0x05).asserted || s.glb.state == .halted || s.glb.state == .recovery)

end Sys2Proof.Machine
end

