-- ==== Sys2Proof/Machine/ConfigSpace.lean ====
section
/-!
DEFINITION. Configuration space (12 R348, R354, R356, R357): what it answers. No command of the table reads or writes it, so these are
functions of State that no command calls but `hdmBytes` and `configReady`.
-/
namespace Sys2Proof.Machine

/-- Configuration requests complete with Request Retry Status until READY (13 R388); in RECOVERY BAR4 is decoded, so they are answered
there (13 R392). -/
def configReady (s : State) : Bool := s.pwr.powered && !s.pwr.tripped && (s.glb.state == .ready || s.glb.state == .recovery)

/-- Capabilities (Table 12.4). -/
inductive Capability where
  | powerManagement | pciExpress | msix | errorReporting | serialNumber | ats | pasid | doe | cxlDevice | registerLocator | flexBusPort | ide
  deriving DecidableEq, Repr

/-- Their offsets (Table 12.4). -/
def capabilities : List (Nat × Capability) :=
  [(0x040, .powerManagement), (0x050, .pciExpress), (0x0B0, .msix), (0x100, .errorReporting), (0x148, .serialNumber), (0x158, .ats),
   (0x160, .pasid), (0x170, .doe), (0x200, .cxlDevice), (0x260, .registerLocator), (0x280, .flexBusPort), (0x300, .ide)]

/-- A base address register (Table 12.5): number, bytes, and whether it is prefetchable; all are of 64 bits. -/
structure Bar where
  number : Nat
  bytes : Nat
  prefetchable : Bool
  deriving DecidableEq, Repr

def bars : List Bar := [⟨0, 2 ^ 26, false⟩, ⟨2, 2 ^ 17, false⟩, ⟨4, 2 ^ 26, true⟩]

/-- BAR4 is decoded only in RECOVERY (Table 12.5). -/
def barDecoded (s : State) (b : Bar) : Bool := b.number != 4 || s.glb.state == .recovery

/-- The device ID and the class code (R357). -/
def deviceId : Nat := 0x5402
def classCode : Nat := 0x120000

/-- MSI-X vectors and PASID bits (Table 12.4). -/
def msixVectors : Nat := 2048
def pasidBits : Nat := 20

/-- The one HDM range, through one decoder (R354). -/
def hdmBytes : Nat := 2 ^ 42

/-- The CDAT answer over DOE (R354): one DSMAS entry, base and length in the device's address space. -/
def cdatDsmas : List (Nat × Nat) := [(0, hdmBytes)]

/-- DOE object types it discovers (Table 12.1). -/
inductive DoeType where
  | discovery | spdm | securedSpdm | cdat
  deriving DecidableEq, Repr

def doeTypes : List DoeType := [.discovery, .spdm, .securedSpdm, .cdat]

/-- What a read of configuration space gives, of what the manual states: `none` stands for Request Retry Status. -/
structure ConfigView where
  device : Nat
  cls : Nat
  caps : List (Nat × Capability)
  decoded : List Bar
  serial : W64
  ats : Bool
  d3hot : Bool
  deriving DecidableEq, Repr

def configView (s : State) : Option ConfigView :=
  if configReady s then
    some { device := deviceId, cls := classCode, caps := capabilities, decoded := bars.filter fun b => barDecoded s b, serial := s.fuses.serial,
           ats := s.glb.ats, d3hot := s.glb.d3hot }
  else none

end Sys2Proof.Machine
end

