-- ==== Sys2Proof/Machine/Queue.lean ====
section
/-!
DEFINITION. Queue set-up and service (11 R319-R323, R341): the table port, doorbells, head words, the completion of a ring's
oldest command, and the end of a DISABLE.
-/
namespace Sys2Proof.Machine

/-- The words of a ring context (Table 11.1). -/
def Ring.words (r : Ring) : List W64 :=
  let st : Nat := match r.state with | .disabled => 0 | .enabled => 1 | .error => 2 | .aborted => 3
  [at' 64 6 r.base.toNat, at' 64 3 r.tailAddr.toNat,
   at' 64 48 r.context.toNat ||| at' 64 36 r.stage.toNat ||| at' 64 35 (b2n r.stageRing) ||| at' 64 30 r.log2.toNat ||| at' 64 28 st,
   at' 64 32 r.head.toNat ||| r.done.setWidth 64, r.baseBeat, 0, 0, 0]

/-- The words of a context entry (Table 11.2). -/
def Ctx.words (c : Ctx) : List W64 :=
  [at' 64 63 (b2n c.valid) ||| at' 64 62 (b2n c.priv) ||| at' 64 60 c.priority.toNat ||| at' 64 59 (b2n c.pasidEn) ||| c.pasid.setWidth 64,
   at' 64 12 c.cqBase.toNat, at' 64 3 c.cqHeadAddr.toNat,
   at' 64 59 c.cqLog2.toNat ||| at' 64 48 c.vector.toNat ||| c.cqTail.setWidth 64,
   at' 64 47 0 ||| at' 64 48 c.fetchQuota.toNat ||| at' 64 31 c.cxlQuota.toNat ||| at' 64 18 c.syncBase.toNat ||| at' 64 4 c.syncCount.toNat,
   0, 0, 0]

/-- The words of a sync object (R337). -/
def SyncObj.words (x : SyncObj) : List W64 := [x.value, at' 64 0 (b2n x.remoteOk), 0, 0, 0, 0, 0, 0]

/-- A field of a word as a bit vector. -/
def fld (w : W64) (hi lo n : Nat) : BitVec n := BitVec.ofNat n (bits w hi lo)

/-- The RW fields of a ring context from its words (Table 11.1). -/
def Ring.setWords (r : Ring) (w : Nat → W64) : Ring :=
  { r with
    base := BitVec.ofNat 58 ((w 0).toNat / 64), tailAddr := BitVec.ofNat 61 ((w 1).toNat / 8)
    context := fld (w 2) 63 48 16, stage := fld (w 2) 47 36 12, stageRing := bit (w 2) 35, log2 := fld (w 2) 34 30 5 }

/-- The RW fields of a context entry from its words (Table 11.2). -/
def Ctx.setWords (c : Ctx) (w : Nat → W64) : Ctx :=
  { c with
    valid := bit (w 0) 63, priv := bit (w 0) 62, priority := fld (w 0) 61 60 2, pasidEn := bit (w 0) 59, pasid := fld (w 0) 19 0 20
    cqBase := fld (w 1) 63 12 52, cqHeadAddr := fld (w 2) 63 3 61, cqLog2 := fld (w 3) 63 59 5, vector := fld (w 3) 58 48 11
    fetchQuota := fld (w 4) 63 48 16, cxlQuota := fld (w 4) 47 31 17, syncBase := fld (w 4) 30 18 13, syncCount := fld (w 4) 17 4 14 }

/-- QSU_TBL_SEL fields, QSU_TBL_DATAn and QSU_TBL_RESULT (Table 11.20). -/
def tblTable (s : State) : Nat := bits s.qsu.tblSel 63 62
def tblIndex (s : State) : Nat := bits s.qsu.tblSel 19 0
def tblWord (s : State) (i : Nat) : W64 := SMap.get s.qsu.tblData i 0
def tblResult (r : BitVec 2) (s : State) : State := { s with qsu := { s.qsu with tblResult := r } }

/-- The entry that QSU_TBL_SEL names exists. -/
def tblExists (s : State) : Bool :=
  match tblTable s with
  | 0 => true
  | 1 => decide (tblIndex s < 40960)
  | 2 => decide (tblIndex s < 8192)
  | _ => false

/-- A ring is in a state in which its context, and its owner's entry, must not be written (R319). -/
def ringLive (r : Ring) : Bool := r.state == .enabled || r.state == .error || r.disabling

/-- A WRITE of the selected entry is refused (R319). -/
def tblWriteRefused (s : State) : Bool :=
  match tblTable s with
  | 0 => ringLive (ringOf s (tblIndex s))
  | 1 => s.qsu.rings.any fun p => p.2.context.toNat == tblIndex s && ringLive p.2
  | _ => false

/-- Read a context's head word (R341); a read that fails puts its rings into the error state (R317). -/
def readCqHead (ctx : Nat) (s : State) : State :=
  if cacheOk s ctx then
    let x := ctxOf s ctx
    setCtx ctx { x with cqHead := BitVec.ofNat 32 (hostNat s (x.cqHeadAddr.toNat * 8) 4) } s
  else cqError ctx s

/-- Offset of QSU_TBL_OP. -/
def tblOpOffset : Nat := 0x60038

/-- QSU_TBL_OP WRITE (R319). -/
def tblWrite (s : State) : State :=
  if !tblExists s then tblResult 2 s
  else if tblWriteRefused s then tblResult 2 (liveIgnored tblOpOffset s)
  else
    let i := tblIndex s
    match tblTable s with
    | 0 => tblResult 1 (setRing i ((ringOf s i).setWords (tblWord s)) s)
    | 1 =>
      let x := (ctxOf s i).setWords (tblWord s)
      tblResult 1 (if x.valid then readCqHead i (setCtx i x s) else setCtx i x s)
    | _ => tblResult 1 (putSync i { value := tblWord s 0, remoteOk := bit (tblWord s 1) 0 } s)

/-- Load QSU_TBL_DATAn. -/
def setTblData (ws : List W64) (s : State) : State :=
  let d := ws.zipIdx.foldl (fun m p => SMap.set m p.2 p.1 0) s.qsu.tblData
  { s with qsu := { s.qsu with tblData := d } }

/-- QSU_TBL_OP READ (R319). -/
def tblRead (s : State) : State :=
  if !tblExists s then tblResult 2 s
  else
    let i := tblIndex s
    match tblTable s with
    | 0 => tblResult 1 (setTblData (ringOf s i).words s)
    | 1 => tblResult 1 (setTblData (ctxOf s i).words s)
    | _ => tblResult 1 (setTblData (syncOf s i).words s)

/-- Another stage ring of the same stage is not disabled or aborted (R315, R319). -/
def stageTaken (s : State) (q : Nat) : Bool :=
  (ringOf s q).stageRing &&
    s.qsu.rings.any fun p => p.1 != q && p.2.stageRing && p.2.stage == (ringOf s q).stage && ringLive p.2

/-- ENABLE is refused (R319). -/
def enableRefused (s : State) (q : Nat) : Bool :=
  let r := ringOf s q
  r.state == .enabled || r.state == .error || !(ctxOf s r.context.toNat).valid || decide (r.log2.toNat < 4) ||
    decide (16 < r.log2.toNat) || stageTaken s q

/-- QSU_TBL_OP ENABLE (R319): busy while a DISABLE or an abort is unfinished; else the ring starts empty at its tail. -/
def tblEnable (s : State) : State :=
  let q := tblIndex s
  let r := ringOf s q
  if tblTable s ≠ 0 then tblResult 2 s
  else if r.disabling || (r.state == .aborted && !r.cmds.isEmpty) then tblResult 3 s
  else if enableRefused s q then
    tblResult 2 { s with qsu := { s.qsu with tblRefused := true } }
  else if !cacheOk s r.context.toNat then tblResult 1 (ringError q s)
  else
    let tail : W32 := BitVec.ofNat 32 (hostNat s (r.tailAddr.toNat * 8) 4)
    let s := count (qsuCtr 1) 1 s
    tblResult 1 (setRing q { r with state := .enabled, head := tail, done := tail, tail := tail, maxSeen := 0, cmds := [] } s)

/-- QSU_TBL_OP DISABLE (R319). -/
def tblDisable (s : State) : State :=
  let q := tblIndex s
  let r := ringOf s q
  if tblTable s ≠ 0 then tblResult 2 s
  else if r.state == .enabled || r.state == .error then tblResult 1 (setRing q { r with disabling := true } s)
  else tblResult 1 s

/-- FETCH_EN goes from 0 to 1: the level-1 lines are taken and every line is passed over (R322), which goes over
CXL.cache (12 R349). A function-level reset under way takes no doorbells (14 R420). -/
def fetchEnable (s : State) : State :=
  if s.qsu.fetchEn || s.glb.flr then s
  else if !s.glb.cacheMem then { s with qsu := { s.qsu with fetchEn := true } }
  else
    let s := { s with qsu := { s.qsu with fetchEn := true, l1Held := true } }
    fetchAll ([0, 1, 2, 3].foldl (fun s i => doorbellLine i s) (count (qsuCtr 0) 1 s))

/-- FETCH_EN is cleared: nothing more is fetched and the level-1 lines are given up (R359, Table 11.20). -/
def fetchDisable (s : State) : State := { s with qsu := { s.qsu with fetchEn := false, l1Held := false } }

/-- DOORBELL_L1_INVALIDATE (R322): the host's stores reach its memory, and the invalidated line starts a pass. -/
def doorbell (line : Nat) (stores : List Host.Cell) (s : State) : State :=
  let s := { s with host := Memory.stores s.host stores }
  if serving s && s.qsu.fetchEn && decide (line < 4) then fetchAll (doorbellLine line (count (qsuCtr 0) 1 s)) else s

/-- CQ_HEAD_UPDATE (R341): the host's stores, then the head word is read again. -/
def cqHeadUpdate (ctx : Nat) (stores : List Host.Cell) (s : State) : State :=
  let s := { s with host := Memory.stores s.host stores }
  if serving s && (ctxOf s ctx).valid then readCqHead ctx s else s

/-- Every ring of a context but `q` has no uncompleted command. -/
def ctxDrained (s : State) (ctx q : Nat) : Bool :=
  s.qsu.rings.all fun p => p.1 == q || p.2.context.toNat != ctx || p.2.cmds.isEmpty

/-- An ABORT_CONTEXT that waits for records of its target completes once they are written (R345). -/
def settleAborts (s : State) : State :=
  s.qsu.rings.foldl (fun s p =>
    p.2.cmds.foldl (fun s c =>
      match c.phase with
      | .started _ =>
        if Desc.opcode c.desc = opAbort && ctxDrained s (bits c.desc.w2 15 0) p.1 then finish p.1 c okResult s else s
      | _ => s) s) s

/-- COMMAND_COMPLETE (R342): the ring's oldest command completes if it is finished; room then lets the device fetch. -/
def commandComplete (q : Nat) (s : State) : State :=
  if !serving s then s
  else
    match completeHead q s with
    | (true, s') => settleAborts (fetchAll s')
    | (false, s') => s'

/-- RING_DISABLED (R319): DONE has reached HEAD. -/
def ringDisabled (q : Nat) (s : State) : State :=
  let r := ringOf s q
  if r.disabling && r.done == r.head then setRing q { r with state := .disabled, disabling := false } s else s

end Sys2Proof.Machine
end

