-- ==== Sys2Proof/Machine/Control.lean ====
section
/-!
DEFINITION. The control and management commands of rings (11 Table 11.7): NOP, SIGNAL, WAIT, FENCE, TICK_MARK,
ABORT_CONTEXT, QUERY, the two ends of a remote SIGNAL (R340), and the commands that serve the queues.
-/
namespace Sys2Proof.Machine

/-- No check beyond the header's. -/
def noCheck : State → Ring → Cmd → Option Result := fun _ _ _ => none

/-- A range check on a field (Table 11.12 code 07). -/
def rangeErr (bad : Bool) (word : Nat) : Option Result := if bad then some (descErr 0x07 word) else none

/-- NOP (R328). -/
def nopMeaning : Meaning := { check := noCheck, body := fun _ _ _ s => (.finished okResult, s) }

def execNop (q : Nat) (d : Desc) (s : State) : Host.Outcome State Fault Refusal := .next (runCmd opNop nopMeaning q d s)

/-- A sync index lies outside the context's window (R337). -/
def syncOutside (s : State) (r : Ring) (i : Nat) : Bool :=
  let x := ctxOf s r.context.toNat
  decide (i < x.syncBase.toNat) || decide (x.syncBase.toNat + x.syncCount.toNat ≤ i) || decide (8192 ≤ i)

/-- Fields of SIGNAL. -/
def sigRemote (d : Desc) : Bool := bit d.w2 53
def sigSet (d : Desc) : Bool := bit d.w2 52
def sigDevice (d : Desc) : Nat := bits d.w2 63 54
def sigIndex (d : Desc) : Nat := bits d.w2 12 0

/-- Checks of SIGNAL (Table 11.12 codes 07 and 0A). -/
def signalCheck (s : State) (r : Ring) (c : Cmd) : Option Result :=
  let d := c.desc
  if sigRemote d then
    if sigSet d then some (descErr 0x0A 2) else rangeErr (decide (deviceCount s ≤ sigDevice d)) 2
  else if syncOutside s r (sigIndex d) then some (descErr 0x0A 2)
  else none

/-- A local SIGNAL: set, or add with saturation and the SYNC_SAT flag (R338). -/
def signalLocal (d : Desc) (s : State) : Phase × State :=
  let x := syncOf s (sigIndex d)
  if sigSet d then (.finished okResult, putSync (sigIndex d) { x with value := d.w3 } s)
  else
    let sat := decide (2 ^ 64 ≤ x.value.toNat + d.w3.toNat)
    (.finished (mkResult stOk (if sat then flSyncSat else 0) 0 0),
     putSync (sigIndex d) { x with value := satAdd x.value d.w3 } s)

/-- What the target of a remote SIGNAL does (R340): whether it refused, and its state after. -/
def remoteApply (index : Nat) (value : W64) (s : State) : Bool × State :=
  let x := syncOf s index
  if x.remoteOk then (false, putSync index { x with value := satAdd x.value value } s)
  else (true, count (qsuCtr 8) 1 s)

/-- The body of a remote signal or of its answer (Table 11.14). -/
def signalBytes (index : Nat) (value : W64) (ack reject : Bool) : List Byte :=
  wordsBytes [value, at' 64 51 index ||| at' 64 50 (b2n ack) ||| at' 64 49 (b2n reject), 0, 0, 0, 0, 0, 0]

/-- The message of a remote signal or of its answer: KIND 5 on VC0 (R340, 09 Table 9.5). -/
def signalMessage (s : State) (dst : Nat) (cmd msgIndex : W32) (body : List Byte) : Message :=
  ownMessage s 5 noGroup dst 0 0 cmd msgIndex.toNat 0 body

/-- Key of the duplicate mark of a message (09 R264): source, VC, group and command. -/
def dupKey (src vc group : Nat) (cmd : W32) : Nat := ((src * 8 + vc) * 64 + group) * 2 ^ 32 + cmd.toNat

/-- SIGNAL (R338, R340): a remote one travels as a KIND 5 message on VC0 and ends on the answer. -/
def signalBody (q : Nat) (_ : Ring) (c : Cmd) (s : State) : Phase × State :=
  let d := c.desc
  if sigRemote d then
    if sigDevice d = myDevice s then
      let r := remoteApply (sigIndex d) d.w3 s
      (.finished (if r.1 then stResult stFault else okResult), r.2)
    else
      let cmd := s.qsu.remoteSeq
      let m := signalMessage s (sigDevice d) cmd 0 (signalBytes (sigIndex d) d.w3 false false)
      let t := { s with qsu := { s.qsu with remoteSeq := cmd + 1, remote := s.qsu.remote ++ [(sigDevice d, cmd, q, c.index)] } }
      (.started (now s), sendTo (sigDevice d) m t)
  else signalLocal d s

def signalMeaning : Meaning := { check := signalCheck, body := signalBody }

def execSignal (q : Nat) (d : Desc) (s : State) : Host.Outcome State Fault Refusal := .next (runCmd opSignal signalMeaning q d s)

/-- Check of WAIT. -/
def waitCheck (s : State) (r : Ring) (c : Cmd) : Option Result :=
  if syncOutside s r (bits c.desc.w2 12 0) then some (descErr 0x0A 2) else none

/-- WAIT (R339): done at once when the value is reached, else it waits from this moment. -/
def waitBody (_ : Nat) (_ : Ring) (c : Cmd) (s : State) : Phase × State :=
  if c.desc.w3.toNat ≤ (syncOf s (bits c.desc.w2 12 0)).value.toNat then (.finished okResult, s) else (.started (now s), s)

def waitMeaning : Meaning := { check := waitCheck, body := waitBody }

def execWait (q : Nat) (d : Desc) (s : State) : Host.Outcome State Fault Refusal := .next (runCmd opWait waitMeaning q d s)

/-- The moment a started WAIT times out (R339); `none` for a command that is not one with a limit. -/
def waitDue (c : Cmd) : Option Nat :=
  match c.phase with
  | .started t =>
    if Desc.opcode c.desc = opWait && bits c.desc.w2 63 32 ≠ 0 then some (t + bits c.desc.w2 63 32 * usUnits) else none
  | _ => none

/-- The WAIT of a ring that times out first. -/
def firstTimeout (cs : List Cmd) : Option (Nat × Cmd) :=
  cs.foldl (fun b c =>
    match waitDue c, b with
    | some t, some (u, x) => if t < u then some (t, c) else some (u, x)
    | some t, none => some (t, c)
    | none, b => b) none

/-- WAIT_TIMEOUT (R339): time reaches the limit of the ring's first WAIT to end so. -/
def waitTimeout (q : Nat) (s : State) : State :=
  match firstTimeout (ringOf s q).cmds with
  | some (t, c) => if serving s then finish q c (stResult stTimeout) (advanceTo t s) else s
  | none => s

def execWaitTimeout (q : Nat) (s : State) : Host.Outcome State Fault Refusal := .next (waitTimeout q s)

/-- A command of the context that was fetched before this one is not complete (Table 11.7, FENCE). -/
def ctxBusyBefore (s : State) (ctx order : Nat) : Bool :=
  s.qsu.rings.any fun p => p.2.context.toNat == ctx && p.2.cmds.any fun c => decide (c.order < order)

/-- FENCE (R326): earlier commands of the ring are complete when it starts; with CONTEXT_WIDE, also those of its context. -/
def fenceBody (_ : Nat) (r : Ring) (c : Cmd) (s : State) : Phase × State :=
  if bit c.desc.w2 0 && ctxBusyBefore s r.context.toNat c.order then (.waiting, s) else (.finished okResult, s)

def fenceMeaning : Meaning := { check := noCheck, body := fenceBody }

def execFence (q : Nat) (d : Desc) (s : State) : Host.Outcome State Fault Refusal := .next (runCmd opFence fenceMeaning q d s)

/-- TICK_MARK (02 R38). -/
def tickMarkBody (q : Nat) (r : Ring) (c : Cmd) (s : State) : Phase × State :=
  (.finished okResult, setRing q { r with baseBeat := c.desc.w2 } s)

def tickMarkMeaning : Meaning := { check := noCheck, body := tickMarkBody }

def execTickMark (q : Nat) (d : Desc) (s : State) : Host.Outcome State Fault Refusal :=
  .next (runCmd opTickMark tickMarkMeaning q d s)

/-- Checks of ABORT_CONTEXT. -/
def abortCheck (s : State) (r : Ring) (c : Cmd) : Option Result :=
  let t := bits c.desc.w2 15 0
  if 40960 ≤ t then some (descErr 0x07 2)
  else if t ≠ r.context.toNat ∧ !(ctxOf s r.context.toNat).priv then some (descErr 0x0A 2)
  else none

/-- ABORT_CONTEXT (R345): it completes once the records of its target are written. -/
def abortBody (q : Nat) (_ : Ring) (c : Cmd) (s : State) : Phase × State :=
  let t := bits c.desc.w2 15 0
  let s := abortContext t (some (q, c.index)) s
  (if ctxDrained s t q then .finished okResult else .started (now s), s)

def abortMeaning : Meaning := { check := abortCheck, body := abortBody }

def execAbortContext (q : Nat) (d : Desc) (s : State) : Host.Outcome State Fault Refusal := .next (runCmd opAbort abortMeaning q d s)

/-- GLB_IDENT and GLB_CAPS (12 Table 12.13). -/
def glbIdent (s : State) : W64 :=
  let tiles : Nat := match s.fuses.grade.toNat with | 0 => 320 | 1 => 304 | 2 => 288 | _ => 0
  at' 64 56 0x4A ||| at' 64 48 0x02 ||| at' 64 40 s.fuses.stepping.toNat ||| at' 64 32 s.fuses.grade.toNat ||| at' 64 0 tiles
def glbCaps : W32 := 0x000F0400

/-- The answer of QUERY (Table 11.7; log entry 21). -/
def queryAnswer (s : State) (what item : Nat) : List Byte :=
  match what with
  | 0 => wordsBytes [glbIdent s, s.fuses.serial, at' 64 32 glbCaps.toNat ||| s.glb.fwVersion.setWidth 64]
  | 1 => wordsBytes (ringOf s item).words
  | 2 => wordsBytes (ctxOf s item).words
  | _ => wordsBytes [(syncOf s item).value]

/-- Checks of QUERY. -/
def queryCheck (_ : State) (_ : Ring) (c : Cmd) : Option Result :=
  let what := bits c.desc.w3 63 56
  let item := bits c.desc.w4 19 0
  if 3 < what then some (descErr 0x07 3)
  else if (what = 2 ∧ 40960 ≤ item) ∨ (what = 3 ∧ 8192 ≤ item) then some (descErr 0x07 4)
  else none

/-- QUERY (Table 11.7): at most DEST_BYTES bytes are written, and DETAIL tells how many (Table 11.15). -/
def queryBody (_ : Nat) (r : Ring) (c : Cmd) (s : State) : Phase × State :=
  if hostOk s r.context.toNat then
    let bs := (queryAnswer s (bits c.desc.w3 63 56) (bits c.desc.w4 19 0)).take (bits c.desc.w3 31 0)
    (.finished { okResult with detail := BitVec.ofNat 32 bs.length }, hostWrite s c.desc.w2.toNat bs)
  else (.finished (stResult stAccess), s)

def queryMeaning : Meaning := { check := queryCheck, body := queryBody }

def execQuery (q : Nat) (d : Desc) (s : State) : Host.Outcome State Fault Refusal := .next (runCmd opQuery queryMeaning q d s)

/-- A discarded copy is counted at the port by which messages of its source come (09 R264). -/
def countDup (source : Nat) (s : State) : State :=
  match arrivalPort s source with | some x => count (portCtr x.1 8) 1 s | none => s

/-- REMOTE_SIGNAL_RECEIVE (R340, Table 11.14): a remote SIGNAL reaches this device, which answers it by a message to its source; a copy
sent again on another path is discarded and counted (09 R261, R264). -/
def remoteSignalReceive (source : Nat) (cmd msgIndex : W32) (value word1 : W64) (s : State) : State :=
  if !alive s || bit word1 50 then s
  else
    let key := dupKey source 0 noGroup cmd
    let s := oweArrived (arrivalPort s source) 0 2 s
    if msgIndex.toNat < SMap.get s.fab.marks key 0 then countDup source s
    else
      let r := remoteApply (bits word1 63 51) value { s with fab := { s.fab with marks := SMap.put s.fab.marks key (msgIndex.toNat + 1) } }
      sendTo source (signalMessage r.2 source cmd msgIndex (signalBytes (bits word1 63 51) value true r.1)) r.2

def execRemoteSignalReceive (source : Nat) (cmd msgIndex : W32) (value word1 : W64) (s : State) : Host.Outcome State Fault Refusal :=
  .next (remoteSignalReceive source cmd msgIndex value word1 s)

/-- REMOTE_SIGNAL_ANSWER (R340): the SIGNAL that CMD and MSG_INDEX name ends OK, or FAULT after a REJECT; an answer that no SIGNAL waits
for is a copy (09 R264). -/
def remoteSignalAnswer (source : Nat) (cmd msgIndex : W32) (reject : Bool) (s : State) : State :=
  let s := oweArrived (arrivalPort s source) 0 2 s
  match s.qsu.remote.find? fun x => x.1 == source && x.2.1 == cmd && msgIndex == 0 with
  | none => countDup source s
  | some x =>
    let q := x.2.2.1
    let s := { s with qsu := { s.qsu with remote := s.qsu.remote.filter fun y => y != x } }
    match (ringOf s q).cmds.find? fun c => c.index == x.2.2.2 && abortable c with
    | some c => finish q c (if reject then stResult stFault else okResult) s
    | none => s

def execRemoteSignalAnswer (source : Nat) (cmd msgIndex : W32) (reject : Bool) (s : State) : Host.Outcome State Fault Refusal :=
  .next (remoteSignalAnswer source cmd msgIndex reject s)

def execDoorbellL1Invalidate (line : Nat) (stores : List Host.Cell) (s : State) : Host.Outcome State Fault Refusal :=
  .next (doorbell line stores s)

def execCqHeadUpdate (context : Nat) (stores : List Host.Cell) (s : State) : Host.Outcome State Fault Refusal :=
  .next (cqHeadUpdate context stores s)

def execRingDisabled (ring : Nat) (s : State) : Host.Outcome State Fault Refusal := .next (ringDisabled ring s)

end Sys2Proof.Machine
end

