-- ==== Sys2Proof/Machine/Firmware.lean ====
section
/-!
DEFINITION. Mailboxes and firmware commands (13 R383-R387), the firmware image and its update (R389-R393), SPDM, IDE_KM and
the sideband (13 R395, 12 R356, 16 R459, R460, 15 R446).
-/
namespace Sys2Proof.Machine

/-- The word of a mailbox (R383). -/
def boxWord (s : State) (b : Nat) : W64 := SMap.get s.mbx.word b 0

/-- A receiver's read: the word, and FULL cleared (R383). -/
def boxTake (b : Nat) (s : State) : W64 × State :=
  if boxFull s b then
    (boxWord s b, { s with mbx := { s.mbx with full := putBit s.mbx.full b false, word := SMap.del s.mbx.word b } })
  else (0, s)

/-- MBX_SEND (R383): a driver write to MBX_SENDn. -/
def execMbxSend (box : Nat) (word : W64) (s : State) : Host.Outcome State Fault Refusal :=
  .next (if box < 16 then onBus (0x50000 + 8 * box) 8 (boxWrite box word) s else s)

/-- Fields of a command word (Table 13.8). -/
def fwOp (w : W64) : Nat := bits w 63 56
def fwArg (w : W64) : Nat := bits w 47 0

/-- A reply word (Table 13.8). -/
def replyWord (cmd : W64) (result data : Nat) : W64 :=
  at' 64 56 (fwOp cmd) ||| at' 64 48 (bits cmd 55 48) ||| at' 64 40 result ||| BitVec.ofNat 64 (data % 2 ^ 40)

/-- Firmware replies in the pair's return mailbox; while that is FULL the reply waits. -/
def reply (pair : Nat) (cmd : W64) (result data : Nat) (s : State) : State :=
  if boxFull s (16 + pair) then { s with mbx := { s.mbx with owed := SMap.put s.mbx.owed pair (replyWord cmd result data) } }
  else boxWrite (16 + pair) (replyWord cmd result data) s

/-- A host access by firmware fails: without a link, or as the host answers, which the spec leaves to it (Table 13.9; log entry 156). -/
def hostFailed (a : Nat) (s : State) : Bool := !s.glb.linkUp || Config.hostFails s.freeCtr a

/-- One more answer of the host has been used. -/
def hostAsked (s : State) : State := { s with freeCtr := s.freeCtr + 1 }

/-- Firmware runs: from MEM_TRAIN to READY (R386, Table 13.11). -/
def firmwareRuns (s : State) : Bool :=
  s.pwr.powered && !s.pwr.tripped &&
    (s.glb.state == .memTrain || s.glb.state == .link || s.glb.state == .fabric || s.glb.state == .ready)

/-- The boot ROM serves pair 0 in RECOVERY (R386). -/
def romServes (s : State) (pair : Nat) : Bool := s.pwr.powered && !s.pwr.tripped && s.glb.state == .recovery && pair == 0

/-- The pair's command is the next to be served: pairs are served in ascending order, and its reply has room (R386). -/
def turnOf (s : State) (pair : Nat) : Bool :=
  decide (pair < 16) && boxFull s pair && !boxFull s (16 + pair) && (firmwareRuns s || romServes s pair) &&
    (s.glb.state == .recovery || (List.range pair).all fun p => !boxFull s p)

/-- Serve the command that waits on a pair if its operation is one of `ops` (R386): BUSY while the pair's previous command has
no reply, BAD_OP in RECOVERY, else its effect. -/
def serve (ops : Nat → Bool) (run : Nat → W64 → State → State) (pair : Nat) (s : State) : State :=
  if turnOf s pair && ops (fwOp (boxWord s pair)) then
    let t := boxTake pair s
    if t.2.mbx.busy.contains pair then reply pair t.1 0x01 0 t.2
    else if t.2.glb.state == .recovery then reply pair t.1 0x02 0 t.2
    else run pair t.1 t.2
  else s

/-- GLB_STATUS (12 Table 12.13). -/
def glbStatus (s : State) : W32 :=
  at' 32 11 (b2n s.glb.linkDegraded) ||| at' 32 9 (b2n s.glb.badAccess) ||| at' 32 8 (b2n s.glb.earlyAccess) |||
    BitVec.ofNat 32 s.glb.state.code

/-- SEC_UPDATE_STATUS (Table 13.16). -/
def updateStatus (s : State) : W32 := at' 32 8 s.sec.updResult.toNat ||| s.sec.updState.setWidth 32

/-- Reserved operations (Table 13.8). -/
def reservedOp (op : Nat) : Bool := !([0x01, 0x02, 0x10, 0x20, 0x21, 0x30].contains op)

/-- PING; the commands with reserved operations are answered here too, BAD_OP (Table 13.9). -/
def ping (pair : Nat) (s : State) : State :=
  serve (fun op => op == 0x01 || reservedOp op)
    (fun p w s => if fwOp w = 0x01 then reply p w 0 s.glb.fwVersion.toNat s else reply p w 0x02 0 s) pair s

def execPing (pair : Nat) (s : State) : Host.Outcome State Fault Refusal := .next (ping pair s)

/-- STATE (Table 13.8). -/
def stateOp (pair : Nat) (s : State) : State := serve (fun op => op == 0x02) (fun p w s => reply p w 0 (glbStatus s).toNat s) pair s

def execStateCmd (pair : Nat) (s : State) : Host.Outcome State Fault Refusal := .next (stateOp pair s)

/-- CRUMB_READ (R386, 15 R446): the MRAM copy, oldest first, into the host buffer; ACCESS where the host's memory does not take it. -/
def crumbRead (pair : Nat) (s : State) : State :=
  serve (fun op => op == 0x10) (fun p w s =>
    let bs := s.store.log.flatMap Crumb.bytes
    if hostFailed (64 * fwArg w) s then reply p w 0x05 0 (hostAsked s)
    else reply p w 0 bs.length (hostWrite (hostAsked s) (64 * fwArg w) bs)) pair s

def execCrumbRead (pair : Nat) (s : State) : Host.Outcome State Fault Refusal := .next (crumbRead pair s)

/-- UPDATE_STATUS (Table 13.8). -/
def updateStatusOp (pair : Nat) (s : State) : State :=
  serve (fun op => op == 0x21) (fun p w s => reply p w 0 (updateStatus s).toNat s) pair s

def execUpdateStatus (pair : Nat) (s : State) : Host.Outcome State Fault Refusal := .next (updateStatusOp pair s)

/-- Fields of an image header (Table 13.14). -/
def imgNat (img : List Byte) (off n : Nat) : Nat := leNat ((img.drop off).take n)
def imgLength (img : List Byte) : Nat := imgNat img 0x00C 4
def imgBytes (img : List Byte) (off n : Nat) : List Byte := (img.drop off).take n

/-- LENGTH is one that Table 13.14 allows. -/
def lengthOk (n : Nat) : Bool := n % 4096 == 0 && decide (n ≤ 33550336)

/-- The checks of R390 in order: 0 valid, VERIFY_FAIL or ROLLBACK (Table 13.9). -/
def imageCheck (s : State) (img : List Byte) : Nat :=
  let n := imgLength img
  let pub := imgBytes img 0x040 64
  let sig := imgBytes img 0x0C0 64
  let z := beNat (sha256 (imgBytes img 0 0x0C0))
  if img.length < 4096 + n ∨ imgNat img 0 4 ≠ 0x4657494D ∨ !lengthOk n then 0x03
  else if beNat (sha256 pub) ≠ s.fuses.keyHash.toNat then 0x03
  else if !ecdsaVerify (beNat (pub.take 32)) (beNat (pub.drop 32)) (beNat (sig.take 32)) (beNat (sig.drop 32)) z then 0x03
  else if sha256 (imgBytes img 4096 n) ≠ imgBytes img 0x080 32 then 0x03
  else if imgNat img 0x008 1 < s.fuses.rollback then 0x04
  else 0

/-- A change of SEC_UPDATE_STATUS.STATE: its crumb entry, and SEC_EVENT when it becomes 4 or 5 (R396, 15 Table 15.10). -/
def setUpdate (st : Nat) (result : Nat) (img : List Byte) (s : State) : State :=
  let s := { s with sec := { s.sec with updState := BitVec.ofNat 4 st, updResult := if 4 ≤ st then BitVec.ofNat 8 result else s.sec.updResult } }
  let s := crumb 0x22 st (BitVec.ofNat 64 (imgNat img 0x004 4)) s
  if 4 ≤ st then raise 0x80 (BitVec.ofNat 64 result) s else s

/-- FW_UPDATE, steps 1-3 (R391): the image is read into the firmware region and checked; a good one is being written when
this ends. A host read that fails ends it with ACCESS. -/
def fwUpdate (pair : Nat) (s : State) : State :=
  serve (fun op => op == 0x20) (fun p w s =>
    if s.sec.staged.isSome then reply p w 0x01 0 s
    else if hostFailed (64 * fwArg w) s then reply p w 0x05 0 (setUpdate 5 0x05 [] (setUpdate 1 0 [] (hostAsked s)))
    else
      let s := hostAsked s
      let a := 64 * fwArg w
      let head := hostRead s a 4096
      let n := if lengthOk (imgLength head) then imgLength head else 0
      let img := head ++ hostRead s (a + 4096) n
      let r := imageCheck s img
      let s := devWrite (firmwareRegion s) img (setUpdate 1 0 img s)
      let s := setUpdate 2 0 img s
      if r ≠ 0 then reply p w r 0 (setUpdate 5 r img s)
      else
        let s := setUpdate 3 0 img s
        { s with sec := { s.sec with staged := some (p, w.toNat, img) }, mbx := { s.mbx with busy := s.mbx.busy ++ [p] } }) pair s

def execFwUpdate (pair : Nat) (s : State) : Host.Outcome State Fault Refusal := .next (fwUpdate pair s)

/-- FW_UPDATE_COMPLETE (R391 steps 3-5): the flash holds the new image, or one that fails verification. -/
def fwUpdateComplete (flashOk : Bool) (s : State) : State :=
  if !firmwareRuns s then s
  else
    match s.sec.staged with
    | none => s
    | some (p, w, img) =>
      let r := if flashOk then 0 else 0x06
      let t := setUpdate (if flashOk then 4 else 5) r img
        { s with store := { s.store with image := if flashOk then img else [] }, sec := { s.sec with staged := none } }
      if s.mbx.busy.contains p then
        reply p (BitVec.ofNat 64 w) r 0 { t with mbx := { t.mbx with busy := t.mbx.busy.filter fun q => q != p } }
      else t

def execFwUpdateComplete (flashOk : Bool) (s : State) : Host.Outcome State Fault Refusal := .next (fwUpdateComplete flashOk s)

/-- An update interrupted while it writes leaves an image that fails verification (R391, 16 R464). -/
def interruptUpdate (s : State) : State :=
  if s.sec.staged.isSome then { s with store := { s.store with image := [] }, sec := { s.sec with staged := none } } else s

/-- The device address of byte `x` of the recovery window (R392). -/
def recoveryAddr (s : State) (x : Nat) : Option Nat :=
  if x < 2 ^ 26 then
    (((List.range 512).filter fun c => columnOn s c)[x / nbeBytes]?).map fun c => nbeBase + c * nbeBytes + x % nbeBytes
  else none

/-- Bytes of the recovery window. -/
def recoveryBytes (s : State) (x n : Nat) : List Byte :=
  (List.range n).map fun i => match recoveryAddr s (x + i) with | some a => Memory.get s.mem.cells a | none => 0

/-- Whether a flash write during RECOVERY_LOAD succeeded decides the reply; the reset that follows a good load is the
caller's. -/
def recoveryCheck (flashOk : Bool) (s : State) : Option (W64 × Nat × List Byte) :=
  if turnOf s 0 && romServes s 0 && fwOp (boxWord s 0) == 0x30 then
    let w := boxWord s 0
    let head := recoveryBytes s 0 4096
    let n := if lengthOk (imgLength head) then imgLength head else 0
    let img := head ++ recoveryBytes s 4096 n
    let r := if fwArg w = 4096 + imgLength head then imageCheck s img else 0x03
    some (w, if r = 0 && !flashOk then 0x06 else r, img)
  else none

/-- SPDM response codes used in answers: success, ERROR Busy, UnsupportedRequest and SessionRequired (log entry 26). -/
def spdmBusy : Nat := 0x03
def spdmUnsupported : Nat := 0x07
def spdmSessionRequired : Nat := 0x0B

/-- GLB_TILE_MAPn (12 Table 12.13). -/
def tileMapWord (s : State) (n : Nat) : W64 := BitVec.ofNat 64 (s.glb.tileMap.toNat >>> (64 * n))

/-- Measurements 2 to 4 (Table 13.15); measurement 1 and signatures are free values. -/
def measurements (s : State) (free : W64) : List Byte :=
  leBytes 8 free.toNat ++ s.sec.fwDigest ++ leBytes 4 s.glb.fwVersion.toNat ++ (leBytes 32 s.fuses.keyHash.toNat).reverse ++
    [BitVec.ofNat 8 s.fuses.rollback] ++ wordsBytes ([glbIdent s, s.fuses.serial] ++ (List.range 5).map (tileMapWord s))

/-- Open sessions of a transport. -/
def sessions (t : SpdmTransport) (s : State) : Nat := match t with | .doe => s.sec.doe | .mctp => s.sec.mctp
def setSessions (t : SpdmTransport) (n : Nat) (s : State) : State :=
  match t with
  | .doe => { s with sec := { s.sec with doe := n } }
  | .mctp => { s with sec := { s.sec with mctp := n } }

/-- The responder serves a transport: MCTP only in READY (16 R460), DOE in READY, when configuration space
answers (12 R357). -/
def spdmServed (t : SpdmTransport) (s : State) : Bool :=
  s.pwr.powered && !s.pwr.tripped &&
    match t with
    | .mctp => s.glb.state == .ready
    | .doe => configReady s && s.glb.state == .ready && s.glb.linkUp

/-- SPDM_REQUEST (R395, Table 13.15). -/
def spdmRequest (t : SpdmTransport) (k : SpdmKind) (s : State) : State :=
  if !spdmServed t s then s
  else
    match k with
    | .getCertificate => emit (.spdm t 0 s.store.certChain) s
    | .challenge => let f := takeFree s; emit (.spdm t 0 (leBytes 8 f.1.toNat)) f.2
    | .getMeasurements => let f := takeFree s; emit (.spdm t 0 (measurements s f.1)) f.2
    | .keyExchange =>
      if 2 ≤ sessions t s then emit (.spdm t spdmBusy []) s
      else let f := takeFree s; emit (.spdm t 0 (leBytes 8 f.1.toNat)) (setSessions t (sessions t s + 1) f.2)
    | .endSession =>
      if sessions t s = 0 then emit (.spdm t spdmSessionRequired []) s else emit (.spdm t 0 []) (setSessions t (sessions t s - 1) s)
    | .pskExchange => emit (.spdm t spdmUnsupported []) s
    | .setCertificate => emit (.spdm t spdmUnsupported []) s
    | .other => let f := takeFree s; emit (.spdm t 0 (leBytes 8 f.1.toNat)) f.2

def execSpdmRequest (transport : SpdmTransport) (kind : SpdmKind) (s : State) : Host.Outcome State Fault Refusal :=
  .next (spdmRequest transport kind s)

/-- The streams that hold keys. -/
def ideStreams (s : State) : List Nat := s.sec.ideKeys.foldl (fun l p => insertNat (p.1 / 8) l) []

/-- IDE_KM_KEY (12 R356): a key programmed inside a DOE session, for one of the three streams there are: a link and a selective one on
CXL.io, and that of CXL.cachemem. Their numbers are the host's (log entry 157). -/
def ideKmKey (stream substream : Nat) (key : BitVec 256) (s : State) : State :=
  if spdmServed .doe s && decide (0 < s.sec.doe) && decide ((insertNat stream (ideStreams s)).length ≤ 3) then
    { s with sec := { s.sec with ideKeys := SMap.set s.sec.ideKeys (8 * stream + substream % 8) key 0 } }
  else s

def execIdeKmKey (stream substream : Nat) (key : BitVec 256) (s : State) : Host.Outcome State Fault Refusal :=
  .next (ideKmKey stream substream key s)

/-- Sideband message types and completion codes (log entry 26). -/
def sbMctp : Nat := 0x00
def sbPldm : Nat := 0x01
def pldmNotReady : Byte := 0x04
def pldmBadData : Byte := 0x02
def pldmBadCmd : Byte := 0x05
def pldmBadSensor : Byte := 0x80

/-- The always-on sideband responder has power. -/
def sideband (s : State) : Bool := s.pwr.powered

/-- MCTP_CONTROL (16 R460): endpoint discovery and ID assignment; Set Endpoint ID is command 1 (log entry 26). -/
def mctpControl (command eid : Byte) (s : State) : State :=
  if !sideband s then s
  else
    let s := if command = 1 then { s with sec := { s.sec with mctpEid := eid } } else s
    emit (.sideband sbMctp [command, 0, s.sec.mctpEid]) s

def execMctpControl (command : Byte) (eid : Byte) (s : State) : Host.Outcome State Fault Refusal := .next (mctpControl command eid s)

/-- PLDM_BASE (16 R460): the types served; the version a version request returns is a free value. -/
def pldmBase (command : Byte) (s : State) : State :=
  if !sideband s then s
  else if command = 4 then emit (.sideband sbPldm [command, 0, 0, 2, 4, 0x3F]) s
  else let f := takeFree s; emit (.sideband sbPldm ([command, 0] ++ leBytes 4 f.1.toNat)) f.2

def execPldmBase (command : Byte) (s : State) : Host.Outcome State Fault Refusal := .next (pldmBase command s)

/-- PLDM type 2 is served from MEM_TRAIN onward, except HALTED and after a trip (Table 16.3). -/
def sensorsServed (s : State) : Bool := sideband s && firmwareRuns s

/-- PLDM_SENSOR_READ (Table 16.4): sensors 1-7, and 16 for the boot state. -/
def sensorRead (n : Nat) (s : State) : State :=
  if !sideband s then s
  else if !sensorsServed s then emit (.sideband sbPldm [pldmNotReady]) s
  else if 1 ≤ n && n ≤ 7 then emit (.sideband sbPldm (0 :: leBytes 2 (s.pwr.sensors.getD (n - 1) 0))) s
  else if n = 16 then emit (.sideband sbPldm (0 :: leBytes 2 (s.pwr.sensors.getD 7 0))) s
  else emit (.sideband sbPldm [pldmBadSensor]) s

def execPldmSensorRead (sensor : Nat) (s : State) : Host.Outcome State Fault Refusal := .next (sensorRead sensor s)

/-- SENSOR_REFRESH (R460): every 100 ms. -/
def sensorRefresh (inletC10 outletC10 : BitVec 16) (s : State) : State :=
  if !sensorsServed s then s
  else
    let p := s.pwr
    let vs := [p.volt.toNat, p.power.toNat, p.computeC.toNat, p.otherC.toNat, inletC10.toNat, outletC10.toNat, p.aclk.toNat,
               s.glb.state.code]
    { s with pwr := { p with inletC10 := inletC10, outletC10 := outletC10, sensors := vs } }

def execSensorRefresh (inletC10 outletC10 : BitVec 16) (s : State) : Host.Outcome State Fault Refusal :=
  .next (sensorRefresh inletC10 outletC10 s)

/-- The ordering code of the grade (00_scope Table 0.1): JV-TK320-L, JV-TK304-L, JV-TK288-L. -/
def orderingCode (s : State) : List Byte :=
  let d : List Byte := match s.fuses.grade.toNat with | 0 => [0x33, 0x32, 0x30] | 1 => [0x33, 0x30, 0x34] | _ => [0x32, 0x38, 0x38]
  [0x4A, 0x56, 0x2D, 0x54, 0x4B] ++ d ++ [0x2D, 0x4C]

/-- PLDM_FRU_READ (Table 16.3). -/
def fruRead (s : State) : State :=
  if !sideband s then s
  else emit (.sideband sbPldm (0 :: wordsBytes [glbIdent s, s.fuses.serial] ++ orderingCode s ++ leBytes 4 s.glb.fwVersion.toNat)) s

def execPldmFruRead (s : State) : Host.Outcome State Fault Refusal := .next (fruRead s)

/-- PLDM_CRUMB_RANGE (15 R446): SEQ of the oldest and of the newest MRAM entry. -/
def crumbRange (s : State) : State :=
  if !sideband s then s
  else
    let old : Nat := match s.store.log.head? with | some c => c.seq.toNat | none => 0
    emit (.sideband sbPldm (0 :: leBytes 4 old ++ leBytes 4 s.store.mramSeq.toNat)) s

def execPldmCrumbRange (s : State) : Host.Outcome State Fault Refusal := .next (crumbRange s)

/-- PLDM_CRUMB_ENTRIES (15 R446): `count` entries from a SEQ, those that are still there. -/
def crumbEntries (seq : W32) (n : Nat) (s : State) : State :=
  if !sideband s then s
  else if n = 0 ∨ 32 < n then emit (.sideband sbPldm [pldmBadData]) s
  else emit (.sideband sbPldm (0 :: (s.store.log.filter fun c => decide ((c.seq - seq).toNat < n)).flatMap Crumb.bytes)) s

def execPldmCrumbEntries (seq : W32) (count : Nat) (s : State) : Host.Outcome State Fault Refusal := .next (crumbEntries seq count s)

end Sys2Proof.Machine
end

