-- ==== Sys2Proof/Machine/Link.lean ====
section
/-!
DEFINITION. The link layer of the Zalet ports (09 R252-R260, 15 R447), DONE symbols (R281, 02 R35) and time exchanges with the parent
(09 R285, 14 R407-R409).
-/
namespace Sys2Proof.Machine

/-- Fields of a flit header (09 Table 9.2). -/
def Flit.crc (f : Flit) : Nat := bits f.header 63 32
def Flit.seq (f : Flit) : Nat := bits f.header 30 20
def Flit.ack (f : Flit) : Nat := bits f.header 19 9
def Flit.nctrl (f : Flit) : Nat := min 32 (bits f.header 8 3)
def Flit.vc (f : Flit) : Nat := bits f.header 2 0

/-- The flit's CRC is good (R252). -/
def Flit.crcOk (f : Flit) : Bool :=
  (crc32c (leBytes 4 (f.header.toNat % 2 ^ 32) ++ wordsBytes (f.words.take 256))).toNat == Flit.crc f

/-- Control symbols of a flit (R252, R255). -/
def Flit.symbols (f : Flit) : List W64 := f.words.take (8 * Flit.nctrl f)

/-- Code of a control symbol (Table 9.3). -/
def symCode (w : W64) : Nat := bits w 63 60

/-- An idle flit holds control slots only and no sequenced symbol (R253). -/
def Flit.idle (f : Flit) : Bool := Flit.nctrl f == 32 && (Flit.symbols f).all fun w => symCode w != 1

/-- Add to a DONE report what a peer says for a round, once (09 R281). -/
def Report.hear (r : Report) (dim peer : Nat) (notDone : Bool) : Report :=
  if r.symbols.any fun x => x.1 == dim && x.2.1 == peer then r else { r with symbols := r.symbols ++ [(dim, peer, notDone)] }

/-- The peers whose last DONE symbol carried another tick index (02 R35). -/
def noteDiffering (dim peer : Nat) (same : Bool) (s : State) : State :=
  let rest := s.tkc.differing.filter fun x => x != (dim, peer)
  { s with tkc := { s.tkc with differing := if same then rest else rest ++ [(dim, peer)] } }

/-- A DONE symbol that goes on at once to its target, over this VIA device (09 R281). -/
def relayDone (dim target : Nat) (w : W64) (s : State) : State :=
  match portTo s dim target with
  | some p => if portUp s p then sayIdle p [w] s else s
  | none => s

/-- DONE_SYMBOL_RECEIVE (09 R281, Table 9.3, 02 R35): relayed toward its target, or taken for its round. One of another domain is not
taken; of one with another tick index, or that comes before the device's own report, only the tick index is noted: the peer repeats its
symbol in every flit, and counts as NOT-DONE while none that matches has come (log entry 44). -/
def doneSymbolReceive (dim peer : Nat) (w : W64) (s : State) : State :=
  if !alive s || (portTo s dim peer).isNone || bits w 57 56 ≠ dim then s
  else if bit w 58 && bits w 55 50 ≠ latCoord s dim then relayDone dim (bits w 55 50) w s
  else if bits w 49 34 ≠ s.act.tick.domainId.toNat then s
  else
    let same := bits w 31 0 == s.tkc.tick.toNat % 2 ^ 32
    let s := noteDiffering dim peer same s
    match s.tkc.report with
    | none => s
    | some r => if same then { s with tkc := { s.tkc with report := some (Report.hear r dim peer (bit w 59)) } } else s

def execDoneSymbolReceive (dim peer : Nat) (symbol : W64) (s : State) : Host.Outcome State Fault Refusal :=
  .next (doneSymbolReceive dim peer symbol s)

/-- The peer whose DONE symbol a VIA device has relayed: the one towards which this device's own detour uses that VIA
(R263, R281; log entry 44). -/
def doneOrigin (s : State) (k z : Nat) (w : W64) : Nat :=
  if bit w 58 && bits w 55 50 == latCoord s k then
    ((List.range (latSize s k)).find? fun y =>
      SMap.get s.fab.detour (33 * k + y) 0 == BitVec.ofNat 8 (128 + z) &&
        (match s.tkc.report with | some r => !(r.symbols.any fun x => x.1 == k && x.2.1 == y) | none => true)).getD z
  else z

/-- A TIME symbol (Table 9.3). -/
def timeSymbol (kind : Nat) (t : W64) : W64 := at' 64 60 4 ||| at' 64 58 kind ||| BitVec.ofNat 64 (t.toNat % 2 ^ 56)

/-- TIME symbols leave for the peer at (k, y) in an idle flit; without the port they are lost (R255, R285). -/
def sayTime (k y : Nat) (syms : List W64) (s : State) : State :=
  match portTo s k y with
  | some p => if portUp s p then sayIdle p syms s else s
  | none => s

/-- The device with time mode LOCKED answers TIME requests with T2 and T3 (09 R285). -/
def timeRequestReceive (dim peer : Nat) (_t1 : BitVec 56) (s : State) : State :=
  if alive s && s.act.timeMode == 1 && s.fab.syncEn && (portTo s dim peer).isSome then
    sayTime dim peer [timeSymbol 1 s.clk.count, timeSymbol 2 s.clk.count] s
  else s

def execTimeRequestReceive (dim peer : Nat) (t1 : BitVec 56) (s : State) : Host.Outcome State Fault Refusal :=
  .next (timeRequestReceive dim peer t1 s)

/-- An exchange that did not complete is skipped; eight in a row lose lock (14 R409). -/
def skipExchange (s : State) : State :=
  if s.clk.awaiting.isNone then s
  else
    let n := s.clk.skipped + 1
    let s := { s with clk := { s.clk with skipped := n, awaiting := none, heldT2 := none } }
    if 8 ≤ n then loseLock s else s

/-- The device's own parent (09 R285). -/
def parent (s : State) : Option (Nat × Nat) := parentOf s (myDevice s)

/-- TIME_EXCHANGE_START (09 R285): every PERIOD_US the device sends its request. -/
def timeExchangeStart (s : State) : State :=
  match parent s with
  | none => s
  | some (k, y) =>
    if !alive s || !disciplined s then s
    else
      let period := max 1 s.act.topo.periodUs.toNat * usUnits
      let s := skipExchange (advanceTo (s.clk.syncAt.toNat + period) s)
      let s := { s with clk := { s.clk with awaiting := some s.clk.count, syncAt := s.clk.count } }
      sayTime k y [timeSymbol 0 s.clk.count] s

def execTimeExchangeStart (s : State) : Host.Outcome State Fault Refusal := .next (timeExchangeStart s)

/-- The nearest multiple of 8, halves upwards (14 R407; log entry 45). -/
def round8 (o : Int) : Int := Int.fdiv (o + 4) 8 * 8

/-- A value held between two bounds. -/
def clampInt (x lo hi : Int) : Int := if x < lo then lo else if hi < x then hi else x

/-- The slew or the step of an exchange with rounded offset `o` (14 R407, R408). -/
def applyOffset (o : Int) (cycles : Nat) (s : State) : State :=
  if 16000 < o.natAbs && !s.tkc.running then
    { s with clk := { s.clk with count := s.clk.count + BitVec.ofInt 64 o, stepped := true, corr := 0 } }
  else
    let lim : Int := 2 ^ 32 / 250
    let rate := clampInt (s.clk.rate + Int.tdiv (o * 2 ^ 32) (4 * max 1 cycles)) (-lim) lim
    { s with clk := { s.clk with corr := o, rate := rate } }

/-- Gain or loss of lock after an exchange (09 R285, 14 R409). -/
def settleLock (offset o : Int) (s : State) : State :=
  let good := if offset.natAbs ≤ 32 then min 8 (s.clk.good + 1) else 0
  let s := { s with clk := { s.clk with good := good } }
  if 64 < o.natAbs then loseLock s
  else if s.clk.parentLocked && 8 ≤ good && !s.clk.coarse then setLocked true s else s

/-- An exchange completes with the offset and the TCLK cycles since the last (09 R285, 14 R407, R408). -/
def endExchange (offset : Int) (cycles : Nat) (s : State) : State :=
  let s := { s with fab := { s.fab with syncOffset := BitVec.ofInt 64 offset }
                    clk := { s.clk with awaiting := none, heldT2 := none, skipped := 0, exchanged := s.clk.count } }
  settleLock offset (round8 offset) (applyOffset (round8 offset) cycles s)

/-- TIME_RESPONSE_RECEIVE (09 R285, 14 R407, R408): the exchange completes with its stamps and the TCLK cycles since the last. -/
def timeResponseReceive (t2 t3 t4 : W64) (cycles : Nat) (s : State) : State :=
  match s.clk.awaiting with
  | none => s
  | some t1 =>
    if !alive s || !disciplined s then s
    else endExchange (Int.tdiv (((t2.toNat : Int) - t1.toNat) - ((t4.toNat : Int) - t3.toNat)) 2) cycles s

def execTimeResponseReceive (t2 t3 t4 : W64) (cycles : Nat) (s : State) : Host.Outcome State Fault Refusal :=
  .next (timeResponseReceive t2 t3 t4 cycles s)

/-- The difference of two counts of which one is known in its low 56 bits (Table 9.3). -/
def diff56 (a b : Nat) : Int := (BitVec.ofNat 56 (a + 2 ^ 56 - b % 2 ^ 56)).toInt

/-- A TIME response in a flit (09 R255, R285): T2 is kept, and T3 completes the exchange with T4 taken now; the cycles since the last
exchange are those that the count has advanced by 40 (log entry 45). -/
def takeTime (k y : Nat) (w : W64) (s : State) : State :=
  if parent s != some (k, y) || !alive s || !disciplined s then s
  else
    let t := bits w 55 0
    match bits w 59 58, s.clk.awaiting, s.clk.heldT2 with
    | 1, some _, _ => { s with clk := { s.clk with heldT2 := some (BitVec.ofNat 64 t) } }
    | 2, some t1, some t2 =>
      endExchange (Int.tdiv (diff56 t2.toNat t1.toNat - diff56 (now s) t) 2) ((now s - s.clk.exchanged.toNat) / 40) s
    | _, _, _ => s

/-- LOCK_STATE_MESSAGE (14 R409): the parent tells its lock; a device whose parent has lost lock loses it too, and one with eight good
offsets in a row gains lock with its parent's (09 R285). -/
def lockStateMessage (locked : Bool) (s : State) : State :=
  if !alive s || isRoot s then s
  else
    let s := { s with clk := { s.clk with parentLocked := locked } }
    if !locked then loseLock s else if 8 ≤ s.clk.good && !s.clk.coarse then setLocked true s else s

def execLockStateMessage (locked : Bool) (s : State) : Host.Outcome State Fault Refusal := .next (lockStateMessage locked s)

/-- Resend from SEQ `n` on, in order, with the unsequenced symbols of now; an idle flit carries these too, since a resent flit may have no
control slot to spare (R253; log entry 128). -/
def resendFrom (p n : Nat) (s : State) : State :=
  let x := portAt s p
  let again := x.replay.dropWhile fun f => f.seq != n
  if again.isEmpty then s
  else
    let t := now s
    let keep := x.replays.filter fun u => decide (t < u + 1000 * usUnits)
    let s := count (portCtr p 5) 1 (setPort p { x with replays := keep ++ [t], ackTime := t } s)
    let x := voicePort s p
    again.foldl (fun s f => emit (.flit p (wireFlit x f)) s) (if (freeSymbols x).isEmpty then s else sayIdle p [] s)

/-- ACK names the last flit received in order: it and those before it leave the replay buffer (R253). -/
def ackFlits (p a : Nat) (s : State) : State :=
  let x := portAt s p
  if x.replay.any fun f => f.seq == a then
    let left := (x.replay.dropWhile fun f => f.seq != a).drop 1
    setPort p { x with replay := left, sent := x.sent.filter (fun e => left.any fun f => f.seq == e.1), ackTime := now s } s
  else s

/-- CREDIT: the peer returns credits of a VC and pool (R254). -/
def takeCredit (p : Nat) (w : W64) (s : State) : State :=
  let x := portAt s p
  let d := bit w 56
  let credits := SMap.alter x.credits (creditKey (bits w 59 57) d) (poolSize d) fun c => min (poolSize d) (c + bits w 42 32)
  setPort p { x with credits := credits } s

/-- An unsequenced symbol, or a reserved code, of a flit with a good CRC (R255). -/
def takeSymbol (p k y : Nat) (w : W64) (s : State) : State :=
  match symCode w with
  | 0 | 1 | 5 => s
  | 2 => resendFrom p (bits w 10 0) s
  | 3 => doneSymbolReceive k (doneOrigin s k y w) w s
  | 4 =>
    let kind := bits w 59 58
    if kind = 0 then timeRequestReceive k y (BitVec.ofNat 56 (bits w 55 0)) s
    else if kind = 3 then count (portCtr p 11) 1 s else takeTime k y w s
  | _ => count (portCtr p 11) 1 s

/-- A flit is discarded, and the port answers NAK until the expected one arrives (R253). -/
def rejectFlit (p : Nat) (s : State) : State := sayIdle p [] (setPort p { portAt s p with naking := true } s)

/-- The sequenced part of a flit in order: its credits and its data slots; the messages come by MESSAGE_RECEIVE (R252-R255). -/
def acceptFlit (p : Nat) (f : Flit) (s : State) : State :=
  let x := portAt s p
  let s := setPort p { x with rxExp := (x.rxExp + 1) % 2048, naking := false } s
  let s := ((Flit.symbols f).filter fun w => symCode w == 1).foldl (fun s w => takeCredit p w s) s
  count (portCtr p 1) (32 - Flit.nctrl f) s

/-- The codewords that the FEC has corrected for a flit are counted (R287). -/
def fecCount (p : Nat) (f : Flit) (s : State) : State := count (portCtr p 2) f.fecCorr s

/-- FLIT_RECEIVE (09 R252-R255): a flit that is not idle is answered by an idle flit that carries ACK, or NAK (log entry 128). -/
def flitReceive (p : Nat) (f : Flit) (s : State) : State :=
  match peerOf s p with
  | none => s
  | some (k, y) =>
    if !alive s || !portUp s p then s
    else if !f.fecOk then rejectFlit p (count (portCtr p 3) 1 (fecCount p f s))
    else if !Flit.crcOk f then rejectFlit p (count (portCtr p 4) 1 (fecCount p f s))
    else
      let s := ackFlits p (Flit.ack f) (fecCount p f s)
      let s := (Flit.symbols f).foldl (fun s w => takeSymbol p k y w s) s
      let s := if !Flit.idle f && Flit.seq f == (portAt s p).rxExp then acceptFlit p f s else s
      flushPort p (if Flit.idle f && !(portAt s p).naking then s else sayIdle p [] s)

def execFlitReceive (port : Nat) (flit : Flit) (s : State) : Host.Outcome State Fault Refusal := .next (flitReceive port flit s)

/-- REPLAY_TIMEOUT (R253): 2 µs without an advance of ACK. -/
def replayTimeout (p : Nat) (s : State) : State :=
  let x := portAt s p
  match x.replay with
  | [] => s
  | f :: _ => if alive s && portUp s p then resendFrom p f.seq (advanceTo (x.ackTime + 2 * usUnits) s) else s

def execReplayTimeout (port : Nat) (s : State) : Host.Outcome State Fault Refusal := .next (replayTimeout port s)

/-- The peer's ID symbol says what R259 expects: it names itself, the dimension, its coordinate in it, and the domain (R260, Table 9.3). -/
def identityOk (s : State) (k y : Nat) (w : W64) : Bool :=
  bits w 59 50 == peerDevice s k y && bits w 49 48 == k && bits w 47 42 == y && bits w 41 26 == s.act.tick.domainId.toNat

/-- A port that has trained starts with an empty replay buffer and full credits (R253, R254). -/
def freshPort (x : Port) (rtt : W32) (lanes : BitVec 4) : Port :=
  { x with rtt := rtt, lanes := lanes, txSeq := 0, rxExp := 0, replay := [], sent := [], naking := false, say := [], credits := []
           owed := [], turnVc := 0, turnLeft := 0, replays := [], retrainAt := none }

/-- A port in RETRAIN goes back to training and sends its identity (09 R256, R260). -/
def returnToTraining (p : Nat) (s : State) : State :=
  if (portAt s p).state == .retrain then sayIdentity p (portState p .training s) else s

/-- PORT_TRAINING_DONE (09 R256, R260): UP, or DOWN with CABLE_ERR; without FEC lock on every lane the training goes on. -/
def portTrainingDone (p : Nat) (identity : W64) (rtt : W32) (lanes : BitVec 4) (s : State) : State :=
  match peerOf s p with
  | none => s
  | some (k, y) =>
    if !alive s || !((portAt s p).state == .training || (portAt s p).state == .retrain) then s
    else
      let s := returnToTraining p s
      let x := portAt s p
      if lanes ≠ 0xF then setPort p { x with lanes := lanes } s
      else if identityOk s k y identity then flushPort p (portState p .up (setPort p (freshPort x rtt lanes) s))
      else
        let s := { s with fab := { s.fab with cableErr := true } }
        portState p .down (setPort p { x with lanes := lanes, retrainAt := none } s)

def execPortTrainingDone (port : Nat) (identity : W64) (rttNs : W32) (lanes : BitVec 4) (s : State) : Host.Outcome State Fault Refusal :=
  .next (portTrainingDone port identity rttNs lanes s)

/-- Ten minutes of time base. -/
def tenMinutes : Nat := 600 * secUnits

/-- PORT_RETRAIN (09 R256, 15 R447): FEC loss, or more than 16 replays in 1 ms; the replay rule a second time in 10 minutes condemns
the port. -/
def portRetrain (p : Nat) (cause : RetrainCause) (lanes : BitVec 4) (s : State) : State :=
  let x := portAt s p
  let t := now s
  let many := decide (16 < (x.replays.filter fun u => decide (t < u + 1000 * usUnits)).length)
  if !alive s || !portUp s p || (cause == .replays && !many) then s
  else if cause == .replays then
    let recent := (x.replayRetrains.filter fun u => decide (t < u + tenMinutes)) ++ [t]
    let s := setPort p { x with lanes := lanes, replayRetrains := recent, replays := [] } s
    let s := portRetrainNow p s
    if 2 ≤ recent.length then condemn 3 p 8 s else s
  else portRetrainNow p (setPort p { x with lanes := lanes } s)

def execPortRetrain (port : Nat) (cause : RetrainCause) (lanes : BitVec 4) (s : State) : Host.Outcome State Fault Refusal :=
  .next (portRetrain port cause lanes s)

/-- PORT_RETRAIN_TIMEOUT (15 R447): a retrain has not reached UP within 100 ms; three such in 10 minutes condemn the port. -/
def portRetrainTimeout (p : Nat) (s : State) : State :=
  match (portAt s p).retrainAt with
  | none => s
  | some t0 =>
    if !alive s || !((portAt s p).state == .retrain || (portAt s p).state == .training) then s
    else
      let s := advanceTo (t0 + 100000 * usUnits) s
      let x := portAt s p
      let t := now s
      let recent := (x.failedRetrains.filter fun u => decide (t < u + tenMinutes)) ++ [t]
      let s := setPort p { x with failedRetrains := recent, retrainAt := some t } s
      if 3 ≤ recent.length then condemn 3 p 9 s else s

def execPortRetrainTimeout (port : Nat) (s : State) : Host.Outcome State Fault Refusal := .next (portRetrainTimeout port s)

end Sys2Proof.Machine
end

