-- ==== Sys2Proof/Machine/Observe.lean ====
section
/-!
DEFINITION. Sampling (15 R431-R433), the trace buffer (R438-R442), the crumb log's MRAM side (R444), fault buckets (R447), and
the driver's side of the event controller (13 R376-R380).
-/
namespace Sys2Proof.Machine

/-- Copy an agreement group's pending fields into the active copy (12 R363, Table 12.8). -/
def applyFields (g : Nat) (a p : Staged) : Staged :=
  match g with
  | 0 => { a with tick := p.tick }
  | 1 => { a with seed := p.seed }
  | 2 => { a with recipeBase := p.recipeBase, statsBase := p.statsBase, statsSize := p.statsSize }
  | 3 => { a with streamAdapt := p.streamAdapt, forceExact := p.forceExact }
  | 4 => { a with ruleBase := p.ruleBase, votePolicy := p.votePolicy }
  | 5 => { a with topo := p.topo }
  | 6 => { a with groups := p.groups }
  | 7 => { a with ringBase := p.ringBase, ctxBase := p.ctxBase, dbL2 := p.dbL2, dbL1 := p.dbL1 }
  | 8 => { a with timeMode := p.timeMode }
  | 9 => { a with capW := p.capW }
  | 10 => { a with srcCfg := p.srcCfg, vecMod := p.vecMod }
  | 11 => { a with post := p.post, traceMode := p.traceMode, sizeMib := p.sizeMib }
  | 12 => { a with intervalUs := p.intervalUs, sampleMask := p.sampleMask }
  | _ => a

/-- A pending group applies: the copies, CMT_PENDING, CMT_DIRTY and CMT_APPLIED (R363). -/
def applyGroup (g : Nat) (s : State) : State :=
  let cmt := { s.cmt with pending := putBit s.cmt.pending g false, dirty := putBit s.cmt.dirty g false, applied := s.cmt.applied + 1 }
  { s with act := applyFields g s.act s.pend, cmt := cmt }

/-- A commit of group `g` waits. -/
def groupPending (s : State) (g : Nat) : Bool := s.cmt.pending.getLsbD g

/-- A pending group is refused: the pending copy stays as written (R364). -/
def refuseGroup (g : Nat) (s : State) : State :=
  { s with cmt := { s.cmt with pending := putBit s.cmt.pending g false, refused := putBit s.cmt.refused g true } }

/-- One sample record (Table 15.3) for set `k`, with the values captured at the instant. -/
def sampleRecord (s : State) (cause k : Nat) (values : List Nat) : List Byte :=
  let n := bits s.obs.sampleBase 4 0
  let w0 : W64 := at' 64 58 k ||| at' 64 57 (b2n s.obs.sampleLost) ||| at' 64 56 (phaseBit s.obs.sampleSeq.toNat n) |||
    at' 64 32 cause ||| s.obs.sampleSeq.setWidth 64
  wordsBytes ([w0, stamp s, s.obs.sampleNo, 0, 0, 0, 0, 0] ++ values.map fun v => BitVec.ofNat 64 v)

/-- Write one record, or drop it: sampling off or the ring full (R432, R433). -/
def sampleSet (cause : Nat) (s0 : State) (k : Nat) (s : State) : State :=
  let n := bits s.obs.sampleBase 4 0
  if !s.obs.sampleEn || ringFull s.obs.sampleSeq s.obs.sampleHead n then
    { s with obs := { s.obs with sampleDrops := satInc s.obs.sampleDrops, sampleDrop := true, sampleLost := true } }
  else
    let a := s.obs.sampleBase.toNat / 4096 * 4096 + 576 * (s.obs.sampleSeq.toNat % 2 ^ n)
    let s := hostWrite s a (sampleRecord s cause k ((List.range 64).map fun i => deviceCtr s0 (64 * k + i)))
    { s with obs := { s.obs with sampleSeq := s.obs.sampleSeq + 1, sampleLost := false } }

/-- Take a sample of the sets in a mask (R431-R433); the counter sampling group applies at it (Table 12.8). -/
def takeSample (cause : Nat) (mask : State → W64) (s : State) : State :=
  let s := if groupPending s 12 then applyGroup 12 s else s
  let s' := ((List.range 64).filter fun k => (mask s).getLsbD k).foldl (fun t k => sampleSet cause s k t) s
  serveBg 3 0x3002 (count (obsCtr 0) 1 { s' with obs := { s'.obs with sampleNo := s'.obs.sampleNo + 1 } })

/-- Interval of samples in time-base units: 1-9 µs act as 10 (Table 15.13). -/
def sampleInterval (s : State) : Nat := (max 10 s.act.intervalUs.toNat) * usUnits

/-- The next sample instant: the first multiple of the interval that is due (R431). -/
def sampleDue (s : State) : Nat := roundUp (sampleInterval s) (max (now s) s.obs.nextSample.toNat)

/-- SAMPLE_TICK (R431): time reaches the next sample instant. -/
def sampleTick (s : State) : State :=
  if alive s && s.obs.sampleEn && s.act.intervalUs != 0 then
    let t := sampleDue s
    let s := takeSample 0 (fun s => s.act.sampleMask) (advanceTo t s)
    { s with obs := { s.obs with nextSample := BitVec.ofNat 64 (t + 1) } }
  else s

def execSampleTick (s : State) : Host.Outcome State Fault Refusal := .next (sampleTick s)

/-- SAMPLE_NOW (R433); a SET_MASK of 0 writes nothing. -/
def sampleNowBody (_ : Nat) (_ : Ring) (c : Cmd) (s : State) : Phase × State :=
  (.finished okResult, if c.desc.w2 = 0 then s else takeSample 1 (fun _ => c.desc.w2) s)

def sampleNowMeaning : Meaning := { check := noCheck, body := sampleNowBody }

def execSampleNow (q : Nat) (d : Desc) (s : State) : Host.Outcome State Fault Refusal :=
  .next (runCmd opSampleNow sampleNowMeaning q d s)

/-- Slots of the trace buffer and of its post part (R438, R439). -/
def traceSlots (s : State) : Nat := s.act.sizeMib.toNat * 32768
def postSlots (s : State) : Nat := traceSlots s * s.act.post.toNat / 16

/-- Bytes of a trace record (Table 15.6). -/
def TraceRec.bytes (r : TraceRec) : List Byte :=
  wordsBytes [at' 64 56 r.kind.toNat ||| at' 64 44 r.unit.toNat ||| at' 64 32 r.stage.toNat ||| r.seq.setWidth 64, r.stamp, r.p2, r.p3]

/-- Write a record into a slot of the buffer (R442). -/
def traceStore (slot : Nat) (r : TraceRec) (s : State) : State :=
  match segAddr (traceSegs s (traceMib s)) (32 * slot) with
  | some a => devWrite a r.bytes s
  | none => s

/-- The GAP record of a full buffer (R438). -/
def gapRec (s : State) (lost : Nat) : TraceRec :=
  { kind := 0x0F, unit := 0xB00, stage := 0, seq := s.obs.traceSeq, stamp := stamp s, p2 := BitVec.ofNat 64 lost, p3 := 1 }

/-- Write the next slot and advance the write pointer. -/
def tracePut (r : TraceRec) (s : State) : State :=
  let p := s.obs.writePtr.toNat
  let s := count (obsCtr 1) 1 (traceStore p r s)
  { s with obs := { s.obs with writePtr := BitVec.ofNat 27 ((p + 1) % traceSlots s) } }

/-- The buffer becomes full by a GAP record in its last slot (R438). -/
def traceFull (s : State) : State :=
  let s := tracePut (gapRec s 0) s
  { s with obs := { s.obs with traceState := .full, postLeft := 0 } }

/-- One record drains into the buffer (R438, R439). -/
def traceDrain1 (r : TraceRec) (s : State) : State :=
  match s.obs.traceState with
  | .stopped => s
  | .full => { s with obs := { s.obs with traceDrops := satInc s.obs.traceDrops } }
  | .triggered =>
    let s := tracePut r s
    let left := s.obs.postLeft - 1
    if left ≤ 1 then traceFull s else { s with obs := { s.obs with postLeft := left } }
  | .running =>
    let slot := s.obs.writePtr
    let s := tracePut r s
    match s.act.traceMode.toNat with
    | 1 => if s.obs.writePtr.toNat + 1 = traceSlots s then traceFull s else s
    | 2 =>
      if r.kind = 0x0E then
        let s := { s with obs := { s.obs with traceState := .triggered, trigPtr := slot, postLeft := postSlots s } }
        if s.obs.postLeft ≤ 1 then traceFull s else s
      else s
    | _ => s

/-- Drain the oldest `n` records of the FIFO (R437). -/
def traceDrainN : Nat → State → State
  | 0, s => s
  | n + 1, s =>
    match s.obs.fifo with
    | [] => s
    | r :: t => traceDrainN n (traceDrain1 r { s with obs := { s.obs with fifo := t } })

/-- TRACE_DRAIN (R437): the trace drain moves records, at most 512 at a time. -/
def traceDrain (n : Nat) (s : State) : State := if alive s then traceDrainN (min n 512) (serveBg 5 0x3003 s) else s

def execTraceDrain (records : Nat) (s : State) : Host.Outcome State Fault Refusal := .next (traceDrain records s)

/-- Tracing starts at slot 0 (R438). -/
def traceBegin (s : State) : State :=
  { s with obs := { s.obs with traceRun := true, traceState := .running, writePtr := 0, triggered := false, postLeft := 0 } }

/-- The slot that holds the GAP record of a full buffer. -/
def lastSlot (s : State) : Nat :=
  if s.act.traceMode = 1 then traceSlots s - 1 else (s.obs.trigPtr.toNat + postSlots s) % traceSlots s

/-- The count of the GAP record in a slot is written again (R438). -/
def gapCount (slot n : Nat) (s : State) : State :=
  match segAddr (traceSegs s (traceMib s)) (32 * slot + 16) with
  | some a => devWrite a (leBytes 8 n) s
  | none => s

/-- Tracing stops: the FIFO drains, and the GAP of a full buffer takes OBS_TRACE_DROPS (R438). -/
def traceEnd (s : State) : State :=
  let s := { s with obs := { s.obs with traceRun := false } }
  if s.obs.traceState == .stopped then s
  else
    let s := traceDrainN s.obs.fifo.length s
    let s := if s.obs.traceState == .full then gapCount (lastSlot s) s.obs.traceDrops.toNat s else s
    { s with obs := { s.obs with traceState := .stopped } }

/-- OBS_CTRL.TRACE_RUN goes from 0 to 1 (R438). -/
def traceSet (s : State) : State := if s.obs.traceRun then s else traceBegin s

def execTraceRunSet (s : State) : Host.Outcome State Fault Refusal := .next (onBus 0xC0000 4 traceSet s)

def execTraceRunClear (s : State) : Host.Outcome State Fault Refusal := .next (onBus 0xC0000 4 traceEnd s)

/-- OP of a TRACE_CTL command (Table 15.8). -/
def traceOp (d : Desc) : Nat := bits d.w2 63 56

/-- Checks of TRACE_CTL: reserved OP, and the words an OP does not use. -/
def traceCheck (_ : State) (_ : Ring) (c : Cmd) : Option Result :=
  let op := traceOp c.desc
  if op = 0 ∨ 5 < op then some (descErr 0x07 2)
  else if op ≠ 4 ∧ bits c.desc.w2 47 0 ≠ 0 then some (descErr 0x04 2)
  else if op ≤ 3 ∧ c.desc.w3 ≠ 0 then some (descErr 0x04 3)
  else if op = 5 ∧ bits c.desc.w3 63 32 ≠ 0 then some (descErr 0x04 3)
  else none

/-- What a TRACE_CTL with a given action does (R441). -/
def traceMeaning (act : Desc → State → State) : Meaning :=
  { check := traceCheck, body := fun _ _ c s => (.finished okResult, act c.desc s) }

/-- A TRACE_CTL row: its OP, or for START also the reserved ones, which end in the check (R441). -/
def traceCtl (op : Nat) (act : Desc → State → State) (q : Nat) (d : Desc) (s : State) : State :=
  let o := traceOp d
  if o = op ∨ (op = 1 ∧ (o = 0 ∨ 5 < o)) then
    runCmd opTraceCtl (traceMeaning act) q d s
  else s

def execTraceStart (q : Nat) (d : Desc) (s : State) : Host.Outcome State Fault Refusal :=
  .next (traceCtl 1 (fun _ s => traceBegin s) q d s)

def execTraceStop (q : Nat) (d : Desc) (s : State) : Host.Outcome State Fault Refusal :=
  .next (traceCtl 2 (fun _ s => traceEnd s) q d s)

def execTraceTrigger (q : Nat) (d : Desc) (s : State) : Host.Outcome State Fault Refusal :=
  .next (traceCtl 3 (fun _ s => trigger 0 0 s) q d s)

/-- A MARK record (Table 15.7). -/
def traceMarkAct (d : Desc) (s : State) : State := trace 0x0A 0xB00 0 d.w3 (BitVec.ofNat 64 (bits d.w2 47 0)) s

def execTraceMark (q : Nat) (d : Desc) (s : State) : Host.Outcome State Fault Refusal := .next (traceCtl 4 traceMarkAct q d s)

/-- Bits of OBS_TRACE_MASK that exist. -/
def traceMaskBits : W32 := 0x7FE

/-- OBS_TRACE_MASK takes word 3 (Table 15.8). -/
def traceSetMaskAct (d : Desc) (s : State) : State :=
  { s with obs := { s.obs with traceMask := d.w3.setWidth 32 &&& traceMaskBits } }

def execTraceSetMask (q : Nat) (d : Desc) (s : State) : Host.Outcome State Fault Refusal := .next (traceCtl 5 traceSetMaskAct q d s)

/-- CRUMB_MRAM_WRITE (R444): the oldest waiting entry reaches MRAM. -/
def execCrumbMramWrite (s : State) : Host.Outcome State Fault Refusal := .next (if s.pwr.powered then crumbFlush1 s else s)

/-- BUCKET_DECAY (R447): every bucket loses 16, at the next multiple of 60 s. -/
def bucketDecay (s : State) : State :=
  if alive s then
    let m := 60 * secUnits
    let b := s.obs.buckets.foldl (fun (b : SMap Nat) p => SMap.set b p.1 (p.2 - 16) 0) []
    advanceTo ((now s / m + 1) * m) { s with obs := { s.obs with buckets := b } }
  else s

def execBucketDecay (s : State) : Host.Outcome State Fault Refusal := .next (bucketDecay s)

/-- EVENT_RING_HEAD_UPDATE (13 R381): the host's stores, then the head word is read again. -/
def eventRingHead (stores : List Host.Cell) (s : State) : State :=
  let s := { s with host := Memory.stores s.host stores }
  if s.evc.ringEn && alive s then
    { s with evc := { s.evc with headCount := BitVec.ofNat 32 (hostNat s (s.evc.ringHeadAddr.toNat / 8 * 8) 4) } }
  else s

def execEventRingHeadUpdate (stores : List Host.Cell) (s : State) : Host.Outcome State Fault Refusal := .next (eventRingHead stores s)

/-- SAMPLE_RING_HEAD_UPDATE (R432). -/
def sampleRingHead (stores : List Host.Cell) (s : State) : State :=
  let s := { s with host := Memory.stores s.host stores }
  if s.obs.sampleEn && alive s then
    { s with obs := { s.obs with sampleHead := BitVec.ofNat 32 (hostNat s (s.obs.sampleHeadAddr.toNat / 8 * 8) 4) } }
  else s

def execSampleRingHeadUpdate (stores : List Host.Cell) (s : State) : Host.Outcome State Fault Refusal := .next (sampleRingHead stores s)

/-- EVC_EOI and EVC_FAST_EOI (13 R380). -/
def execEvcEoi (source : BitVec 11) (s : State) : Host.Outcome State Fault Refusal :=
  .next (onBus 0x4000C 4 (complete false source.toNat) s)

def execEvcFastEoi (source : BitVec 11) (s : State) : Host.Outcome State Fault Refusal :=
  .next (onBus 0x48000 4 (complete true source.toNat) s)

/-- DISABLE is cleared: what was held back is delivered (13 R379). -/
def globalEnable (s : State) : State := deliverAll { s with evc := { s.evc with globalDisable := false } }

def execEvcGlobalEnable (s : State) : Host.Outcome State Fault Refusal := .next (onBus 0x40008 4 globalEnable s)

/-- EVC_ARM_LINE (13 R376): the host's stores to an arm line; armed vectors with requests deliver. -/
def armLine (line : Nat) (stores : List Host.Cell) (s : State) : State :=
  let s := { s with host := Memory.stores s.host stores }
  if s.evc.armEn && s.evc.armHeld && alive s && decide (line < 4) then
    ((s.evc.vec.map (·.1)).filter fun v => v / 512 == line).foldl (fun s v => checkVec v s) s
  else s

def execEvcArmLine (line : Nat) (stores : List Host.Cell) (s : State) : Host.Outcome State Fault Refusal := .next (armLine line stores s)

/-- VECTOR_MOD_TIMEOUT (13 R375): time reaches the limit of a vector's first request. -/
def vectorModTimeout (v : Nat) (s : State) : State :=
  match (vecOf s v).first with
  | some t => if alive s then checkVec v (advanceTo (t + modTime s v * usUnits) s) else s
  | none => s

def execVectorModTimeout (vector : Nat) (s : State) : Host.Outcome State Fault Refusal := .next (vectorModTimeout vector s)

/-- The mask bit of a vector's table entry is cleared: what is due on it is delivered (13 R378). -/
def unmask (v : Nat) (s : State) : State :=
  let s := { s with evc := { s.evc with msix := SMap.set s.evc.msix v { msixOf s v with masked := false } resetMsix } }
  let fast := (s.evc.src.filter fun p => isFast p.1 && p.2.host == .pending && srcVector s p.1 == v).map (·.1)
  checkVec v (fast.foldl (fun s k => checkFast k s) (syncPba v s))

def execMsixUnmask (vector : Nat) (s : State) : Host.Outcome State Fault Refusal :=
  .next (if vector < 2048 then onBus (0x200000 + 16 * vector + 12) 4 (unmask vector) s else s)

end Sys2Proof.Machine
end

