-- ==== Sys2Proof/Machine/Num.lean ====
section
/-!
DEFINITION. Exact binary values and their rounding: the floating-point formats of 03 Table 3.3, round to nearest even
(R89), stochastic rounding (R90) and the FP32 operations of R85-R87 and 08 R213, each rounded once.
-/
namespace Sys2Proof.Machine

/-- An exact value: NaN with its sign bit, an infinity, or (-1)^neg * m * 2^e. A zero keeps its sign (R85). -/
inductive Fv where
  | nan (neg : Bool)
  | inf (neg : Bool)
  | fin (neg : Bool) (m : Nat) (e : Int)
  deriving DecidableEq, Repr

/-- Parameters of a floating-point format (Table 3.3). `maxCode` is the largest finite magnitude's code. -/
structure Fmt where
  ebits : Nat
  bias : Int
  mbits : Nat
  hasInf : Bool
  hasNan : Bool
  maxCode : Nat
  nanCode : Nat
  deriving DecidableEq, Repr

def fp32 : Fmt := { ebits := 8, bias := 127, mbits := 23, hasInf := true, hasNan := true, maxCode := 0x7F7FFFFF, nanCode := 0x7FC00000 }
def bf16 : Fmt := { ebits := 8, bias := 127, mbits := 7, hasInf := true, hasNan := true, maxCode := 0x7F7F, nanCode := 0x7FC0 }
def fp16 : Fmt := { ebits := 5, bias := 15, mbits := 10, hasInf := true, hasNan := true, maxCode := 0x7BFF, nanCode := 0x7E00 }
def e4m3 : Fmt := { ebits := 4, bias := 7, mbits := 3, hasInf := false, hasNan := true, maxCode := 0x7E, nanCode := 0x7F }
def e5m2 : Fmt := { ebits := 5, bias := 15, mbits := 2, hasInf := true, hasNan := true, maxCode := 0x7B, nanCode := 0x7E }
def e3m2 : Fmt := { ebits := 3, bias := 3, mbits := 2, hasInf := false, hasNan := false, maxCode := 0x1F, nanCode := 0 }
def e2m3 : Fmt := { ebits := 2, bias := 1, mbits := 3, hasInf := false, hasNan := false, maxCode := 0x1F, nanCode := 0 }
def e2m1 : Fmt := { ebits := 2, bias := 1, mbits := 1, hasInf := false, hasNan := false, maxCode := 0x7, nanCode := 0 }

/-- The M40 format seen as one float with 31 fraction bits: the FP32 plane above the extension byte (R83). -/
def m40 : Fmt :=
  { ebits := 8, bias := 127, mbits := 31, hasInf := true, hasNan := true, maxCode := 0x7F7FFFFFFF, nanCode := 0x7FC0000000 }

/-- Width of a code in bits. -/
def Fmt.width (f : Fmt) : Nat := 1 + f.ebits + f.mbits

/-- Exponent of the smallest unit (the subnormal grid). -/
def Fmt.grid (f : Fmt) : Int := 1 - f.bias - f.mbits

/-- Decode a code (R62, R63). -/
def Fmt.decode (f : Fmt) (c : Nat) : Fv :=
  let mag := c % 2 ^ (f.ebits + f.mbits)
  let neg := c / 2 ^ (f.ebits + f.mbits) % 2 == 1
  if mag ≤ f.maxCode then
    let ef := mag / 2 ^ f.mbits
    let fr := mag % 2 ^ f.mbits
    if ef = 0 then .fin neg fr f.grid else .fin neg (fr + 2 ^ f.mbits) (f.grid + (ef - 1 : Nat))
  else if f.hasInf && mag == f.maxCode + 1 then .inf neg
  else .nan neg

/-- How a value is narrowed: to nearest even, or stochastically with the 16 bits `u` of a sprinkle word (R89, R90). -/
inductive Rnd where
  | near
  | stoch (u : Nat)
  deriving DecidableEq, Repr

/-- Round m * 2^e to a multiple of 2^g, the quotient in units of 2^g. -/
def roundAt (r : Rnd) (m : Nat) (e g : Int) : Nat :=
  if g ≤ e then m <<< (e - g).toNat
  else
    let d := (g - e).toNat
    let q := m >>> d
    let rem := m % 2 ^ d
    match r with
    | .near =>
      let half := 2 ^ (d - 1)
      if rem > half || (rem == half && q % 2 == 1) then q + 1 else q
    | .stoch u =>
      let r16 := if 16 ≤ d then rem >>> (d - 16) else rem <<< (16 - d)
      if r16 + u ≥ 0x10000 then q + 1 else q

/-- floor(log2(m * 2^e)) for m > 0. -/
def flog2 (m : Nat) (e : Int) : Int := e + (Nat.log2 m : Nat)

/-- ceil(log2(m * 2^e)) for m > 0. -/
def clog2 (m : Nat) (e : Int) : Int := if 2 ^ Nat.log2 m = m then flog2 m e else flog2 m e + 1

/-- The magnitude code a finite value rounds to in format `f`, not yet checked for range (R95 step 4). -/
def Fmt.roundCode (f : Fmt) (r : Rnd) (m : Nat) (e : Int) : Nat :=
  if m = 0 then 0
  else
    let g := max (flog2 m e - f.mbits) f.grid
    let q := roundAt r m e g
    (g - f.grid).toNat * 2 ^ f.mbits + q

/-- The sign bit of a code. -/
def Fmt.signBit (f : Fmt) (neg : Bool) : Nat := if neg then 2 ^ (f.ebits + f.mbits) else 0

/-- Narrow a value as IEEE 754 does, overflow going to infinity (arithmetic results in FP32). -/
def Fmt.narrow (f : Fmt) (v : Fv) : Nat :=
  match v with
  | .nan _ => f.nanCode
  | .inf neg => f.maxCode + 1 + f.signBit neg
  | .fin neg m e => min (f.roundCode .near m e) (f.maxCode + 1) + f.signBit neg

/-- A NaN of a format as an FP32 encoding: its sign and its payload, left-aligned (R87). -/
def Fmt.nan32 (f : Fmt) (c : Nat) : Nat :=
  2 ^ 31 * (c / 2 ^ (f.ebits + f.mbits) % 2) + 0x7F800000 + (if f.mbits ≤ 23 then c % 2 ^ f.mbits * 2 ^ (23 - f.mbits) else c % 2 ^ f.mbits / 2 ^ (f.mbits - 23))

/-- The value of an FP32 word. -/
def fv (x : F32) : Fv := fp32.decode x.toNat

/-- Round once to FP32 (rne_f32). -/
def rne (v : Fv) : F32 := BitVec.ofNat 32 (fp32.narrow v)

/-- The exact value of a signed integer times 2^e; zero is +0. -/
def Fv.ofInt (i : Int) (e : Int) : Fv := .fin (i < 0) i.natAbs e

/-- The signed mantissa. -/
def signedM (neg : Bool) (m : Nat) : Int := if neg then -(m : Int) else m

/-- Whether a value is finite. -/
def Fv.finite : Fv → Bool
  | .fin _ _ _ => true
  | _ => false

/-- Whether a value is NaN. -/
def Fv.isNan : Fv → Bool
  | .nan _ => true
  | _ => false

/-- Whether a value is a zero. -/
def Fv.isZero : Fv → Bool
  | .fin _ m _ => m == 0
  | _ => false

/-- The sign bit. -/
def Fv.neg : Fv → Bool
  | .nan n => n
  | .inf n => n
  | .fin n _ _ => n

/-- The value with the opposite sign. -/
def Fv.negate : Fv → Fv
  | .nan n => .nan (!n)
  | .inf n => .inf (!n)
  | .fin n m e => .fin (!n) m e

/-- Exact sum with IEEE 754 special values and zero signs (R85). -/
def Fv.add (a b : Fv) : Fv :=
  match a, b with
  | .nan _, _ => .nan false
  | _, .nan _ => .nan false
  | .inf x, .inf y => if x == y then .inf x else .nan false
  | .inf x, _ => .inf x
  | _, .inf y => .inf y
  | .fin n1 m1 e1, .fin n2 m2 e2 =>
    let e := min e1 e2
    let s := signedM n1 m1 * 2 ^ (e1 - e).toNat + signedM n2 m2 * 2 ^ (e2 - e).toNat
    if s = 0 then .fin (n1 && n2) 0 e else .fin (s < 0) s.natAbs e

/-- Exact product (R85). -/
def Fv.mul (a b : Fv) : Fv :=
  match a, b with
  | .nan _, _ => .nan false
  | _, .nan _ => .nan false
  | .inf x, .inf y => .inf (x != y)
  | .inf x, .fin y m _ => if m = 0 then .nan false else .inf (x != y)
  | .fin x m _, .inf y => if m = 0 then .nan false else .inf (x != y)
  | .fin n1 m1 e1, .fin n2 m2 e2 => .fin (n1 != n2) (m1 * m2) (e1 + e2)

/-- Scale by a power of two, exactly. -/
def Fv.scale (v : Fv) (k : Int) : Fv :=
  match v with
  | .fin n m e => .fin n m (e + k)
  | x => x

/-- A quotient to more bits than any format holds, the lost part kept as a sticky bit, so that one later rounding is
correct (R213). -/
def Fv.div (a b : Fv) : Fv :=
  match a, b with
  | .nan _, _ => .nan false
  | _, .nan _ => .nan false
  | .inf _, .inf _ => .nan false
  | .inf x, .fin y _ _ => .inf (x != y)
  | .fin x _ _, .inf y => .fin (x != y) 0 0
  | .fin n1 m1 e1, .fin n2 m2 e2 =>
    if m2 = 0 then (if m1 = 0 then .nan false else .inf (n1 != n2))
    else
      let k := 64 + Nat.log2 m2
      let q := (m1 <<< k) / m2
      let st := if (m1 <<< k) % m2 = 0 then 0 else 1
      .fin (n1 != n2) (2 * q + st) (e1 - e2 - k - 1)

/-- floor(sqrt n), one bit at a time from bit `b`. -/
def isqrtFrom (n : Nat) : Nat → Nat → Nat
  | 0, r => r
  | b + 1, r => isqrtFrom n b (if (r + 2 ^ b) * (r + 2 ^ b) ≤ n then r + 2 ^ b else r)

/-- floor(sqrt n). -/
def isqrt (n : Nat) : Nat := isqrtFrom n (Nat.log2 n / 2 + 1) 0

/-- A square root with a sticky bit (R213). -/
def Fv.sqrt (a : Fv) : Fv :=
  match a with
  | .nan _ => .nan false
  | .inf n => if n then .nan false else .inf false
  | .fin n m e =>
    if m = 0 then .fin n 0 0
    else if n then .nan false
    else
      let e' := if e % 2 = 0 then e else e - 1
      let m' := (if e % 2 = 0 then m else 2 * m) <<< 80
      let r := isqrt m'
      .fin false (2 * r + (if r * r = m' then 0 else 1)) (e' / 2 - 40 - 1)

/-- Signed comparison of finite values: a < b. -/
def finLt (n1 : Bool) (m1 : Nat) (e1 : Int) (n2 : Bool) (m2 : Nat) (e2 : Int) : Bool :=
  let e := min e1 e2
  decide (signedM n1 m1 * 2 ^ (e1 - e).toNat < signedM n2 m2 * 2 ^ (e2 - e).toNat)

/-- a < b, unordered with a NaN (R87). -/
def Fv.lt (a b : Fv) : Bool :=
  match a, b with
  | .nan _, _ => false
  | _, .nan _ => false
  | .inf x, .inf y => x && !y
  | .inf x, .fin _ _ _ => x
  | .fin _ _ _, .inf y => !y
  | .fin n1 m1 e1, .fin n2 m2 e2 => finLt n1 m1 e1 n2 m2 e2

/-- a = b numerically; false with a NaN, and -0 equals +0 (R87). -/
def Fv.eq (a b : Fv) : Bool := !a.isNan && !b.isNan && !a.lt b && !b.lt a

/-- The magnitude. -/
def Fv.abs : Fv → Fv
  | .nan _ => .nan false
  | .inf _ => .inf false
  | .fin _ m e => .fin false m e

def fadd (a b : F32) : F32 := rne ((fv a).add (fv b))
def fsub (a b : F32) : F32 := rne ((fv a).add (fv b).negate)
def fmul (a b : F32) : F32 := rne ((fv a).mul (fv b))
def fdiv (a b : F32) : F32 := rne ((fv a).div (fv b))
def ffma (a b c : F32) : F32 := rne (((fv a).mul (fv b)).add (fv c))
def fsqrt (a : F32) : F32 := rne (fv a).sqrt
/-- The opposite of an FP32 value: its sign bit toggled. -/
def fneg (a : F32) : F32 := a ^^^ 0x80000000#32
/-- 1 / a, correctly rounded. -/
def frecip (a : F32) : F32 := rne ((Fv.fin false 1 0).div (fv a))
/-- a < b in FP32 (R87). -/
def flt (a b : F32) : Bool := (fv a).lt (fv b)

/-- FP32 constants. -/
def fOne : F32 := 0x3F800000#32
def fZero : F32 := 0#32
def fNegInf : F32 := 0xFF800000#32
def fPosInf : F32 := 0x7F800000#32
def fNan : F32 := 0x7FC00000#32

/-- An unsigned integer rounded to FP32. -/
def fOfNat (n : Nat) : F32 := rne (.fin false n 0)

/-- IEEE 754 maximum: NaN wins, -0 is below +0 (R86). -/
def fmax (a b : F32) : F32 :=
  if (fv a).isNan || (fv b).isNan then fNan
  else if flt a b then b
  else if flt b a then a
  else if (fv a).neg then b else a

/-- IEEE 754 minimum (R86). -/
def fmin (a b : F32) : F32 :=
  if (fv a).isNan || (fv b).isNan then fNan
  else if flt a b then a
  else if flt b a then b
  else if (fv a).neg then a else b

/-- IEEE 754 maximumNumber: a NaN operand is ignored unless both are (R86). -/
def fmaxNum (a b : F32) : F32 :=
  if (fv a).isNan then (if (fv b).isNan then fNan else b) else if (fv b).isNan then a else fmax a b

/-- IEEE 754 minimumNumber (R86). -/
def fminNum (a b : F32) : F32 :=
  if (fv a).isNan then (if (fv b).isNan then fNan else b) else if (fv b).isNan then a else fmin a b

/-- The key of IEEE 754 totalOrder: keys compare as the encodings are ordered (R87). -/
def totalKey (a : F32) : Int := if a.getLsbD 31 then -((a.toNat % 2 ^ 31 : Nat) : Int) - 1 else (a.toNat : Int)

/-- The nearest integer to a value, ties to even; 0 for non-finite. -/
def rneInt (v : Fv) : Int :=
  match v with
  | .fin n m e => signedM n (roundAt .near m e 0)
  | _ => 0

/-- Sum in 64 lanes, then over the lanes in ascending order (08 R214). -/
def lsum (x : List F32) : F32 :=
  let lane (j : Nat) : F32 :=
    (x.zipIdx.filter fun p => p.2 % 64 == j).foldl (fun a p => fadd a p.1) fZero
  (List.range 64).foldl (fun a j => fadd a (lane j)) fZero

end Sys2Proof.Machine
end

