-- ==== Sys2Proof/Machine/Formats.lean ====
section
/-!
DEFINITION. Element formats, scales, strips, escapes and conversions (03 R60-R82, R95-R98).
-/
namespace Sys2Proof.Machine

/-- Bits per element (Table 3.1); 0 for a reserved code. -/
def fmtWidth (c : Nat) : Nat :=
  [32, 16, 16, 8, 8, 6, 6, 4, 16, 8, 8, 4, 4, 2, 1, 4, 32, 8, 1].getD c 0

/-- The floating-point format of a code (Table 3.3), M40 with its extension byte as the low byte of the code (R83). -/
def floatFmt (c : Nat) : Option Fmt :=
  if c = 16 then some m40 else [fp32, bf16, fp16, e4m3, e5m2, e3m2, e2m3, e2m1][c]?

/-- Scale modes a format allows (Tables 3.1 and 3.2). -/
def modesAllowed (c : Nat) : List Nat :=
  match c with
  | 0 | 1 | 2 | 8 => [0, 3]
  | 3 | 4 | 9 | 11 | 13 => [1, 2, 3]
  | 5 | 6 | 7 | 14 => [1, 2]
  | 10 | 12 => [4]
  | 15 | 16 => [0]
  | _ => []

/-- The storage form is one that R61 admits; WIRE8 and SIGN1 never are. -/
def Form.ok (f : Form) : Bool := (modesAllowed f.fmt.toNat).contains f.mode

/-- The formats with an escape code (R65). -/
def escapable (c : Nat) : Bool := c == 9 || c == 11 || c == 13

/-- The escape code of a format: the most negative code. -/
def escapeCode (c : Nat) : Nat := 2 ^ (fmtWidth c - 1)

/-- Elements per block (R72); 0 without block scales. -/
def Form.block (f : Form) : Nat := match f.mode with | 1 => 16 | 2 => 32 | _ => 0

/-- A two's complement code of width `w`. -/
def twos (w : Nat) (i : Int) : Nat := (i % 2 ^ w).toNat

/-- The signed value of a two's complement code. -/
def signed (w c : Nat) : Int := if 2 ^ (w - 1) ≤ c then (c : Int) - 2 ^ w else c

/-- Value of an element code before any scale (R62-R65). Affine codes are taken as plain integers. -/
def codeValue (c code : Nat) : Fv :=
  match floatFmt c with
  | some f => f.decode code
  | none =>
    match c with
    | 10 | 12 => Fv.ofInt code 0
    | 14 => .fin (code % 2 == 1) 1 0
    | 17 => Fv.ofInt (signed 8 code) 0
    | 18 => .fin (code % 2 == 1) 1 0
    | _ => Fv.ofInt (signed (fmtWidth c) code) 0

/-- Largest magnitude of a format for scaling (Tables 3.3 and 3.5), as m * 2^e. -/
def maxMag (c : Nat) : Nat × Int :=
  match floatFmt c with
  | some f => match f.decode f.maxCode with | .fin _ m e => (m, e) | _ => (1, 0)
  | none => match c with
    | 8 => (32767, 0)
    | 9 | 17 => (127, 0)
    | 11 => (7, 0)
    | 13 => (1, 0)
    | _ => (1, 0)

/-- m1 * 2^e1 ≤ m2 * 2^e2. -/
def magLe (m1 : Nat) (e1 : Int) (m2 : Nat) (e2 : Int) : Bool :=
  let e := min e1 e2
  decide (m1 * 2 ^ (e1 - e).toNat ≤ m2 * 2 ^ (e2 - e).toNat)

/-- Clamp a scale exponent (R69). -/
def clampE (e : Int) : Int := max (-127) (min 127 e)

/-- R69: ceil(log2(amax / max_t)), clamped; -127 where amax is 0. -/
def scaleExp (c : Nat) (m : Nat) (e : Int) : Int :=
  if m = 0 then -127
  else
    let t := maxMag c
    let d := flog2 m e - flog2 t.1 t.2
    clampE (if magLe m e t.1 (t.2 + d) then d else d + 1)

/-- The magnitudes of the finite elements. -/
def finiteMags (xs : List Fv) : List (Nat × Int) :=
  xs.filterMap fun x => match x with | .fin _ m e => some (m, e) | _ => none

/-- The largest of a list of magnitudes, and the list without one such element. -/
def takeMax : List (Nat × Int) → (Nat × Int) × List (Nat × Int)
  | [] => ((0, 0), [])
  | x :: xs =>
    let r := takeMax xs
    if magLe r.1.1 r.1.2 x.1 x.2 then (x, if xs.isEmpty then [] else r.1 :: r.2) else (r.1, x :: r.2)

/-- The magnitude that fixes a block's scale: amax, or a2 where range escapes are enabled (R69, R70). -/
def scaleMag (esc : Bool) (xs : List Fv) : Nat × Int :=
  let r := takeMax (finiteMags xs)
  let s := takeMax r.2
  if esc && s.1.1 != 0 then s.1 else r.1

/-- R71: nearest integer to log2 of the mean magnitude, halves up. -/
def binExp (xs : List Fv) : Int :=
  let ms := finiteMags xs
  let g := ms.foldl (fun a p => min a p.2) 0
  let s := ms.foldl (fun a p => a + p.1 * 2 ^ (p.2 - g).toNat) 0
  let n := ms.length
  if s = 0 then -127
  else
    let l := flog2 s g - (Nat.log2 n : Nat)
    let fits (e : Int) : Bool := magLe (n * n) (2 * e - 1) (s * s) (2 * g)
    clampE (if fits (l + 1) then l + 1 else if fits l then l else l - 1)

/-- What a conversion divides by (R95 step 2). -/
inductive Scaler where
  | one
  | pow2 (e : Int)
  | tensor (s : F32)
  | affine (s : F32) (z : Nat)
  deriving DecidableEq, Repr

/-- Outcome of one element (R96, R98). -/
inductive Outc where
  | none | saturated | zeroed | escaped | surplus
  deriving DecidableEq, Repr

/-- One converted element: the value it came from, its code, its outcome, and whether Table 3.10 sets the flag. -/
structure Enc where
  x : Fv
  code : Nat
  out : Outc
  flag : Bool
  deriving DecidableEq, Repr

/-- The quotient of R95 step 3; the affine product without its zero point. -/
def quotient (sc : Scaler) (x : Fv) : Fv :=
  match sc with
  | .one => x
  | .pow2 e => x.scale (-e)
  | .tensor s => x.mul (fv (frecip s))
  | .affine s _ => x.mul (fv (frecip s))

/-- Largest value and its code for an integer target, by sign. -/
def intMax (c : Nat) (neg : Bool) : Nat := if c = 8 && neg then 32768 else (maxMag c).1

/-- A result at ±max (Table 3.10). -/
def maxCode (c : Nat) (sc : Scaler) (neg : Bool) : Nat :=
  match floatFmt c with
  | some f => f.maxCode + f.signBit neg
  | none => match sc with
    | .affine _ _ => if neg then 0 else 2 ^ fmtWidth c - 1
    | _ => if c = 14 then b2n neg else twos (fmtWidth c) (signedM neg (intMax c neg))

/-- The code of a zero input or zero result (R95 step 3). -/
def zeroCode (c : Nat) (sc : Scaler) (neg : Bool) : Nat :=
  match floatFmt c with
  | some f => f.signBit neg
  | none => match sc with
    | .affine _ z => z
    | _ => if c = 14 then b2n neg else 0

/-- Beyond range (Table 3.10): an escape, ±Inf under ieee_overflow, or ±max. -/
def beyond (c : Nat) (esc ieee : Bool) (sc : Scaler) (x : Fv) (neg : Bool) : Enc :=
  if esc && escapable c then { x := x, code := escapeCode c, out := .escaped, flag := false }
  else
    match floatFmt c with
    | some f =>
      if ieee && f.hasInf then { x := x, code := f.maxCode + 1 + f.signBit neg, out := .saturated, flag := false }
      else { x := x, code := maxCode c sc neg, out := .saturated, flag := false }
    | none => { x := x, code := maxCode c sc neg, out := .saturated, flag := false }

/-- A finite non-zero quotient m * 2^e rounded into the format (R95 steps 4-7). -/
def encodeFinite (c : Nat) (esc ieee : Bool) (r : Rnd) (sc : Scaler) (x : Fv) (neg : Bool) (m : Nat) (e : Int) : Enc :=
  match floatFmt c with
  | some f =>
    let q := f.roundCode r m e
    if q > f.maxCode then beyond c esc ieee sc x neg
    else { x := x, code := q + f.signBit neg, out := if q = 0 then .zeroed else .none, flag := false }
  | none =>
    if c = 14 then { x := x, code := b2n neg, out := .none, flag := false }
    else
      let q := roundAt r m e 0
      match sc with
      | .affine _ z =>
        let v := (z : Int) + signedM neg q
        if v < 0 ∨ (2 ^ fmtWidth c : Nat) ≤ v then beyond c esc ieee sc x neg
        else { x := x, code := v.toNat, out := if q = 0 then .zeroed else .none, flag := false }
      | _ =>
        if q > intMax c neg then beyond c esc ieee sc x neg
        else { x := x, code := twos (fmtWidth c) (signedM neg q), out := if q = 0 then .zeroed else .none, flag := false }

/-- A NaN input (Table 3.10). -/
def encodeNan (c : Nat) (sc : Scaler) (x : Fv) : Enc :=
  match floatFmt c with
  | some f => { x := x, code := f.nanCode, out := .none, flag := !f.hasNan }
  | none =>
    if escapable c then { x := x, code := escapeCode c, out := .escaped, flag := false }
    else { x := x, code := zeroCode c sc false, out := .none, flag := true }

/-- An infinite input (Table 3.10). -/
def encodeInf (c : Nat) (sc : Scaler) (x : Fv) (neg : Bool) : Enc :=
  match floatFmt c with
  | some f =>
    if f.hasInf then { x := x, code := f.maxCode + 1 + f.signBit neg, out := .none, flag := false }
    else { x := x, code := f.nanCode, out := .none, flag := true }
  | none =>
    if escapable c then { x := x, code := escapeCode c, out := .escaped, flag := false }
    else { x := x, code := maxCode c sc neg, out := .saturated, flag := true }

/-- Convert one element (R95, R96). `esc` enables range escapes, `ieee` is the recipe's ieee_overflow (R97). Into CB4, for which the
manual gives no rule of encoding, a free index is written (log entry 118). -/
def encodeElem (c : Nat) (esc ieee : Bool) (r : Rnd) (sc : Scaler) (x : Fv) : Enc :=
  if c = 15 then { x := x, code := Config.cb4Index (rne x) % 16, out := .none, flag := !x.finite }
  else match x with
  | .nan _ => encodeNan c sc x
  | .inf neg => encodeInf c sc x neg
  | .fin neg m _ =>
    if m = 0 then { x := x, code := zeroCode c sc neg, out := .none, flag := false }
    else if c = 14 then { x := x, code := b2n neg, out := .none, flag := false }
    else
      match quotient sc x with
      | .fin n qm qe =>
        if qm = 0 then { x := x, code := zeroCode c sc n, out := .zeroed, flag := false }
        else encodeFinite c esc ieee r sc x n qm qe
      | .inf n => beyond c esc ieee sc x n
      | .nan _ => beyond c esc ieee sc x neg

/-- One converted row: for each block its scale byte and the exponent that its elements are binned against (15 entries of
05 R134; no block without block scales), and the elements. -/
structure EncRow where
  scales : List Nat
  exps : List Int
  elems : List Enc
  deriving DecidableEq, Repr

/-- The element of an outlier channel in the narrow tensor: the code of +0 (05 R145). -/
def outlierEnc (c : Nat) (sc : Scaler) : Enc := { x := .fin false 0 0, code := zeroCode c sc false, out := .none, flag := false }

/-- Convert one block (R68-R71); `rnd` gives the rounding of the element at its place in the block, and `none` stands for an
element of an outlier channel, which takes no part in the scale (05 R145). -/
def encodeBlock (f : Form) (ieee : Bool) (rnd : Nat → Rnd) (xs : List (Option Fv)) : Nat × Int × List Enc :=
  let c := f.fmt.toNat
  let ys := xs.filterMap fun x => x
  let e := if c = 14 then binExp ys else let m := scaleMag (f.esc && escapable c) ys; scaleExp c m.1 m.2
  let small := match floatFmt c with | some g => !g.hasNan | none => false
  if small && ys.any (fun x => !x.finite) then
    (255, e, xs.map fun x => match x with
      | some x => { x := x, code := 0, out := .none, flag := true }
      | none => outlierEnc c (.pow2 0))
  else
    ((e + 127).toNat, e, xs.zipIdx.map fun p => match p.1 with
      | some x => encodeElem c (f.esc && escapable c) ieee (rnd p.2) (.pow2 e) x
      | none => outlierEnc c (.pow2 0))

/-- The scaler of an unblocked form; `s` and `z` are the tensor descriptor's (R471). -/
def Form.scaler (f : Form) (s : F32) (z : Nat) : Scaler :=
  match f.mode with
  | 3 => .tensor s
  | 4 => .affine s z
  | _ => .one

/-- Convert one row of K elements (R72, R73, R95). -/
def encodeRow (f : Form) (ieee : Bool) (s : F32) (z : Nat) (rnd : Nat → Rnd) (xs : List (Option Fv)) : EncRow :=
  if f.block = 0 then
    { scales := [], exps := []
      elems := xs.zipIdx.map fun p => match p.1 with
        | some x => encodeElem f.fmt.toNat (f.esc && escapable f.fmt.toNat) ieee (rnd p.2) (f.scaler s z) x
        | none => outlierEnc f.fmt.toNat (f.scaler s z) }
  else
    let bs := (chunks f.block xs).zipIdx.map fun p => encodeBlock f ieee (fun i => rnd (p.2 * f.block + i)) p.1
    { scales := bs.map (·.1), exps := bs.map (·.2.1), elems := bs.flatMap (·.2.2) }

/-- A raisin: offset in its group and value (R79). -/
structure Raisin where
  offset : Nat
  value : F32
  deriving DecidableEq, Repr

/-- Whether the raisin's value is NaN or infinite. -/
def Raisin.nonfinite (r : Raisin) : Bool := !(fv r.value).finite

/-- The 64-bit raisin word (Table 3.7). -/
def Raisin.word (r : Raisin) : W64 :=
  at' 64 63 1 ||| at' 64 62 (b2n r.nonfinite) ||| at' 64 32 (r.offset % 2 ^ 16) ||| r.value.setWidth 64

/-- R82's order: non-finite first, then larger magnitude, then lower offset. -/
def Raisin.before (a b : Raisin) : Bool :=
  if a.nonfinite != b.nonfinite then a.nonfinite
  else if a.nonfinite then decide (a.offset ≤ b.offset)
  else if flt (a.value &&& 0x7FFFFFFF#32) (b.value &&& 0x7FFFFFFF#32) then false
  else if flt (b.value &&& 0x7FFFFFFF#32) (a.value &&& 0x7FFFFFFF#32) then true
  else decide (a.offset ≤ b.offset)

/-- Bytes of a raisin slot (R78). -/
def slotBytes (cap : Nat) : Nat := 64 * ceilDiv (8 * (cap + 1)) 64

/-- A slot's bytes (R78, R79). -/
def slotOf (cap surplus : Nat) (rs : List Raisin) : List Byte :=
  let hdr : W64 := at' 64 16 (min surplus 65535) ||| at' 64 0 rs.length
  let body := wordsBytes (hdr :: (sortBy (fun a b => decide (a.offset ≤ b.offset)) rs).map (·.word))
  body ++ List.replicate (slotBytes cap - body.length) 0

/-- The raisins a slot holds, and its SURPLUS. -/
def slotRead (cap : Nat) (bs : List Byte) : List Raisin × Nat :=
  let ws := (chunks 8 bs).map leNat
  let h := ws.headD 0
  (((ws.drop 1).take (min cap (h % 256))).filterMap fun w =>
    if w / 2 ^ 63 % 2 = 1 then some { offset := w / 2 ^ 32 % 2 ^ 16, value := BitVec.ofNat 32 w } else none,
   h / 2 ^ 16 % 2 ^ 16)

/-- The value a raisin keeps: the element before scaling, rounded to FP32 (R81), a NaN as the canonical one (R64). -/
def raisinValue (x : Fv) : F32 := rne x

/-- Pack codes of width `w` upwards from the least significant bits (R66) into `n` bytes. -/
def packCodes (w n : Nat) (codes : List Nat) : List Byte :=
  leBytes n (codes.foldr (fun c a => c % 2 ^ w + 2 ^ w * a) 0)

/-- Unpack `n` codes of width `w`. -/
def unpackCodes (w : Nat) : Nat → Nat → List Nat
  | 0, _ => []
  | n + 1, x => x % 2 ^ w :: unpackCodes w n (x / 2 ^ w)

/-- Bytes of a block with its scale byte (Table 3.6). -/
def Form.blockBytes (f : Form) : Nat := 1 + ceilDiv (f.block * fmtWidth f.fmt.toNat) 8

/-- Bytes of a strip of K elements, padded to 64 (R72, R75). -/
def Form.stripBytes (f : Form) (k : Nat) : Nat :=
  roundUp 64 (if f.block = 0 then ceilDiv (k * fmtWidth f.fmt.toNat) 8 else ceilDiv k f.block * f.blockBytes)

/-- The bytes of a strip (R72-R75). -/
def packStrip (f : Form) (scales codes : List Nat) : List Byte :=
  let w := fmtWidth f.fmt.toNat
  padTo 64 <|
    if f.block = 0 then packCodes w (ceilDiv (codes.length * w) 8) codes
    else ((chunks f.block codes).zip scales).flatMap fun p =>
      BitVec.ofNat 8 p.2 :: packCodes w (f.blockBytes - 1) p.1

/-- The codes of a strip of K elements with each element's scale byte (0x7F where there is none). -/
def unpackStrip (f : Form) (k : Nat) (bs : List Byte) : List (Nat × Nat) :=
  let w := fmtWidth f.fmt.toNat
  if f.block = 0 then (unpackCodes w k (leNat (bs.take (ceilDiv (k * w) 8)))).map fun c => (c, 127)
  else
    (((chunks f.blockBytes (bs.take (ceilDiv k f.block * f.blockBytes))).flatMap fun b =>
      match b with
      | [] => []
      | s :: t => (unpackCodes w f.block (leNat t)).map fun c => (c, s.toNat))).take k

/-- The code asks for a raisin (R65, R80). -/
def isEscape (c code : Nat) : Bool := escapable c && code == escapeCode c

/-- Value of a stored element (R62-R68, R76, R80); `s`, `z` are the tensor descriptor's, `raisin` its raisin if any and
`cb` its codebook entry. -/
def decodeElem (f : Form) (code scale : Nat) (s : F32) (z : Nat) (raisin : Option F32) (cb : F32) : Fv :=
  let c := f.fmt.toNat
  if f.block ≠ 0 && scale == 255 then .nan false
  else if isEscape c code then (match raisin with | some v => fv v | none => .nan false)
  else
    match f.mode with
    | 1 | 2 => (codeValue c code).scale ((scale : Int) - 127)
    | 3 => (fv s).mul (codeValue c code)
    | 4 => (fv s).mul (Fv.ofInt ((code : Int) - z) 0)
    | _ => if c = 15 then fv cb else codeValue c code

/-- The value in FP32, an out-of-range one at ±max or, with `ieee`, ±Inf (R68, R95, R96). -/
def toF32 (ieee : Bool) (v : Fv) : F32 := BitVec.ofNat 32 (encodeElem 0 false ieee .near .one v).code

/-- An M40 value from its two planes (R83). -/
def m40Value (hi : F32) (lo : Byte) : Fv :=
  match fp32.decode hi.toNat with
  | .fin n m e => .fin n (m * 256 + lo.toNat) (e - 8)
  | v => v

/-- Round a value to M40 (to nearest even, once); overflow goes to infinity. The extension of a non-finite value is 0. -/
def toM40 (v : Fv) : F32 × Byte :=
  let c := m40.narrow v
  (BitVec.ofNat 32 (c / 256), match v with | .nan _ => 0 | _ => BitVec.ofNat 8 c)

end Sys2Proof.Machine
end

