-- ==== Sys2Proof/Machine/Recipes.lean ====
section
/-!
DEFINITION. Recipes and rungs (05 R125-R130, Table 5.2), and the storage form each tensor takes from them (10 R290).
-/
namespace Sys2Proof.Machine

/-- A recipe is 64 bytes: word `i` and a field of it (Table 5.2). -/
def Recipe.word (r : BitVec 512) (i : Nat) : W64 := BitVec.ofNat 64 (r.toNat >>> (64 * i))
def Recipe.fld (r : BitVec 512) (i hi lo : Nat) : Nat := bits (Recipe.word r i) hi lo

/-- Format of a role at rungs 0-3: 0 activations, 1 weights, 2 gradients. -/
def Recipe.fmt (r : BitVec 512) (rung role : Nat) : Nat :=
  let sh := (if rung % 2 = 1 then 32 else 0) + (match role with | 1 => 0 | 0 => 8 | _ => 16)
  Recipe.fld r (rung / 2) (sh + 7) sh

def Recipe.topOut (r : BitVec 512) : Nat := Recipe.fld r 2 63 56
def Recipe.lo (r : BitVec 512) : Nat := Recipe.fld r 2 55 53
def Recipe.hi (r : BitVec 512) : Nat := Recipe.fld r 2 52 50
def Recipe.start (r : BitVec 512) : Nat := Recipe.fld r 2 49 47
def Recipe.exact (r : BitVec 512) : Bool := Recipe.fld r 2 46 46 == 1
def Recipe.sensitive (r : BitVec 512) : Bool := Recipe.fld r 2 45 45 == 1
def Recipe.ieee (r : BitVec 512) : Bool := Recipe.fld r 2 44 44 == 1
def Recipe.esc (r : BitVec 512) : Bool := Recipe.fld r 2 43 43 == 1
def Recipe.block32 (r : BitVec 512) : Bool := Recipe.fld r 2 42 42 == 1
def Recipe.tensorMask (r : BitVec 512) (role : Nat) : Bool :=
  match role with | 1 => Recipe.fld r 2 41 41 == 1 | 0 => Recipe.fld r 2 40 40 == 1 | _ => Recipe.fld r 2 39 39 == 1
def Recipe.outlierCh (r : BitVec 512) : Nat := Recipe.fld r 2 38 32
def Recipe.raisinCap (r : BitVec 512) : Nat := Recipe.fld r 2 31 24
def Recipe.precBits (r : BitVec 512) : Nat := Recipe.fld r 2 23 16
def Recipe.cleanSteps (r : BitVec 512) : Nat := Recipe.fld r 2 15 8
def Recipe.shadowK (r : BitVec 512) : Nat := Recipe.fld r 2 7 0
def Recipe.satThresh (r : BitVec 512) : Nat := Recipe.fld r 3 63 48
def Recipe.zeroThresh (r : BitVec 512) : Nat := Recipe.fld r 3 47 32
def Recipe.shadowThresh (r : BitVec 512) : Nat := Recipe.fld r 3 31 16
def Recipe.shadowTol (r : BitVec 512) : Nat := Recipe.fld r 3 15 0
def Recipe.alarmSat (r : BitVec 512) : Nat := Recipe.fld r 4 63 48
def Recipe.alarmZero (r : BitVec 512) : Nat := Recipe.fld r 4 47 32
def Recipe.alarmRepeat (r : BitVec 512) : Nat := Recipe.fld r 4 31 16
def Recipe.alarmNonfinite (r : BitVec 512) : Nat := Recipe.fld r 4 15 0
def Recipe.margin (r : BitVec 512) : Nat := Recipe.fld r 5 15 8
def Recipe.amaxLen (r : BitVec 512) : Nat := Recipe.fld r 5 7 0
def Recipe.valid (r : BitVec 512) : Bool := Recipe.fld r 7 63 63 == 1

/-- Class of an operand format as a rung number (Table 4.1); 4 for a format that is not on the array. -/
def fmtClass (c : Nat) : Nat :=
  match c with
  | 13 | 14 => 0
  | 11 | 12 | 7 | 5 | 6 | 3 | 4 => 1
  | 9 | 10 | 1 => 2
  | 2 | 8 => 3
  | _ => 4

/-- Floating-point formats, and the integer and binary ones of the array. -/
def isFloatFmt (c : Nat) : Bool := decide (c < 8)
def isAffineFmt (c : Nat) : Bool := c == 10 || c == 12

/-- The recipe in force under an ID. -/
def recipeAt (s : State) (id : Nat) : BitVec 512 := SMap.get s.prc.recipes id 0

/-- Steering state nothing has changed. -/
def resetSteer : Steer := { lastChange := 0, clean := 0, rung := 0, action := 0 }
def steerOf (s : State) (id : Nat) : Steer := SMap.get s.prc.steer id resetSteer

/-- Layer ID that means none (R330). -/
def noLayer : Nat := 0xFFFF

/-- Recipe ID of a layer (10 Table 10.3); a layer of no image, and 0xFFFF, use the default recipe. -/
def layerRecipeId (s : State) (layer : Nat) : Nat :=
  match (if layer = noLayer then none else layerEnt s layer) with
  | some e => e.recipe.getD s.prc.defaultRecipe.toNat
  | none => s.prc.defaultRecipe.toNat

def layerRecipe (s : State) (layer : Nat) : BitVec 512 := recipeAt s (layerRecipeId s layer)

/-- The layer is exact class (R126): its recipe says so, or it is the first or last of its graph. -/
def isExact (s : State) (layer : Nat) : Bool :=
  Recipe.exact (layerRecipe s layer) || (match layerPl s layer with | some p => p.exact | none => false)

/-- Rung in force for a layer's instances (R125, R126). -/
def layerRung (s : State) (layer : Nat) : Nat :=
  if isExact s layer then 4 else (steerOf s (layerRecipeId s layer)).rung.toNat

/-- Rung that governs conversions of working weights made for the next step (R138): the decision, once there is one. -/
def weightRung (s : State) (layer : Nat) : Nat :=
  if isExact s layer then 4
  else (SMap.get s.prc.decided (layerRecipeId s layer) (steerOf s (layerRecipeId s layer))).rung.toNat

/-- Storage form that a recipe gives a role at a rung (R125, R128). -/
def roleForm (rc : BitVec 512) (rung role : Nat) : Form :=
  if 4 ≤ rung then
    { fmt := if role = 2 || role = 1 then 0 else BitVec.ofNat 8 (Recipe.topOut rc), mode := 0, b32 := false, esc := false, cap := 0 }
  else
    let c := Recipe.fmt rc rung role
    let allow := modesAllowed c
    let mode :=
      if isAffineFmt c then 4
      else if Recipe.tensorMask rc role && allow.contains 3 then 3
      else if allow.contains 0 then 0
      else if Recipe.block32 rc then 2 else 1
    { fmt := BitVec.ofNat 8 c, mode := mode, b32 := Recipe.block32 rc, esc := Recipe.esc rc, cap := Recipe.raisinCap rc }

/-- The layers that name a tensor as input, weight or output. -/
def allLayers (s : State) : List LayerEnt := (imagesOf s).flatMap (·.layers)

/-- The layer whose recipe governs a tensor (R290): a weight's own, the consumer's of an activation, else the producer's;
with its role. A tensor of the gradient role takes its layer's gradient form. -/
def governor (s : State) (t : Nat) : Option (LayerEnt × Nat) :=
  let ls := allLayers s
  let grad := match tensorEnt s t with | some e => e.role == 2 | none => false
  match ls.find? fun l => l.weight == t with
  | some l => some (l, 1)
  | none =>
    match ls.find? fun l => l.input == t with
    | some l => some (l, if grad then 2 else 0)
    | none => (ls.find? fun l => l.output == t).map fun l => (l, if grad then 2 else 0)

/-- The form of a tensor by its entry; an unknown tensor is FP32. -/
def entryForm (s : State) (t : Nat) : Form :=
  match tensorEnt s t with
  | some e => e.form
  | none => { fmt := 0, mode := 0, b32 := false, esc := false, cap := 0 }

/-- The graph of a layer or of a stage runs in Ouvut mode (08 R246). -/
def ouvutLayer (s : State) (layer : Nat) : Bool := (imagesOf s).any fun g => g.ouvut && g.layers.any fun l => l.layer == layer
def ouvutStage (s : State) (stage : Nat) : Bool := (imagesOf s).any fun g => g.ouvut && g.stages.any fun e => e.stage == stage

/-- The outlier channels of a layer (05 R145); Ouvut mode has none (08 Table 8.12). -/
def layerOutliers (s : State) (l : LayerEnt) : List Nat :=
  if ouvutLayer s l.layer then [] else l.channels.take (Recipe.outlierCh (layerRecipe s l.layer))

/-- The outlier channels that the producer of an activation holds out: those of the layer that consumes it (05 R145). -/
def tensorOutliers (s : State) (t : Nat) : List Nat :=
  match (allLayers s).find? fun l => l.input == t with
  | some l => layerOutliers s l
  | none => []

/-- The storage form of an Ouvut graph (08 Table 8.12). -/
def ouvutForm : Form := { fmt := 1, mode := 3, b32 := false, esc := false, cap := 0 }

/-- Storage form of a tensor at the rung in force (R290). -/
def tensorForm (s : State) (t : Nat) : Form :=
  match governor s t with
  | some (l, role) => if ouvutLayer s l.layer then ouvutForm else roleForm (layerRecipe s l.layer) (layerRung s l.layer) role
  | none => entryForm s t

/-- The recipe that governs the conversions of a tensor: its layer's, or a table's own (10 Table 10.4, 05 R144). -/
def tensorRecipe (s : State) (t : Nat) : BitVec 512 :=
  match governor s t with
  | some g => layerRecipe s g.1.layer
  | none => recipeAt s ((match tensorEnt s t with | some e => e.recipe | none => none).getD s.prc.defaultRecipe.toNat)

/-- The graph of a tensor runs in Ouvut mode (08 R246). -/
def ouvutTensor (s : State) (t : Nat) : Bool := (imagesOf s).any fun g => g.ouvut && g.tensors.any fun e => e.tensor == t

/-- An element of the tensor out of FP32 range reads as an infinity (03 R68, R97; Ouvut, 08 Table 8.12). -/
def tensorIeee (s : State) (t : Nat) : Bool := ouvutTensor s t || Recipe.ieee (tensorRecipe s t)

end Sys2Proof.Machine
end

