-- ==== Sys2Proof/Machine/Special.lean ====
section
/-!
DEFINITION. The special functions that return the correctly rounded FP32 result (06 R168 and Table 6.6, 08 R213), computed
in fixed point with 512 fraction bits and rounded once (log entry 12), and the random-bit functions: the sprinkle word
(03 R92) and the stream generators (07 R197, R198).
-/
namespace Sys2Proof.Machine

/-- Fraction bits of the working precision. -/
def prec : Nat := 512

/-- A finite value in fixed point. -/
def toFixed (neg : Bool) (m : Nat) (e : Int) : Int :=
  let k := e + prec
  signedM neg (if 0 ≤ k then m <<< k.toNat else m >>> (-k).toNat)

/-- Sum of t * r^k / k! terms from term `t`, index `k`. -/
def expSeries (r : Int) : Nat → Nat → Int → Int → Int
  | 0, _, _, acc => acc
  | fuel + 1, k, t, acc =>
    let t' := t * r / 2 ^ prec / ((k : Int) + 1)
    expSeries r fuel (k + 1) t' (acc + t')

/-- exp of a small fixed-point number. -/
def expFixed (r : Int) : Int := expSeries r 140 0 (2 ^ prec) (2 ^ prec)

/-- Terms of atanh z = z + z^3/3 + ...; `t` is the power, `z2` the square of z in fixed point. -/
def atanhSeries (z2 : Int) : Nat → Nat → Int → Int → Int
  | 0, _, _, acc => acc
  | fuel + 1, k, t, acc =>
    let t' := t * z2 / 2 ^ prec
    atanhSeries z2 fuel (k + 1) t' (acc + t' / (2 * (k : Int) + 3))

/-- 2 * atanh(num / den) in fixed point, |num / den| at most 1/3. -/
def atanh2 (num den : Int) : Int :=
  let z := num * 2 ^ prec / den
  2 * atanhSeries (z * z / 2 ^ prec) 180 0 z z

/-- ln 2 in fixed point. -/
def ln2Fixed : Int := atanh2 1 3

/-- exp(x) for a finite x of moderate size, as an exact-looking value with `prec` bits. -/
def expFin (x : Int) : Fv :=
  let k := (2 * x + ln2Fixed) / (2 * ln2Fixed)
  Fv.ofInt (expFixed (x - k * ln2Fixed)) (k - prec)

/-- exp (Table 6.6). -/
def fexp (a : F32) : F32 :=
  match fv a with
  | .nan _ => fNan
  | .inf n => if n then fZero else fPosInf
  | .fin n m e =>
    if m = 0 then fOne
    else if 7 ≤ flog2 m e then (if n then fZero else fPosInf)
    else rne (expFin (toFixed n m e))

/-- log (Table 6.6). -/
def flog (a : F32) : F32 :=
  match fv a with
  | .nan _ => fNan
  | .inf n => if n then fNan else fPosInf
  | .fin n m e =>
    if m = 0 then fNegInf
    else if n then fNan
    else
      let l := 2 ^ Nat.log2 m
      rne (Fv.ofInt (flog2 m e * ln2Fixed + atanh2 ((m : Int) - (l : Nat)) ((m : Int) + (l : Nat))) (-prec))

/-- tanh (Table 6.6). -/
def ftanh (a : F32) : F32 :=
  match fv a with
  | .nan _ => fNan
  | .inf n => if n then fneg fOne else fOne
  | .fin n m e =>
    if m = 0 then a
    else if 4 ≤ flog2 m e then (if n then fneg fOne else fOne)
    else
      let x := toFixed false (2 * m) e
      let k := (2 * x + ln2Fixed) / (2 * ln2Fixed)
      let u := expFixed (x - k * ln2Fixed) * 2 ^ k.toNat
      let q := (u - 2 ^ prec) * 2 ^ prec / (u + 2 ^ prec)
      rne (.fin n q.toNat (-prec))

/-- Reciprocal square root (Table 6.6). -/
def frsqrt (a : F32) : F32 :=
  match fv a with
  | .nan _ => fNan
  | .inf n => if n then fNan else fZero
  | .fin n m e =>
    if m = 0 then (if n then fNegInf else fPosInf)
    else if n then fNan
    else
      let m' := if e % 2 = 0 then m else 2 * m
      let e' := if e % 2 = 0 then e else e - 1
      let k := 120 + Nat.log2 m'
      let r := isqrt (2 ^ (2 * k) / m')
      rne (.fin false (2 * r + (if r * r * m' = 2 ^ (2 * k) then 0 else 1)) (-k - e' / 2 - 1))

/-- Terms of cos x = 1 - x^2/2 + ...; `t` is the last term, index 2k. -/
def cosSeries (x2 : Int) : Nat → Nat → Int → Int → Int
  | 0, _, _, acc => acc
  | fuel + 1, k, t, acc =>
    let t' := -(t * x2 / 2 ^ prec / (((2 * k + 1) * (2 * k + 2) : Nat) : Int))
    cosSeries x2 fuel (k + 1) t' (acc + t')

/-- cos for arguments of magnitude below 8, all that R234 forms. -/
def fcos (a : F32) : F32 :=
  match fv a with
  | .fin n m e =>
    let x := toFixed n m e
    rne (Fv.ofInt (cosSeries (x * x / 2 ^ prec) 140 0 (2 ^ prec) (2 ^ prec)) (-prec))
  | _ => fNan

/-- The multipliers of the sprinkle function (R92). -/
def sprinkleMult : List W64 :=
  [0x9C4B2E6DA17358F5#64, 0xD83A61F70B95C2E9#64, 0xB5E71C398D64A2F1#64, 0xE21D97A53F0C6B87#64]

/-- One round: the two halves and a multiplier. -/
def sprinkleRound (xy : W64 × W64) (k : W64) : W64 × W64 :=
  let x := xy.1 + xy.2
  let x := x ^^^ (x >>> 31)
  let x := x * k
  (x, xy.2.rotateLeft 17 ^^^ x)

/-- The sprinkle word (R92): seed, tensor, element, step, micro-batch, hop, purpose. -/
def sprinkle (seed : W64) (tensor element step micro hop purpose : Nat) : W64 :=
  let w0 := BitVec.ofNat 64 ((tensor % 2 ^ 24) * 2 ^ 40 + element % 2 ^ 40)
  let w1 := BitVec.ofNat 64 ((step % 2 ^ 32) * 2 ^ 32 + (micro % 2 ^ 16) * 2 ^ 16 + (hop % 256) * 256 + purpose % 256)
  let r := sprinkleMult.foldl sprinkleRound (w0 ^^^ seed, w1 ^^^ seed.rotateLeft 29 ^^^ 0x6A5D39E1C2B74F03#64)
  r.1 ^^^ (r.2 >>> 7)

/-- Tap masks of the stream generators (Table 7.7). -/
def lfsrTaps : List (BitVec 16) := [0xB400#16, 0x9C00#16, 0xFC00#16, 0xCA00#16, 0x8805#16, 0xD008#16, 0x8016#16, 0x801C#16]

/-- Parity of sixteen bits. -/
def parity16 (x : BitVec 16) : Bool := (List.range 16).foldl (fun p i => p != x.getLsbD i) false

/-- One step of generator `g` (R197). -/
def lfsrStep (g : Nat) (s : BitVec 16) : BitVec 16 :=
  (s <<< 1) ||| (if parity16 (s &&& lfsrTaps.getD g 0) then 1 else 0)

/-- The states of generator `g` that decide the first `n` stream bits (R197): each after sixteen more steps. -/
def streamStates (g : Nat) : Nat → BitVec 16 → List Nat
  | 0, _ => []
  | n + 1, s =>
    let s' := iterate (lfsrStep g) 16 s
    s'.toNat :: streamStates g n s'

/-- The seed of generator `g` for one entry (R198). -/
def genSeed (seed : W64) (out bag pos step micro g : Nat) : BitVec 16 :=
  let w := sprinkle seed out (bag * 2 ^ 16 + pos) step micro g 1
  let s := w.setWidth 16
  if s = 0 then (w >>> 16).setWidth 16 ||| 1 else s

end Sys2Proof.Machine
end

