-- ==== Sys2Proof/Machine/Tensors.lean ====
section
/-!
DEFINITION. Tensors and tick-buffer halves as commands see them: where an operand lies (11 R329, 02 R41), reading its elements
(03 R72-R80, 06 R167), converting and storing rows (R81, R82, R95-R98, 05 R145), and the LAYER_STATS events of a conversion
(05 R131-R134).
-/
namespace Sys2Proof.Machine

/-- Where an operand lies: its tensor, the form it carries, base and strip stride, rows of a page where it is an embedding table, whose
rows lie in pages (else 0), raisin region, outlier side array, extension plane,
codebook array, first scale entry and number of entries, elements per strip, rows per slice, and the tick-buffer half or tensor it is
recorded under. -/
structure Loc where
  tensor : Nat
  form : Form
  dpa : Nat
  stride : Nat
  rpp : Nat
  raisin : Nat
  outlier : Nat
  ext : Nat
  book : Nat
  scale : Nat
  entries : Nat
  k : Nat
  sliceRows : Nat
  key : Nat
  deriving DecidableEq, Repr

/-- Key under which the form of a tensor that is no tick buffer is kept. -/
def tensorKey (t : Nat) : Nat := 2 ^ 40 + t

/-- The half or tensor record of a key. -/
def halfAt (s : State) (key : Nat) : Half := SMap.get s.tiles.halves key noHalf

def setHalf (key : Nat) (h : Half) (s : State) : State :=
  { s with tiles := { s.tiles with halves := SMap.set s.tiles.halves key h noHalf } }

/-- Device address of a strip: of an embedding table, in its row page (10 R303, 07 R180). -/
def Loc.row (s : State) (l : Loc) (r : Nat) : Nat :=
  if l.rpp = 0 then l.dpa + r * l.stride
  else match SMap.find s.ple.dir (dirKey l.tensor (r / l.rpp)) with | some e => e.page + r % l.rpp * l.stride | none => nearSize

/-- Device pieces of `n` bytes of strips from one on. -/
def Loc.pieces (s : State) (l : Loc) (first n : Nat) : List (Nat × Nat) :=
  if l.rpp = 0 || l.stride == 0 then [(l.row s first, n)]
  else (List.range (ceilDiv n l.stride)).map fun i => (l.row s (first + i), min l.stride (n - i * l.stride))

/-- The bytes of a part of a strip: of a table, through the committed log entries of its row (07 R193). -/
def Loc.bytes (s : State) (l : Loc) (r off n : Nat) : List Byte :=
  if l.rpp = 0 then devBytes s (l.row s r + off) n else devView s (l.row s r + off) n

/-- A part of a strip reads as poisoned. -/
def Loc.bad (s : State) (l : Loc) (r off n : Nat) : Bool :=
  if l.rpp = 0 then devPoison s (l.row s r + off) n else viewPoison s (l.row s r + off) n

/-- Elements per strip of a tensor. -/
def tensorK (s : State) (t : Nat) : Nat := match tensorEnt s t with | some e => e.k | none => 0

/-- Where the tensor `t` lies for replica `r` of a locked set, given its place or that of a tick-buffer half (02 R51). The form is the one
it carries, or `write`'s for a tensor about to be written. The strip stride is the padded strip length of that form (03 R72): the engine
of the model names no larger multiple of 64 (log entry 56). -/
def locAt (s : State) (t key r rep : Nat) (h : HalfPl) (write : Option Form) : Loc :=
  let form := write.getD ((halfAt s key).form.getD (tensorForm s t))
  let k := tensorK s t
  let p := tensorPl s t
  { tensor := t, form := form, dpa := h.dpa + r * rep, stride := form.stripBytes k, rpp := 0, raisin := h.raisin + r * rep,
    outlier := h.outlier + r * rep, ext := h.ext + r * rep, book := (match p with | some x => x.book | none => 0),
    scale := (match p with | some x => x.scale | none => 0), entries := (match p with | some x => x.entries | none => 0), k := k,
    sliceRows := (match tensorEnt s t with | some e => e.sliceRows | none => 0), key := key }

/-- Where an operand word points, in a beat, for replica `r`. -/
def locate (s : State) (o : Operand) (beat r : Nat) (write : Option Form) : Option Loc :=
  if o.edge then
    match edgeEnt s o.id, edgePl s o.id with
    | some e, some p =>
      let h := halfOf o.out beat
      some (locAt s e.tensor (halfKey o.id h) r p.rep (if h = 0 then p.half0 else p.half1) write)
    | _, _ => none
  else
    match tensorPl s o.id with
    | some p =>
      let l := locAt s o.id (tensorKey o.id) r p.rep { dpa := p.dpa, raisin := p.raisin, outlier := p.outlier, ext := p.ext } write
      some (match tablePl s o.id with | some t => { l with rpp := max 1 t.rowsPerPage, raisin := t.raisin } | none => l)
    | none => none

/-- Rows of the tensor an operand names. -/
def operandRows (s : State) (o : Operand) : Nat :=
  let t := if o.edge then (match edgeEnt s o.id with | some e => e.tensor | none => 0) else o.id
  match tensorEnt s t with | some e => e.rows | none => 0

/-- The tensor an operand names. -/
def operandTensor (s : State) (o : Operand) : Nat := if o.edge then (match edgeEnt s o.id with | some e => e.tensor | none => 0) else o.id

/-- Scale and zero point of a row from the scale region (R76, R471). -/
def scaleEntry (s : State) (a : Nat) : F32 × Nat :=
  let w := leNat (devBytes s a 8)
  (BitVec.ofNat 32 (w / 2 ^ 32), w / 2 ^ 24 % 256)

/-- Slice of a row (R76). DESIGN CHOICE: R76 names no slice where SLICE_ROWS is 0, or for rows of floor(m / slice_rows) of 64 or more; the
model takes slice 0 and slice 63 (log entry 141). -/
def sliceOf (sliceRows r : Nat) : Nat := if sliceRows = 0 then 0 else min 63 (r / sliceRows)

/-- The scale entry that a row of a tensor uses: its slice's, the tensor's one, or none (R76, R471). -/
def Loc.entry (l : Loc) (r : Nat) : Option Nat :=
  let i := if l.form.mode = 4 then sliceOf l.sliceRows r else 0
  if (l.form.mode = 3 ∨ l.form.mode = 4) ∧ i < l.entries then some (l.scale + 8 * i) else none

/-- Scale and zero point of a row; 1.0 and 0 where the tensor has no entry. -/
def rowScale (s : State) (l : Loc) (r : Nat) : F32 × Nat := match l.entry r with | some a => scaleEntry s a | none => (fOne, 0)

/-- A source of rows: strips, extension bytes, raisin slots, outlier values, scales and codebooks, each with whether it reads poisoned;
whether decoding out of range gives an infinity (R68, R97), and whether BF16 subnormals read as zero (08 Table 8.12). -/
structure RowSource where
  form : Form
  k : Nat
  ieee : Bool
  flush : Bool
  strip : Nat → List Byte × Bool
  ext : Nat → List Byte × Bool
  slot : Nat → List Byte × Bool
  outs : List Nat
  outVal : Nat → Nat → F32 × Bool
  sz : Nat → F32 × Nat
  szBad : Nat → Bool
  cb : Nat → Nat → F32
  cbBad : Nat → Bool

/-- Entry `j` of the codebook of output row `r` in a codebook array's bytes (03 R67). -/
def codebookEntry (bytes : Nat → List Byte) (r j : Nat) : F32 := rne (fp16.decode (leNat (((bytes (r / 128)).drop (2 * j)).take 2)))

/-- Rows of a tensor in device memory. -/
def memSource (s : State) (l : Loc) : RowSource :=
  let outs := tensorOutliers s l.tensor
  let n := l.form.stripBytes l.k
  let poisoned := (halfAt s l.key).poisoned
  let e (r : Nat) : Nat := l.ext + r * roundUp 64 l.k
  { form := l.form, k := l.k, ieee := tensorIeee s l.tensor, flush := ouvutTensor s l.tensor, outs := outs
    strip := fun r => (l.bytes s r 0 n, poisoned || l.bad s r 0 n)
    ext := fun r => (devBytes s (e r) l.k, devPoison s (e r) l.k)
    slot := fun g => let b := slotBytes l.form.cap; (devBytes s (l.raisin + g * b) b, devPoison s (l.raisin + g * b) b)
    outVal := fun r j => let a := l.outlier + 4 * (r * outs.length + j); (devF32 s a, devPoison s a 4)
    sz := rowScale s l, szBad := fun r => match l.entry r with | some a => devPoison s a 8 | none => false
    cb := codebookEntry fun c => devBytes s (l.book + 32 * c) 32, cbBad := fun r => devPoison s (l.book + 32 * (r / 128)) 32 }

/-- A stored element as the arithmetic takes it: the code that a cell's register takes (0 when held out), its value without scales (0 when
held out), its block's exponent, whether its block is written as NaN, whether the narrow paths hold it out (escaped, or of an outlier
channel), whether it is an escape without a raisin (R80), its exact value, and its value in FP32; a NaN keeps sign and payload. -/
structure Elem where
  code : Nat
  raw : Fv
  exp : Int
  bad : Bool
  held : Bool
  miss : Bool
  full : Fv
  val : F32
  deriving DecidableEq, Repr

/-- The raisin of a flat index, if its slot holds one (R80). -/
def raisinOf (src : RowSource) (flat : Nat) : Option F32 :=
  ((slotRead src.form.cap (src.slot (flat / 4096)).1).1.find? fun x => x.offset == flat % 4096).map (·.value)

/-- An element held out of the narrow paths: an escape, or of an outlier channel. -/
def heldElem (exp : Int) (v : Option F32) : Elem :=
  { code := 0, raw := .fin false 0 0, exp := exp, bad := false, held := true, miss := v.isNone, full := fv (v.getD fNan), val := v.getD fNan }

/-- The FP32 word of a decoded value. A NaN that is stored as one keeps its sign and payload (R82, R87), one that its block or a scale
makes is canonical (R64, R85). A product with a block scale follows the out-of-range rule (R68); with `scaled`, a tensor's or a slice's
scale, it is rounded to nearest even (06 R167). -/
def wordOf (ieee scaled : Bool) (c code : Nat) (blockBad : Bool) (v : Fv) : F32 :=
  match v, floatFmt c with
  | .nan _, some f => if blockBad || !(f.decode code).isNan then fNan else BitVec.ofNat 32 (f.nan32 code)
  | .nan _, none => fNan
  | v, _ => if scaled then rne v else toF32 ieee v

/-- A BF16 subnormal reads, and is written, as zero of its sign in Ouvut mode (08 Table 8.12). -/
def flushBf16 (code : Nat) : Nat := if code % 2 ^ 15 / 2 ^ 7 = 0 then code / 2 ^ 15 * 2 ^ 15 else code

/-- An element that is not held out, of a code, its block's scale byte and its row's scale. -/
def plainElem (src : RowSource) (r code scale : Nat) : Elem :=
  let c := src.form.fmt.toNat
  let z := src.sz r
  let bad := src.form.block != 0 && scale == 255
  let v := decodeElem src.form code scale z.1 z.2 none (src.cb r code)
  let w := wordOf src.ieee (decide (3 ≤ src.form.mode)) c code bad v
  { code := code, raw := if c = 15 then fv (src.cb r code) else codeValue c code, exp := if src.form.block = 0 then 0 else (scale : Int) - 127,
    bad := bad, held := false, miss := false, full := if v.isNan then fv w else v, val := w }

/-- One element of row `r` (06 R167). -/
def elemOf (src : RowSource) (r k code scale : Nat) : Elem :=
  let exp : Int := if src.form.block = 0 then 0 else (scale : Int) - 127
  match src.outs.idxOf? k with
  | some j => heldElem exp (some (src.outVal r j).1)
  | none =>
    if isEscape src.form.fmt.toNat code && !(src.form.block != 0 && scale == 255) then heldElem exp (raisinOf src (r * src.k + k))
    else plainElem src r (if src.flush && src.form.fmt == 1 then flushBf16 code else code) scale

/-- The codes of a row with their scale bytes; an M40 code takes the element's extension byte as its low byte (R83). -/
def rowCodes (src : RowSource) (r : Nat) : List (Nat × Nat) :=
  let us := unpackStrip src.form src.k (src.strip r).1
  if src.form.fmt = 16 then (us.zip (src.ext r).1).map fun p => (256 * p.1.1 + p.2.toNat, p.1.2) else us

/-- The elements of row `r`, and whether anything read for it is poisoned. -/
def rowElems (src : RowSource) (r : Nat) : List Elem × Bool :=
  let us := (rowCodes src r).zipIdx
  let esc := us.any fun p => isEscape src.form.fmt.toNat p.1.1 && !src.outs.contains p.2 && (src.slot ((r * src.k + p.2) / 4096)).2
  let outBad := (List.range src.outs.length).any fun j => (src.outVal r j).2
  (us.map fun p => elemOf src r p.2 p.1.1 p.1.2,
   (src.strip r).2 || esc || outBad || src.szBad r || (src.form.fmt == 15 && src.cbBad r) || (src.form.fmt == 16 && (src.ext r).2))

/-- Decoded values of a row, in FP32 and exactly. -/
def rowVals (src : RowSource) (r : Nat) : List F32 := (rowElems src r).1.map (·.val)
def rowFulls (src : RowSource) (r : Nat) : List Fv := (rowElems src r).1.map (·.full)

/-- An escape of row `r` has no raisin (R80). -/
def rowMiss (src : RowSource) (r : Nat) : Bool := (rowElems src r).1.any (·.miss)

/-- What reading row `r` reads beside its strip: the extension bytes, the slots of the groups its escapes lie in, the side array's
values, its scale entry and its codebook. -/
def sideReads (s : State) (l : Loc) (r : Nat) : List (Nat × Nat) :=
  let src := memSource s l
  let b := slotBytes l.form.cap
  let esc := (rowCodes src r).zipIdx.filter fun p => isEscape l.form.fmt.toNat p.1.1 && !src.outs.contains p.2
  (if l.form.fmt = 16 then [(l.ext + r * roundUp 64 l.k, l.k)] else []) ++
    ((esc.map fun p => (r * l.k + p.2) / 4096).eraseDups.map fun g => (l.raisin + g * b, b)) ++
    (if src.outs.isEmpty then [] else [(l.outlier + 4 * (r * src.outs.length), 4 * src.outs.length)]) ++
    (match l.entry r with | some a => [(a, 8)] | none => []) ++ (if l.form.fmt = 15 then [(l.book + 32 * (r / 128), 32)] else [])

/-- A unit reads rows `first` to `first + n - 1`: what the access does besides giving data (R174). -/
def touchRows (l : Loc) (first n : Nat) (s : State) : State :=
  (l.pieces s first (n * l.stride) ++ (List.range n).flatMap fun i => sideReads s l (first + i)).foldl (fun s p => touch p.1 p.2 s) s

/-- How a conversion rounds and counts: run seed, step, micro-batch and hop of its sprinkles, stochastic rounding (R91),
ieee_overflow (R97), Ouvut arithmetic (08 R246), and the owner of its events: layer, role, recipe, rung and unit by row and
column; `none` counts nothing. -/
structure Conv where
  seed : W64
  step : Nat
  micro : Nat
  grad : Bool
  ieee : Bool
  ouvut : Bool
  owner : Option (Nat × Nat × Nat × Nat)
  unit : Nat → Nat → Nat

/-- What converting rows gave: the rows with their final codes, the raisin slots to write, those of them that keep raisins read poisoned,
surplus escapes, and whether a stored value is non-finite. -/
structure ConvOut where
  rows : List (Nat × EncRow)
  slots : List (Nat × List Byte)
  stale : List Nat
  side : List (Nat × List F32)
  surplus : Nat
  nonfinite : Bool
  deriving DecidableEq, Repr

/-- Flush the subnormal results of a converted row in Ouvut mode. -/
def EncRow.flush (r : EncRow) : EncRow := { r with elems := r.elems.map fun e => { e with code := flushBf16 e.code } }

/-- Outlier elements taken out of a row. -/
def withoutOutliers (outs : List Nat) (xs : List Fv) : List (Option Fv) :=
  xs.zipIdx.map fun p => if outs.contains p.2 then none else some p.1

/-- Convert one row (R95). -/
def convertRow (cv : Conv) (l : Loc) (outs : List Nat) (sz : F32 × Nat) (r : Nat) (xs : List Fv) : EncRow :=
  let rnd (k : Nat) : Rnd :=
    if cv.grad && !cv.ouvut then .stoch ((sprinkle cv.seed l.tensor (r * l.k + k) cv.step cv.micro 0 0).toNat % 65536) else .near
  let e := encodeRow l.form (cv.ieee || cv.ouvut) sz.1 sz.2 rnd (withoutOutliers outs xs)
  if cv.ouvut && l.form.fmt = 1 then e.flush else e

/-- Escapes of converted rows as (flat index, element). -/
def escapesOf (k : Nat) (outs : List Nat) (rows : List (Nat × EncRow)) : List (Nat × Enc) :=
  rows.flatMap fun p => (p.2.elems.zipIdx.filter fun q => q.1.out == .escaped && !outs.contains q.2).map fun q => (p.1 * k + q.2, q.1)

/-- What a group's slot keeps: raisins of elements that stay as they are, then R82's choice among the new ones
(log entry 28). The flat indices that lose, and the slot's bytes. -/
def fillSlot (cap g lo hi : Nat) (old : List Byte) (new : List (Nat × Enc)) : List Nat × List Byte :=
  let was := slotRead cap old
  let kept := was.1.filter fun x => 4096 * g + x.offset < lo || hi ≤ 4096 * g + x.offset
  let rs := sortBy Raisin.before (new.map fun p => { offset := p.1 % 4096, value := raisinValue p.2.x : Raisin })
  let win := rs.take (cap - kept.length)
  let lose := rs.drop (cap - kept.length)
  (lose.map fun x => 4096 * g + x.offset, slotOf cap lose.length (kept ++ win))

/-- Group `g` has elements outside the flat indices `lo` to `hi - 1` of a tensor of `n` elements: its slot is read before it is
written. -/
def slotShared (g lo hi n : Nat) : Bool := decide (4096 * g < lo) || decide (hi < min (4096 * (g + 1)) n)

/-- A surplus escape becomes the max code of its sign (R82). -/
def surplusEnc (f : Form) (sc : Scaler) (e : Enc) : Enc := { e with code := maxCode f.fmt.toNat sc e.x.neg, out := .surplus }

/-- Stored element `i` of a row is non-finite: its input was, its code decodes so, or its block has scale code 0xFF. -/
def encNonfinite (f : Form) (scales : List Nat) (i : Nat) (e : Enc) : Bool :=
  !e.x.finite || (match floatFmt f.fmt.toNat with | some g => !(g.decode e.code).finite | none => false) ||
    (f.block != 0 && scales.getD (i / f.block) 0 == 255)

/-- Convert rows `first`, `first + 1`, ... of an output with given outlier channels. -/
def convertRowsWith (outs : List Nat) (cv : Conv) (s : State) (l : Loc) (first : Nat) (rows : List (List Fv)) : ConvOut :=
  let sz (r : Nat) : F32 × Nat := rowScale s l r
  let enc := rows.zipIdx.map fun p => (first + p.2, convertRow cv l outs (sz (first + p.2)) (first + p.2) p.1)
  let esc := escapesOf l.k outs enc
  let lo := first * l.k
  let hi := (first + rows.length) * l.k
  let gs := if escapable l.form.fmt.toNat && lo < hi then (List.range ((hi - 1) / 4096 + 1 - lo / 4096)).map fun i => lo / 4096 + i else []
  let b := slotBytes l.form.cap
  let fill := gs.map fun g => (g, fillSlot l.form.cap g lo hi (devBytes s (l.raisin + g * b) b) (esc.filter fun p => p.1 / 4096 == g))
  let lost := fill.flatMap fun p => p.2.1
  let enc := enc.map fun p =>
    (p.1, { p.2 with elems := p.2.elems.zipIdx.map fun q =>
              if lost.contains (p.1 * l.k + q.2) then surplusEnc l.form (l.form.scaler (sz p.1).1 (sz p.1).2) q.1 else q.1 })
  let total := match tensorEnt s l.tensor with | some e => e.rows * l.k | none => 0
  { rows := enc, slots := fill.map fun p => (p.1, p.2.2)
    stale := gs.filter fun g => slotShared g lo hi total && devPoison s (l.raisin + g * b) b
    side := if outs.isEmpty then [] else rows.zipIdx.map fun p => (first + p.2, outs.map fun j => rne (p.1.getD j (.fin false 0 0)))
    surplus := lost.length
    nonfinite := (enc.any fun p => p.2.elems.zipIdx.any fun e => encNonfinite l.form p.2.scales e.2 e.1) ||
      (!outs.isEmpty && rows.any fun r => outs.any fun j => !(r.getD j (.fin false 0 0)).finite) }

/-- Convert rows `first`, `first + 1`, ... of an output. -/
def convertRows (cv : Conv) (s : State) (l : Loc) (first : Nat) (rows : List (List Fv)) : ConvOut :=
  convertRowsWith (tensorOutliers s l.tensor) cv s l first rows

/-- The codes of a row as its strip holds them: of M40, the FP32 plane (R83). -/
def planeCodes (f : Form) (codes : List Nat) : List Nat := if f.fmt = 16 then codes.map fun c => c / 256 else codes

/-- Store converted rows: strips, extension strips, raisin slots, side array; the half now carries this form. A slot that keeps raisins
read poisoned stays poisoned (07 R177). -/
def storeRows (l : Loc) (c : ConvOut) (s : State) : State :=
  let b := slotBytes l.form.cap
  let n (p : Nat × List F32) : Nat := l.outlier + 4 * (p.1 * p.2.length)
  let s := c.rows.foldl (fun s p =>
    devWrite (l.row s p.1) (packStrip l.form p.2.scales (planeCodes l.form (p.2.elems.map (·.code)))) s) s
  let s := if l.form.fmt = 16 then
      c.rows.foldl (fun s p => devWrite (l.ext + p.1 * roundUp 64 l.k) (padTo 64 (p.2.elems.map fun e => BitVec.ofNat 8 e.code)) s) s
    else s
  let s := c.slots.foldl (fun s p => devWrite (l.raisin + p.1 * b) p.2 s) s
  let s := c.stale.foldl (fun s g => devPoisonRange (l.raisin + g * b) b s) s
  let s := c.side.foldl (fun s p => devWrite (n p) (p.2.flatMap fun v => leBytes 4 v.toNat) s) s
  setHalf l.key { form := some l.form, poisoned := (halfAt s l.key).poisoned } s

/-- Poison the rows of an output (R42, R177). -/
def poisonRows (l : Loc) (first n : Nat) (s : State) : State := (l.pieces s first (n * l.stride)).foldl (fun s p => devPoisonRange p.1 p.2 s) s

/-- Statistics key (05 R131): layer, unit and role. -/
def statKey (layer role unit : Nat) : Nat := unit + 4096 * role + 16384 * layer

/-- A fresh record. -/
def newStat (recipe rung : Nat) : StatRec :=
  { step := 0, recipe := recipe, rung := rung, flags := 0, repeats := 0, events := List.replicate 7 0, shadowChecks := 0,
    shadowDisagree := 0, shadowDropped := 0, obsMax := fNegInf, obsMin := fPosInf, expHist := [], shadowHist := [] }

/-- Change the current record of a key, opening it when there is none. -/
def updStat (key recipe rung : Nat) (f : StatRec → StatRec) (s : State) : State :=
  let r := (SMap.find s.prc.cur key).getD (newStat recipe rung)
  { s with prc := { s.prc with cur := SMap.put s.prc.cur key (f r) } }

/-- Add to event `i` of a record. -/
def StatRec.event (i n : Nat) (r : StatRec) : StatRec :=
  { r with events := r.events.zipIdx.map fun p => if p.2 = i then p.1 + BitVec.ofNat 48 n else p.1 }

/-- Set a flag of a record (Table 5.4, bit 32 being 0 here). -/
def StatRec.flag (i : Nat) (r : StatRec) : StatRec := { r with flags := putBit r.flags i true }

/-- Histogram bin of a finite non-zero input (05 R134). -/
def expBin (m : Nat) (e : Int) (ref : Int) : Nat := (max 0 (min 31 (flog2 m e - ref + 24))).toNat

/-- Count one element into a record (R98, 05 R134). -/
def StatRec.elem (e : Enc) (ref : Int) (r : StatRec) : StatRec :=
  let r := r.event 0 1
  let r := match e.out with
    | .saturated => r.event 1 1
    | .zeroed => r.event 2 1
    | .escaped => r.event 3 1
    | .surplus => r.event 4 1
    | .none => r
  match e.x with
  | .fin _ m x =>
    let v := rne e.x
    let r := { r with obsMax := fmax r.obsMax v, obsMin := fmin r.obsMin v }
    if m = 0 then r
    else { r with expHist := SMap.alter r.expHist (expBin m x ref) 0 fun n => min (2 ^ 32 - 1) (n + 1) }
  | _ => r.event 5 1

/-- floor(log2 s) of a scale; 0 for one that is not positive and finite. -/
def scaleLog (s : F32) : Int := match fv s with | .fin _ m e => if m = 0 then 0 else flog2 m e | _ => 0

/-- Exponent that an element of a row is binned against (05 R134). -/
def refExp (f : Form) (r : EncRow) (sz : F32 × Nat) (i : Nat) : Int :=
  if f.block ≠ 0 then r.exps.getD (i / f.block) 0 else if f.mode = 3 || f.mode = 4 then scaleLog sz.1 else 0

/-- Larger finite magnitude, and smallest and largest value of a slice, in a window (05 R143, R144). -/
def observe (l : Loc) (slice : Nat) (x : Fv) (s : State) : State :=
  if !x.finite then s
  else
    let v := rne x
    match l.form.mode with
    | 3 => { s with prc := { s.prc with amaxCur := SMap.alter s.prc.amaxCur l.tensor 0 fun a => let m := v &&& 0x7FFFFFFF#32; if flt a m then m else a } }
    | 4 =>
      let k := 64 * l.tensor + slice
      let now := match SMap.find s.prc.sliceCur k with
        | some (lo, hi) => (fmin lo v, fmax hi v)
        | none => (v, v)
      { s with prc := { s.prc with sliceCur := SMap.put s.prc.sliceCur k now } }
    | _ => s

/-- Count a conversion's events into the records of its owner (05 R131, R132). -/
def countConvWith (outs : List Nat) (cv : Conv) (l : Loc) (c : ConvOut) (s : State) : State :=
  match cv.owner with
  | none => s
  | some (layer, role, recipe, rung) =>
    c.rows.foldl (fun s p =>
      let sz := rowScale s l p.1
      p.2.elems.zipIdx.foldl (fun s q =>
        if outs.contains q.2 then s
        else
          let s := updStat (statKey layer role (cv.unit p.1 q.2)) recipe rung (StatRec.elem q.1 (refExp l.form p.2 sz q.2)) s
          observe l (sliceOf l.sliceRows p.1) q.1.x s) s) s

/-- Count a conversion's events with the outlier channels of its tensor. -/
def countConv (cv : Conv) (l : Loc) (c : ConvOut) (s : State) : State := countConvWith (tensorOutliers s l.tensor) cv l c s

/-- Run seed of conversions (R94). -/
def seedNow (s : State) : W64 := s.upd.seed.getD s.act.seed

/-- The element of a converted row that sets NONFINITE: its input flagged or kept non-finite, in the narrow tensor or, of an outlier
channel, in the side array (05 R148). -/
def keptNonfinite (outs : List Nat) (l : Loc) (side : List (Nat × List F32)) (p : Nat × EncRow) (i : Nat) (e : Enc) : Bool :=
  match outs.idxOf? i, side.find? (fun x => x.1 == p.1) with
  | some j, some x => !(fv (x.2.getD j fZero)).finite
  | _, _ => e.flag || encNonfinite l.form p.2.scales i e

/-- A kept output that is non-finite sets NONFINITE in the record of its unit (05 Table 5.4, R132). -/
def markNonfiniteWith (outs : List Nat) (cv : Conv) (l : Loc) (c : ConvOut) (s : State) : State :=
  match cv.owner with
  | none => s
  | some (layer, role, recipe, rung) =>
    c.rows.foldl (fun s p =>
      p.2.elems.zipIdx.foldl (fun s q =>
        if keptNonfinite outs l c.side p q.2 q.1 then updStat (statKey layer role (cv.unit p.1 q.2)) recipe rung (StatRec.flag 0) s
        else s) s) s

/-- The same with the outlier channels of the tensor. -/
def markNonfinite (cv : Conv) (l : Loc) (c : ConvOut) (s : State) : State := markNonfiniteWith (tensorOutliers s l.tensor) cv l c s

/-- An escape without a raisin sets the non-finite flag of the layer that consumes it (R80), in the record of a unit. DESIGN CHOICE:
05 Table 5.4 names a non-finite decoded input beside a kept output, R132 kept outputs only; the model flags a decoded input only here (log
entry 143). -/
def markMissed (owner : Option (Nat × Nat × Nat × Nat)) (unit : Nat) (missed : Bool) (s : State) : State :=
  match owner with
  | some (layer, role, recipe, rung) => if missed then updStat (statKey layer role unit) recipe rung (StatRec.flag 0) s else s
  | none => s

/-- Convert, count and store rows of an output that is kept whatever it holds. -/
def putRows (cv : Conv) (l : Loc) (first : Nat) (rows : List (List Fv)) (s : State) : ConvOut × State :=
  let c := convertRows cv s l first rows
  (c, storeRows l c (markNonfinite cv l c (countConv cv l c s)))

/-- FP32 values as exact ones. -/
def fvs (xs : List F32) : List Fv := xs.map fv

end Sys2Proof.Machine
end

