-- ==== Sys2Proof/Machine/Arith.lean ====
section
/-!
DEFINITION. One output element of a layer instance: the array's row blocks, seams and scale stage (04 R110-R116), the table
paths of the MVT (06 R157-R163), the exact unit's chain (R167) and the folded terms (R169).
-/
namespace Sys2Proof.Machine

/-- One activation and the weight it meets. -/
structure Pair where
  a : Elem
  w : Elem
  deriving DecidableEq, Repr

/-- Neither side is held out (R111). -/
def Pair.live (p : Pair) : Bool := !p.a.held && !p.w.held

/-- K indices per row block of a class (Table 4.2). -/
def classRows (cls : Nat) : Nat := [16, 16, 8, 4].getD cls 4

/-- Accumulator types (R102, Table 4.6). A product of integers in the 4 x 4 class accumulates in INT48 (Table 5.1). -/
def accType (af wf cls : Nat) : Nat :=
  if isFloatFmt af || isFloatFmt wf || wf == 15 then 0 else if af == 8 || wf == 8 || cls == 3 then 2 else 1

/-- The window of R111 over one row block: terms below 2^(e_top - 45) are cut towards minus infinity. -/
def windowSum (ps : List Fv) : Int × Int :=
  let fin := ps.filterMap fun p => match p with | .fin n m e => if m = 0 then none else some (n, m, e) | _ => none
  match fin with
  | [] => (0, 0)
  | f :: fs =>
    let top := fs.foldl (fun t p => max t (flog2 p.2.1 p.2.2)) (flog2 f.2.1 f.2.2)
    let g := top - 45
    (fin.foldl (fun s p =>
      let v := signedM p.1 p.2.1
      s + (if g ≤ p.2.2 then v * 2 ^ (p.2.2 - g).toNat else v / 2 ^ (g - p.2.2).toNat)) 0, g)

/-- A block sum from its row blocks (R111, R112): NaN, an infinity, or the exact sum. -/
def blockSum (rows : List (List Fv)) : Fv :=
  let all := rows.flatMap fun r => r
  let pos := all.any fun p => p == .inf false
  let neg := all.any fun p => p == .inf true
  if all.any Fv.isNan || (pos && neg) then .nan false
  else if pos then .inf false
  else if neg then .inf true
  else rows.foldl (fun s r => let w := windowSum r; s.add (Fv.ofInt w.1 w.2)) (.fin false 0 0)

/-- An element as the cells see it: NaN in a block with scale code 0xFF (R68, R112). -/
def Elem.cell (e : Elem) : Fv := if e.bad then .nan false else e.raw

/-- An integer element's code value. -/
def Elem.int (e : Elem) : Int := match e.raw with | .fin n m x => signedM n m * 2 ^ x.toNat | _ => 0

/-- Products of a block on the array, by row block; an element held out enters as zero (R111, R112). -/
def arrayTerms (cls : Nat) (ps : List Pair) : List (List Fv) :=
  (chunks (classRows cls) ps).map fun r => r.map fun p => p.a.cell.mul p.w.cell

/-- The sixteen table words of a group of four activations, in Gray-code order (R158); `t` counts from 1. -/
def grayTable (a : List F32) : Nat → Nat → List (Nat × F32) → List (Nat × F32)
  | 0, _, tab => tab
  | fuel + 1, t, tab =>
    let g := t ^^^ (t >>> 1)
    let gp := (t - 1) ^^^ ((t - 1) >>> 1)
    let i := Nat.log2 (g ^^^ gp)
    let was := ((tab.find? fun p => p.1 == gp).map (·.2)).getD fZero
    let x := a.getD i fZero
    grayTable a fuel (t + 1) ((g, if (g >>> i) % 2 = 1 then fadd was x else fsub was x) :: tab)

/-- The nibble of plane `p` of four weight codes (R159). -/
def planeNibble (p : Nat) (codes : List Nat) : Nat := codes.zipIdx.foldl (fun n c => n + (c.1 >>> p) % 2 * 2 ^ c.2) 0

/-- The shifted entries of one group as products (R159, R160). -/
def groupTerms (wf : Nat) (a : List F32) (codes : List Nat) : List Fv :=
  let tab := grayTable a 15 1 [(0, fZero)]
  let at_ (n : Nat) : Fv := fv (((tab.find? fun p => p.1 == n).map (·.2)).getD fZero)
  if wf = 14 then [at_ 15, ((at_ (planeNibble 0 codes)).negate).scale 1]
  else
    let b := fmtWidth wf
    (List.range b).map fun p => let t := (at_ (planeNibble p codes)).scale p; if p + 1 = b then t.negate else t

/-- The activation a table takes: its element value, +0 where it is held out. -/
def Elem.word (e : Elem) : F32 := if e.held then fZero else rne e.cell

/-- The weight code that the planes take; an escaped one is cut as code 0. -/
def Elem.plane (wf : Nat) (e : Elem) : Nat :=
  if e.held then 0 else if wf = 14 then b2n e.raw.neg else twos (fmtWidth wf) e.int

/-- Terms of a block on path 1, by row block. -/
def tableTerms (cls wf : Nat) (ps : List Pair) : List (List Fv) :=
  (chunks (classRows cls) ps).map fun r => (chunks 4 r).flatMap fun g =>
    groupTerms wf (g.map (·.a.word)) (g.map fun p => p.w.plane wf)

/-- An entry before the first block of its chain. -/
def entry0 : Entry := { f := fZero, a := 0, e := 0, started := false, lost := false, nan := false }

/-- shr of R113. -/
def shrRne (v : Int) (d : Nat) : Int :=
  if 62 < d then 0 else signedM (v < 0) (roundAt .near v.natAbs 0 d)

/-- Limit of an integer accumulator type. -/
def accLimit (t : Nat) : Int := if t = 2 then 2 ^ 47 else 2 ^ 31

/-- The scale stage of an FP32 entry (R112, R115). -/
def Entry.addFloat (n : Entry) (s : Fv) (e : Int) : Entry :=
  let f := rne ((fv n.f).add (s.scale e))
  let inf := match fv f with | .inf _ => true | _ => false
  { n with f := f, lost := n.lost || (inf && s.finite && (fv n.f).finite) }

/-- The scale stage of an integer entry (R113, R115). -/
def Entry.addInt (t : Nat) (n : Entry) (s e : Int) : Entry :=
  let r : Int × Int :=
    if !n.started then (s, e)
    else if e ≤ n.e then (n.a + shrRne s (n.e - e).toNat, n.e)
    else (shrRne n.a (e - n.e).toNat + s, e)
  let lim := accLimit t
  { n with a := max (-lim) (min (lim - 1) r.1), e := r.2, started := true, lost := n.lost || lim ≤ r.1 || r.1 < -lim }

/-- What one output element is formed from, apart from its elements: class, accumulator, path (Table 6.1), weight format,
seam length along the reduction, zero point, column sums in pieces of `grain` elements (R114), and scales. -/
structure DotCfg where
  cls : Nat
  acc : Nat
  path : Nat
  wf : Nat
  seam : Nat
  z : Nat
  grain : Nat
  sums : List Int
  sa : Option F32
  sw : Option F32
  deriving DecidableEq, Repr

/-- Exact integer block sum with the zero-point correction, `wb` being the stored sum of the block's weight codes (R114). -/
def intSum (z : Nat) (wb : Int) (ps : List Pair) : Int := (ps.foldl (fun s p => s + p.a.int * p.w.int) 0) - (z : Int) * wb

/-- Elements per stored column sum: the weights' block, or the row block of the 4 x 4 gang, of which every other is made up. -/
def sumGrain (f : Form) : Nat := if f.block = 0 then 4 else f.block

/-- The column sums of a logical column of weights, escaped ones and those of outlier channels taken as 0 (R114). -/
def columnSums (grain : Nat) (ws : List Elem) : List Int := (chunks grain ws).map fun c => c.foldl (fun s e => s + e.int) 0

/-- W_b of the `j`-th seam of a column. -/
def DotCfg.blockSum (c : DotCfg) (j : Nat) : Int :=
  ((c.sums.drop (j * c.seam / c.grain)).take (c.seam / c.grain)).foldl (fun s x => s + x) 0

/-- One CB4 run of sixteen K indices (R163): the products exactly, less z times the stored run sum. -/
def runSum (z : Nat) (ps : List Pair) : Fv :=
  let sum := ps.foldl (fun s p => if p.live then fadd s p.w.val else s) fZero
  let prods := (ps.filter Pair.live).map fun p => p.a.cell.mul (fv p.w.val)
  (blockSum [prods]).add ((Fv.ofInt z 0).mul (fv sum)).negate

/-- The sum of a block of floating-point products (R112, R160): NaN where a block of either side has scale code 0xFF. -/
def floatSum (c : DotCfg) (ps : List Pair) : Fv :=
  if ps.any fun p => p.a.bad || p.w.bad then .nan false
  else blockSum (if c.path = 1 then tableTerms c.cls c.wf ps else arrayTerms c.cls ps)

/-- Scale seam `j`: a block of pairs enters the entry. -/
def seamStep (c : DotCfg) (n : Entry) (ps : List Pair) (j : Nat) : Entry :=
  let e := match ps with | p :: _ => p.a.exp + p.w.exp | [] => 0
  if c.wf = 15 then n.addFloat (runSum c.z ps) 0
  else if c.acc = 0 then n.addFloat (floatSum c ps) e
  else { n.addInt c.acc (intSum c.z (c.blockSum j) ps) e with nan := n.nan || ps.any fun p => p.live && (p.a.bad || p.w.bad) }

/-- The scale seams of consecutive K slices, from seam `j` on, enter an entry (R105, R110). -/
def seams (c : DotCfg) (n : Entry) (j : Nat) (ps : List Pair) : Entry :=
  (chunks c.seam ps).zipIdx.foldl (fun n q => seamStep c n q.1 (j + q.2)) n

/-- Terms folded in by the XU (R169): the sum and the number of FMAs; `none` when there is no term. -/
def xuTerms (ps : List Pair) : Option F32 × Nat :=
  ps.foldl (fun t p => if p.live then t else (some (ffma p.a.val p.w.val (t.1.getD fZero)), t.2 + 1)) (none, 0)

/-- An output element before bias and beta: its value, accumulator overflows (integer, FP32), FMAs folded in, and whether an
element it takes in is non-finite (Table 5.9). -/
structure Dot where
  y : F32
  overInt : Bool
  overFloat : Bool
  terms : Nat
  badIn : Bool
  deriving DecidableEq, Repr

/-- A decoded element is non-finite. -/
def Pair.bad (p : Pair) : Bool := !(fv p.a.val).finite || !(fv p.w.val).finite

/-- One output element on path 0, 1 or 2 (R112-R116). -/
def dotNarrow (c : DotCfg) (ps : List Pair) : Dot :=
  let n := seams c entry0 0 ps
  let fl := c.acc = 0 || c.wf = 15
  let y := if fl then n.f else if n.nan then fNan else rne (Fv.ofInt n.a n.e)
  let y := match c.sa with | some s => fmul y s | none => y
  let y := match c.sw with | some s => fmul y s | none => y
  let x := xuTerms ps
  { y := match x.1 with | some t => fadd y t | none => y, overInt := !fl && n.lost, overFloat := fl && n.lost, terms := x.2,
    badIn := ps.any Pair.bad }

/-- One output element on path 3 (R167). -/
def dotExact (ps : List Pair) : Dot :=
  { y := ps.foldl (fun acc p => ffma p.a.val p.w.val acc) fZero, overInt := false, overFloat := false, terms := 0,
    badIn := ps.any Pair.bad }

/-- Seam length of a product (R110). Table 4.5 gives no row blocks for a block scale on the 4 x 4 gang, which mixed operands and repeats
at rung 3 reach: the seam stays at the blocks' length along K (log entry 120). -/
def seamLen (af wf : Form) (cls : Nat) : Nat :=
  if wf.fmt = 15 then 16
  else
    match af.block, wf.block with
    | 0, 0 => classRows cls
    | 0, b => b
    | b, 0 => b
    | a, b => min a b

/-- Bias and beta of the epilogue (R116). -/
def epilogue (bias beta c : Option F32) (y : F32) : F32 :=
  let y := match bias with | some b => fadd y b | none => y
  match beta, c with
  | some b, some c => ffma b c y
  | _, _ => y

end Sys2Proof.Machine
end

