-- ==== Sys2Proof/Machine/Array.lean ====
section
/-!
DEFINITION. A tile's array: cells and their registers (04 R99, R103), the weight loader (R107), a pass with its wavefront swap
(R105, R108, R109), drains and pass tags (R117-R119), weight-register parity (R121), and the passes of a command's share
(R106, R477).
-/
namespace Sys2Proof.Machine

/-- Logical K and columns of a class, and cells on a side of its gangs (Table 4.2). -/
def classK (cls : Nat) : Nat := [128, 128, 64, 32].getD cls 32
def classCols (cls : Nat) : Nat := [512, 128, 64, 32].getD cls 32
def classGang (cls : Nat) : Nat := [1, 1, 2, 4].getD cls 4

/-- Bits of a weight that one cell column of a gang holds: the code in equal parts, a nibble each where it fits (R99, R103; log
entry 121). -/
def cellBits (cls wf : Nat) : Nat := max (fmtWidth wf) (4 * classGang cls) / classGang cls

/-- A weight code as wide as a gang: an integer is sign-extended. -/
def gangCode (cls wf code : Nat) : Nat :=
  let w := fmtWidth wf
  if (floatFmt wf).isNone && wf != 14 && wf != 15 then twos (cellBits cls wf * classGang cls) (signed w code) else code

/-- The cells of the product of logical K index `k` and column `n`, each with the part of the weight that it holds: shift in the weight
and shift in the register (Table 4.2). -/
def cellsOf (cls wf k n : Nat) : List (Nat × Nat × Nat) :=
  if cls = 0 then [(128 * k + n / 4, 0, 2 * (n % 4))]
  else
    let g := classGang cls
    (List.range g).flatMap fun r => (List.range g).map fun c => (128 * (g * k + r) + (g * n + c), cellBits cls wf * c, 0)

/-- The parity bit of a register is the exclusive OR of its eight bits. -/
def withParity (v : Nat) : BitVec 9 :=
  BitVec.ofNat 9 (v % 256 + 256 * (((List.range 8).map fun i => v / 2 ^ i).foldl (fun a b => a + b) 0 % 2))

/-- The parity bit of a register agrees with its bits (R121). -/
def parityOk (r : BitVec 9) : Bool := r == withParity r.toNat

/-- Put a weight code into the cells that hold it. -/
def putWeight (cls wf k n code : Nat) (m : SMap (BitVec 9)) : SMap (BitVec 9) :=
  let w := if cls = 0 then 2 else cellBits cls wf
  (cellsOf cls wf k n).foldl (fun m c =>
    SMap.alter m c.1 0 fun r => withParity (r.toNat % 256 + (gangCode cls wf code >>> c.2.1) % 2 ^ w * 2 ^ c.2.2)) m

/-- The weight code that the cells of a product hold. -/
def weightAt (cls wf : Nat) (m : SMap (BitVec 9)) (k n : Nat) : Nat :=
  let w := if cls = 0 then 2 else cellBits cls wf
  let part (c : Nat × Nat × Nat) : Nat := ((SMap.get m c.1 0).toNat >>> c.2.2) % 2 ^ w * 2 ^ c.2.1
  ((cellsOf cls wf k n).take (classGang cls)).foldl (fun a c => a + part c) 0 % 2 ^ fmtWidth wf

/-- Values per logical column as the loader delivers them. -/
def perColumn {α : Type} [DecidableEq α] (d : α) (cols : List (List α)) : SMap α :=
  cols.zipIdx.foldl (fun m c => c.1.zipIdx.foldl (fun m x => SMap.set m (128 * c.2 + x.2) x.1 d) m) []

/-- What the loader writes for a weight tile, its columns given as elements along K with their stored sums (R107, R114). -/
def cellSet (cls : Nat) (af wf : Form) (cols : List (List Elem × List Int)) : CellSet :=
  let f := wf.fmt.toNat
  { af := af.fmt.toNat, wf := f, block := wf.block, seam := seamLen af wf cls, cols := cols.length
    regs := cols.zipIdx.foldl (fun m c => c.1.1.zipIdx.foldl (fun m e => putWeight cls f e.2 c.2 e.1.code m) m) []
    scales := perColumn 127 (cols.map fun c => if wf.block = 0 then [] else (chunks wf.block c.1).map fun b =>
      match b with | e :: _ => if e.bad then 255 else (e.exp + 127).toNat | [] => 127)
    sums := perColumn 0 (if isAffineFmt af.fmt.toNat then cols.map (·.2) else []) }

/-- An element that a pass multiplies, from its code and its block's scale byte, 127 where it has no block (R68). -/
def passElem (f code scale : Nat) : Elem :=
  let v := codeValue f code
  { code := code, raw := v, exp := (scale : Int) - 127, bad := scale == 255, held := false, miss := false, full := v, val := rne v }

/-- A logical column of the weights in a set of registers. -/
def CellSet.column (c : CellSet) (cls n : Nat) : List Elem :=
  (List.range (classK cls)).map fun k =>
    passElem c.wf (weightAt cls c.wf c.regs k n) (SMap.get c.scales (128 * n + k / (if c.block = 0 then 1 else c.block)) 127)

/-- How the sums of a logical column enter its accumulator entries in a pass. -/
def CellSet.cfg (c : CellSet) (cls acc z n : Nat) : DotCfg :=
  let grain := if c.block = 0 then 4 else c.block
  { cls := cls, acc := acc, path := 0, wf := c.wf, seam := c.seam, z := z, grain := grain
    sums := (List.range (classK cls / grain)).map fun j => SMap.get c.sums (128 * n + j) 0, sa := none, sw := none }

/-- A pass adds the products of its rows into the entries of every column in use (R105); in a chain's first pass they start anew. -/
def addPass (c : CellSet) (cls acc : Nat) (first : Bool) (rows : List (List Elem × Nat)) (m : SMap Entry) : SMap Entry :=
  (List.range c.cols).foldl (fun m n =>
    let w := c.column cls n
    rows.zipIdx.foldl (fun m r =>
      let e := if first then entry0 else SMap.get m (512 * n + r.2) entry0
      SMap.put m (512 * n + r.2) (seams (c.cfg cls acc r.1.2 n) e 0 ((r.1.1.zip w).map fun p => { a := p.1, w := p.2 : Pair }))) m) m

/-- Registers nothing has been loaded into, and a tile's array at reset (Table 4.6; log entry 121). -/
def noCells : CellSet := { af := 0, wf := 0, block := 0, seam := 1, cols := 0, regs := [], scales := [], sums := [] }
def idleTile : TileState :=
  { tag := 0, last := none, retried := false, faulted := false, active := noCells, shadow := noCells, acc := [] }

/-- A tile's array. -/
def arrayOf (s : State) (tile : Nat) : TileState := SMap.get s.tiles.array tile idleTile

def setArray (tile : Nat) (x : TileState) (s : State) : State := { s with tiles := { s.tiles with array := SMap.put s.tiles.array tile x } }

/-- The loader writes the shadow registers of a tile (R107). -/
def loadShadow (tile : Nat) (c : CellSet) (s : State) : State := setArray tile { arrayOf s tile with shadow := c } s

/-- Two passes of one gang mode and accumulator type need no drain between them (R117). -/
def sameMode (a b : BitVec 34) : Bool := bits a 33 30 == bits b 33 30

/-- A pass tag (Table 4.6). -/
def passTag (cls acc recipe layer : Nat) : BitVec 34 := at' 34 32 cls ||| at' 34 30 acc ||| at' 34 16 (recipe % 16384) ||| at' 34 0 (layer % 65536)

/-- Earliest start of a pass after the tile's last one (R108, R117). -/
def passDue (x : TileState) (tag : BitVec 34) : Nat :=
  match x.last with
  | none => 0
  | some (st, m) => if sameMode x.tag tag then st + max m 128 else st + m + 255

/-- A parity error found by the pass (R121): the command's entries on the tile are discarded; the first error retries the command's
share, a second faults it; three faults within an hour condemn the tile (15 Table 15.11). -/
def passParity (tile : Nat) (x : TileState) (s : State) : TileState × State :=
  let s := count (tileCtr tile 8) 1 s
  let x := { x with acc := [] }
  if x.retried then
    if x.faulted then (x, s)
    else
      let n := noteFault 0 tile 5 hourUnits (now s) s
      ({ x with faulted := true }, if 3 ≤ n.1 then condemn 0 tile 5 n.2 else n.2)
  else ({ x with retried := true }, count (obsCtr 7) 1 s)

/-- A tag error (R119): the event with its second record, and the tile is condemned. -/
def passTagError (tile : Nat) (tag : BitVec 34) (s : State) : State :=
  condemn 0 tile 7 (raiseTag tile (tag.setWidth 64) (count (tileCtr tile 9) 1 s))

/-- Use per product of a class (R123). -/
def classUse (cls : Nat) : Nat := [1, 4, 16, 64].getD cls 64

/-- Use of a pass: products of its rows with the columns in use; rows hold no padding (R123). -/
def passUse (c : CellSet) (cls : Nat) (rows : List (List Elem × Nat)) : Nat :=
  rows.foldl (fun n r => n + r.1.length * c.cols * classUse cls) 0

/-- Entries of a pass that it makes overflow (R115): `was` are the accumulator files before it, in a chain's first pass anew. -/
def passLost (c : CellSet) (first : Bool) (rows : Nat) (was now_ : SMap Entry) : Nat :=
  ((List.range c.cols).flatMap fun n => (List.range rows).filter fun r =>
    (SMap.get now_ (512 * n + r) entry0).lost && (first || !(SMap.get was (512 * n + r) entry0).lost)).length

/-- What a pass counts in its tile (R123): passes, use, overflows, drains, busy cycles, slots and stalls. All cycles between the due cycle
of a pass and its start are stalls, those between two commands too (log entry 122). -/
def passCount (tile use lost fresh stall : Nat) (drain again : Bool) (s : State) : State :=
  let s := count (tileCtr tile 7) lost (count (tileCtr tile 5) use (count (tileCtr tile 0) 1 s))
  let s := if drain then count (tileCtr tile 2) 255 (count (tileCtr tile 1) 1 s) else s
  let s := count (tileCtr tile 4) (65536 * fresh) (count (tileCtr tile 3) fresh s)
  if again then count (tileCtr tile 6) stall s else s

/-- What the array's checks found in a pass (R119, R121): what the event tells, and the parity of the registers made active. -/
def passFound (tile : Nat) (tag : BitVec 34) (found : PassFault) (y : TileState) (s : State) : TileState × State :=
  match found with
  | .parity => passParity tile y s
  | .tag => ({ y with faulted := true }, passTagError tile tag s)
  | .none => if y.active.regs.all fun r => parityOk r.2 then (y, s) else passParity tile y s

/-- A pass starts in a tile's array (R105-R109, R117-R123): the active and the shadow registers are exchanged, and its rows add into the
accumulator files. `ready` is the first cycle at which its operands are in SRAM. -/
def passStart (tile : Nat) (tag : BitVec 34) (first : Bool) (rows : List (List Elem × Nat)) (ready : Nat) (found : PassFault) (s : State) : State :=
  let x := arrayOf s tile
  let n := rows.length
  let due := passDue x tag
  let start := max due ready
  let drain := x.last.isSome && !sameMode x.tag tag
  let fresh := match x.last with | some (st, m) => if start ≤ st + m + 255 then start + n - (st + m) else n + 255 | none => n + 255
  let acc := addPass x.shadow (bits tag 33 32) (bits tag 31 30) first rows x.acc
  let s := passCount tile (passUse x.shadow (bits tag 33 32) rows) (passLost x.shadow first n x.acc acc) fresh (start - due) drain x.last.isSome s
  let stage := match layerEnt s (bits tag 15 0) with | some l => l.stage | none => 0
  let s := trace 0x03 tile stage (tag.setWidth 64) (at' 64 32 n ||| at' 64 0 (start % 2 ^ 32)) s
  let y := { x with tag := tag, last := some (start, n), active := x.shadow, shadow := x.active, acc := acc }
  let r := passFound tile tag found y s
  setArray tile r.1 r.2

/-- One K slice of a share: the loader writes the slice's weights, and the pass starts (R106, R107). -/
def slicePass (tile : Nat) (tag : BitVec 34) (af wf : Form) (rows : List (List Elem × Nat)) (cols : List (List Elem × List Int)) (ks : Nat)
    (s : State) : State :=
  let cls := bits tag 33 32
  let n := classK cls
  let g := n / sumGrain wf
  passStart tile tag (ks == 0) (rows.map fun r => ((r.1.drop (ks * n)).take n, r.2)) 0 .none
    (loadShadow tile (cellSet cls af wf (cols.map fun c => ((c.1.drop (ks * n)).take n, (c.2.drop (ks * g)).take g))) s)

/-- Passes of a share of a product. -/
def passesOf (cls rows cols k : Nat) : Nat := ceilDiv cols (classCols cls) * ceilDiv rows 512 * ceilDiv k (classK cls)

/-- Place of the first pass of output (r, c) of a share among the share's passes (R106). -/
def passAt (cls rows k r c : Nat) : Nat := (c / classCols cls * ceilDiv rows 512 + r / 512) * ceilDiv k (classK cls)

/-- The passes of a share of a product on a tile, N slices outermost, then row groups of 512, then K slices (R106). Where a notice of
overflow stops the attempt, only the first `lim` start (R122; log entry 123). -/
def sharePasses (lim : Option Nat) (tile : Nat) (tag : BitVec 34) (af wf : Form) (rows : List (List Elem × Nat))
    (cols : List (List Elem × List Int)) (k : Nat) (s : State) : State :=
  let cls := bits tag 33 32
  let ps := (chunks (classCols cls) cols).flatMap fun ns => (chunks 512 rows).flatMap fun rg =>
    (List.range (ceilDiv k (classK cls))).map fun ks => (ns, rg, ks)
  ((lim.elim ps ps.take)).foldl (fun s p => slicePass tile tag af wf p.2.1 p.1 p.2.2 s) s

/-- The passes of a share; on a tile that found a parity error the share runs again in full after the pass that found it (R477; log
entry 123). -/
def runShare (again : Bool) (lim : Option Nat) (tile : Nat) (tag : BitVec 34) (af wf : Form) (rows : List (List Elem × Nat))
    (cols : List (List Elem × List Int)) (k : Nat) (s : State) : State :=
  if rows.isEmpty || cols.isEmpty then s
  else
    sharePasses lim tile tag af wf rows cols k
      (if again then slicePass tile tag af wf (rows.take 512) (cols.take (classCols (bits tag 33 32))) 0 s else s)

/-- A row of an ARRAY_PASS_START as the cells take it, in the format that meets the weights of the shadow registers. -/
def PassRow.acts (c : CellSet) (r : PassRow) : List Elem × Nat := (r.elems.map fun p => passElem c.af p.1 p.2, r.zero)

/-- ARRAY_PASS_START (R108): in a tile in service, with 1 to 512 rows. -/
def execArrayPassStart (tile : Nat) (tag : BitVec 34) (rows : PassRows) (readyCycle : Nat) (found : PassFault)
    (s : State) : Host.Outcome State Fault Refusal :=
  if serving s && tileOn s tile && !isCondemned s 0 tile && decide (1 ≤ rows.rows.length) && decide (rows.rows.length ≤ 512) then
    .next (passStart tile tag rows.first (rows.rows.map (PassRow.acts (arrayOf s tile).shadow)) readyCycle found s)
  else .next s

end Sys2Proof.Machine
end

