-- ==== Sys2Proof/Machine/Instance.lean ====
section
/-!
DEFINITION. Layer instances: the share of each tile (04 R474), the path of a rung (06 R155, R156), working weights (01 R26, R472),
one attempt, overflow and its repeat (05 R146-R150, 04 R122), shadow captures (05 R151, R152) and the array, MVT and XU counters.
-/
namespace Sys2Proof.Machine

/-- A tile's share of an output: first row, rows, first column, columns. -/
structure Share where
  r0 : Nat
  rc : Nat
  c0 : Nat
  cc : Nat
  deriving DecidableEq, Repr

/-- Start of range `i` when `n` things form `k` ranges, the lower ones holding one more. -/
def rangeStart (n k i : Nat) : Nat := i * (n / k) + min i (n % k)

/-- Shares of `t` tiles in an output of `r` rows and `c` columns, in ascending tile order (R474). -/
def splitOutputs (t r c : Nat) : List Share :=
  let u := ceilDiv c 128
  if t = 0 ∨ u = 0 then []
  else
    let gc := min t u
    let gr := t / gc
    (List.range (gc * gr)).map fun i =>
      let ci := i / gr
      let ri := i % gr
      let c0 := 128 * rangeStart u gc ci
      let r0 := rangeStart r gr ri
      { r0 := r0, rc := rangeStart r gr (ri + 1) - r0, c0 := c0, cc := min c (128 * rangeStart u gc (ci + 1)) - c0 }

/-- The share holds output (r, c). -/
def Share.holds (x : Share) (r c : Nat) : Bool :=
  decide (x.r0 ≤ r) && decide (r < x.r0 + x.rc) && decide (x.c0 ≤ c) && decide (c < x.c0 + x.cc)

/-- Index of the tile that owns output (r, c). -/
def shareOf (xs : List Share) (r c : Nat) : Nat := (xs.findIdx? fun x => x.holds r c).getD 0

/-- Tiles of replica `rep` of a stage. -/
def stageTiles (s : State) (stage rep : Nat) : List Nat :=
  match stagePl s stage with | some p => p.tiles.getD rep [] | none => []

/-- Replicas that execute a command of a stage (02 R51). -/
def stageReplicas (s : State) (stage : Nat) : Nat :=
  match stageEnt s stage with | some e => if e.locked then max 1 e.replicas else 1 | none => 1

/-- A condemned or retired tile among those of a stage: its commands complete FAULT (15 R449, R450). -/
def condemnedTile (s : State) (stage : Nat) : Bool :=
  (List.range (stageReplicas s stage)).any fun r => (stageTiles s stage r).any fun t => isCondemned s 0 t || !tileOn s t

/-- An operand lies on a unit that has been retired (15 R450). -/
def lostOperand (s : State) (o : Operand) (beat rep : Nat) : Bool :=
  match locate s o beat rep none with | some l => l.rpp == 0 && isHole s l.dpa | none => false

/-- A tile of a stage that a command of the array cannot use: one that its own passes condemned ends the command on that tile only
(R119, R121; log entry 160). -/
def brokenTile (s : State) (stage : Nat) : Bool :=
  (List.range (stageReplicas s stage)).any fun r => (stageTiles s stage r).any fun t =>
    isCondemned s 0 t && !(arrayOf s t).faulted || !tileOn s t

/-- A command of the array needs a tile, or a tensor on a unit, that is not there (R119; 15 R449, R450). -/
def arrayGone (s : State) (stage : Nat) (ops : List Operand) (beat : Nat) : Bool :=
  brokenTile s stage || (List.range (stageReplicas s stage)).any fun rep => ops.any fun o => !o.isNone && lostOperand s o beat rep

/-- A command needs a tile, or a tensor on a unit, that is not there (15 R449, R450). -/
def unitsGone (s : State) (stage : Nat) (ops : List Operand) (beat : Nat) : Bool :=
  condemnedTile s stage || (List.range (stageReplicas s stage)).any fun rep => ops.any fun o => !o.isNone && lostOperand s o beat rep

/-- The version of a layer's working weights that a beat reads (01 R26): the last one in force at its edge. -/
def weightsOf (s : State) (layer beat : Nat) : Option Weights :=
  ((SMap.get s.tiles.weights layer []).filter fun w =>
    decide (w.from_ ≤ beat) && decide (w.step.toNat ≤ (match s.upd.step with | some o => o.num.toNat | none => 2 ^ 64))).getLast?

/-- Beat a command counts for: that of its ring, or on a direct ring the present one (11 R314). -/
def cmdBeat (s : State) (r : Ring) (c : Cmd) : Nat := if r.stageRing then c.beat else s.tkc.beat.toNat

/-- Strips of a weights version as a source of rows (05 R145: the side array holds row `k` of the weights, then `n`). -/
def weightSource (s : State) (l : LayerEnt) (w : Weights) : RowSource :=
  let st := w.form.stripBytes l.k
  let b := slotBytes w.form.cap
  { form := w.form, k := l.k, ieee := tensorIeee s l.weight, flush := ouvutLayer s l.layer, outs := layerOutliers s l
    strip := fun r => ((w.data.drop (r * st)).take st, w.poisoned), ext := fun _ => ([], false)
    slot := fun g => ((w.raisins.drop (g * b)).take b, w.poisoned), outVal := fun r j => (w.outliers.getD (j * l.n + r) 0, w.poisoned)
    sz := fun _ => (w.scale, 0), szBad := fun _ => false, cb := codebookEntry fun c => (w.codebook.drop (32 * c)).take 32
    cbBad := fun _ => false }

/-- The zero-point column sums of a weights version (04 R114). -/
def Weights.withSums (s : State) (l : LayerEnt) (w : Weights) : Weights :=
  let src := weightSource s l w
  { w with sums := (List.range l.n).map fun n => columnSums (sumGrain w.form) (rowElems src n).1 }

/-- An operand as the products take it: vectors along the reduction, the scale and zero point of each and its column sums (R114), and
whether no rule states how the products are formed: its blocks, or its affine slices, do not run along the reduction (log entry 30). -/
structure Side where
  form : Form
  vecs : List (List Elem)
  sc : List (Option F32)
  zp : List Nat
  sums : List (List Int)
  off : Bool

/-- Scale of a row that the epilogue applies (R116). -/
def epiScale (src : RowSource) (r : Nat) : Option F32 := if src.form.mode = 3 ∨ src.form.mode = 4 then some (src.sz r).1 else none

/-- Rows `first` to `first + n - 1` with the reduction along them. -/
def sideRows (src : RowSource) (first n : Nat) : Side :=
  let rs := (List.range n).map fun i => first + i
  let vs := rs.map fun r => (rowElems src r).1
  { form := src.form, vecs := vs, sc := rs.map (epiScale src), zp := rs.map fun r => (src.sz r).2,
    sums := vs.map (columnSums (sumGrain src.form)), off := false }

/-- The same rows with the reduction across them. -/
def sideCols (src : RowSource) (first n : Nat) : Side :=
  let x := sideRows src first n
  let vs := (List.range src.k).map fun j => x.vecs.map fun v => v.getD j (heldElem 0 (some fZero))
  { form := src.form, vecs := vs, sc := List.replicate src.k (if src.form.mode = 3 then some (src.sz first).1 else none)
    zp := List.replicate src.k 0, sums := vs.map (columnSums (sumGrain src.form)), off := src.form.block != 0 || src.form.mode == 4 }

/-- Something read for these rows is poisoned (R42, R177). -/
def rowsPoison (src : RowSource) (first n : Nat) : Bool := (List.range n).any fun i => (rowElems src (first + i)).2

/-- Table 6.2 for an MV product: the path of low-precision weights. -/
def mvPath (af nt : Nat) : Nat := if af == 12 && decide (nt < 64) then 2 else 1

/-- Weights of at most four bits (Table 4.8). -/
def lowWeights (wf : Nat) : Bool := wf == 11 || wf == 13 || wf == 14

/-- The path the placement gives a layer at a rung (R155), or R120's for one row with weights of at most four bits. -/
def placedPath (s : State) (layer rung pass m : Nat) : Nat :=
  let rc := layerRecipe s layer
  let base := if 4 ≤ rung then 3 else match layerPl s layer with | some p => p.paths.getD rung 0 | none => 0
  if base = 0 ∧ m = 1 ∧ pass ≠ 2 ∧ lowWeights (Recipe.fmt rc rung 1) then
    let n := match layerEnt s layer with | some l => if pass = 0 then l.n else l.k | none => 0
    let t := match layerEnt s layer with | some l => (stageTiles s l.stage 0).length | none => 0
    mvPath (Recipe.fmt rc rung 0) ((splitOutputs t 1 n).foldl (fun a x => max a x.cc) 0)
  else base

/-- The path on which forms as they are read can run, given the placed one (R100, R101, Table 6.2; log entry 124). -/
def runPath (placed af wf : Nat) : Nat :=
  if placed = 3 then 3
  else if wf = 15 then 2
  else if 14 < af ∨ af = 0 ∨ wf = 0 ∨ 15 < wf then 3
  else if placed = 0 ∨ !lowWeights wf then 0
  else if placed = 2 ∧ af ≠ 12 then 1 else placed

/-- One output of an attempt: its value, accumulator overflows, whether it takes in a non-finite value (Table 5.9), and whether a
conversion on the way to it, that of ATTEND's P, had a surplus escape or gave a non-finite element (03 R82, R96). -/
structure Outp where
  y : F32
  overInt : Bool
  overFloat : Bool
  badIn : Bool
  surplus : Bool
  nonfin : Bool
  deriving DecidableEq, Repr

/-- What an attempt gives: the outputs in the rows they are stored in, the values before bias, and for each output the pass of its tile
in which an overflow of it is found. -/
structure AttemptOut where
  outs : List (List Outp)
  pre : List (List F32)
  seen : List (List Nat)

/-- One element with Ouvut's products (08 Table 8.12): group sums of sixteen, added in order; subnormal operands in BF16 (format 1) read as
zero. -/
def dotOuvut (fa fw : Nat) (sa sw : Option F32) (ps : List Pair) : Dot :=
  let flush (f : Nat) (e : Elem) : Fv :=
    match e.raw with | .fin n m x => if f = 1 ∧ flog2 m x < -126 then .fin n 0 0 else .fin n m x | v => v
  let group (g : List Pair) : F32 := g.foldl (fun a p => fadd a (rne ((flush fa p.a).mul (flush fw p.w)))) fZero
  let y := (chunks 16 ps).foldl (fun a g => fadd a (group g)) fZero
  let y := match sa with | some x => fmul y x | none => y
  let y := match sw with | some x => fmul y x | none => y
  { y := y, overInt := false, overFloat := false, terms := 0, badIn := ps.any Pair.bad }

/-- How one element of a product of two sides is formed. -/
def dotCfg (path cls : Nat) (a w : Side) (r c : Nat) : DotCfg :=
  { cls := cls, acc := accType a.form.fmt.toNat w.form.fmt.toNat cls, path := path, wf := w.form.fmt.toNat, seam := seamLen a.form w.form cls,
    z := if a.form.mode = 4 then a.zp.getD r 0 else 0, grain := sumGrain w.form, sums := w.sums.getD c [], sa := a.sc.getD r none,
    sw := w.sc.getD c none }

/-- One element of a product of two sides on a path. -/
def dotSides (ouvut : Bool) (path cls : Nat) (a w : Side) (r c : Nat) : Dot :=
  let ps := ((a.vecs.getD r []).zip (w.vecs.getD c [])).map fun p => { a := p.1, w := p.2 : Pair }
  if ouvut then dotOuvut a.form.fmt.toNat w.form.fmt.toNat (a.sc.getD r none) (w.sc.getD c none) ps
  else if path = 3 then dotExact ps
  else dotNarrow (dotCfg path cls a w r c) ps

/-- An element whose products no rule states: a free value of the operands that meet in it (log entry 30). -/
def dotFree (a w : Side) (r c : Nat) : Dot :=
  let ps := (a.vecs.getD r []).zip (w.vecs.getD c [])
  { y := Config.crossProduct (ps.map fun p => (p.1.val, p.2.val)), overInt := false, overFloat := false, terms := 0,
    badIn := ps.any fun p => { a := p.1, w := p.2 : Pair }.bad }

/-- A product of two sides, row by row; an element no rule fixes is a free value (log entry 30). -/
def dotMatrix (ouvut : Bool) (path cls : Nat) (a w : Side) (rows cols : Nat) : List (List Dot) :=
  let free := path ≠ 3 && !ouvut && (a.off || w.off || w.form.mode == 4)
  (List.range rows).map fun r => (List.range cols).map fun c => if free then dotFree a w r c else dotSides ouvut path cls a w r c

/-- Class of a product (R100); a repeat runs at least in the class of its rung (05 R147). -/
def runClass (af wf rung : Nat) (rep : Bool) : Nat := max (max (fmtClass af) (fmtClass wf)) (if rep then rung else 0)

/-- Cell column in which the sum of a logical column of an N slice lands last (R104). -/
def sumColumn (cls n : Nat) : Nat := if cls = 0 then n / 4 else classGang cls * n + classGang cls - 1

/-- Cycles that the epilogue of a share's entries waits for their folded terms (06 R170): terms are formed from the start of the share,
512 in a cycle, entry by entry; passes follow each other under R108. `ds` are the share's elements. -/
def foldWait (cls k cols : Nat) (ds : List (List Dot)) : Nat :=
  let n := ceilDiv k (classK cls)
  ((List.range (ceilDiv cols (classCols cls))).foldl (fun t i => (chunks 512 (ds.map fun r => (r.drop (i * classCols cls)).take (classCols cls))).foldl
    (fun t g =>
      let step := max g.length 128
      let last := t.1 + (n - 1) * step
      let u := g.zipIdx.foldl (fun u r => r.1.zipIdx.foldl (fun (u : Nat × Nat) e =>
        let cum := u.1 + e.1.terms
        (cum, if e.1.terms = 0 then u.2 else u.2 + (ceilDiv cum 512 - (last + r.2 + sumColumn cls e.2 + 128)))) u) (t.2.1, t.2.2)
      (t.1 + n * step, u.1, u.2)) t) (0, 0, 0)).2.2

/-- The same wait on the MVT: the sums of a row over an N slice of `cols` land together, `step` cycles after those before; `lead` of a
step pass before the next may start (06 R161, R165, R170). -/
def foldWaitMvt (cols step : Nat) (ds : List (List Dot)) : Nat :=
  ((List.range (ceilDiv ((ds.headD []).length) cols)).foldl (fun t i => ds.foldl (fun (t : Nat × Nat × Nat) r =>
    let land := t.1 + step - 6
    let u := ((r.drop (i * cols)).take cols).foldl (fun (u : Nat × Nat) d =>
      (u.1 + d.terms, if d.terms = 0 then u.2 else u.2 + (ceilDiv (u.1 + d.terms) 512 - land))) (t.2.1, t.2.2)
    (t.1 + step, u.1, u.2)) t) (0, 0, 0)).2.2

/-- Array cycles that one row over an N slice takes on path 1 with `w` windows (06 R161), and on path 2 (R165). -/
def mvtStep (path k cols b l : Nat) : Nat :=
  if path = 1 then 16 + ceilDiv k 128 * max 16 (ceilDiv (cols * b * 32) l) + 6 else 8 + ceilDiv (cols * k) 512 + 6

/-- Counters of one tile for its share of a product (04 Table 4.9, 06 Table 6.8), but for those of its passes. DESIGN CHOICE: the 16
cycles that build a row's first bank, with no lookup yet to wait, do not count in MVT_BUILD_BOUND_CYCLES (R161, R172; log entry 146). -/
def countShare (path cls af wf k tile : Nat) (x : Share) (ds : List (List Dot)) (s : State) : State :=
  if x.rc = 0 ∨ x.cc = 0 then s
  else
    let terms := ds.foldl (fun n r => r.foldl (fun n d => n + d.terms) n) 0
    let s :=
      match path with
      | 0 => s
      | 1 =>
        let l := if af == 2 || af == 8 then 256 else 512
        let w := ceilDiv k 128
        let b := fmtWidth wf
        (List.range (ceilDiv x.cc 4096)).foldl (fun s i =>
          let ns := min 4096 (x.cc - 4096 * i)
          let look := ceilDiv (ns * b * 32) l
          let s := count (tileCtr tile 16) (x.rc * (16 + w * max 16 look + 6)) s
          let s := count (tileCtr tile 17) (x.rc * (w * ns * b * 32)) s
          count (tileCtr tile 18) (x.rc * (w * (16 - look))) s) s
      | 2 =>
        count (tileCtr tile 17) (x.rc * x.cc * k) (count (tileCtr tile 16) (x.rc * (8 + ceilDiv (x.cc * k) 512 + 6)) s)
      | _ =>
        count (tileCtr tile 22) (x.rc * x.cc * k) (count (tileCtr tile 21) (ceilDiv (x.rc * x.cc * k) 512) s)
    if terms = 0 then s
    else
      let l := if af == 2 || af == 8 then 256 else 512
      let cols := if path = 1 then min 4096 x.cc else x.cc
      let wait := if path = 0 then foldWait cls k x.cc ds else foldWaitMvt cols (mvtStep path k cols (fmtWidth wf) l) ds
      let s := if path ≤ 2 then count (tileCtr tile 24) wait s else s
      count (tileCtr tile 23) terms (count (tileCtr tile 22) terms (count (tileCtr tile 21) (ceilDiv terms 512) s))

/-- The recipe and layer that a command's passes carry (R118). -/
def tagOf (s : State) (layer cls acc : Nat) : BitVec 34 := passTag cls acc (layerRecipeId s layer) layer

/-- One tile's work in a product: its passes on path 0, as many as `lim` gives it, and the counters; an entry that overflows at several
seams counts once in CA_ACC_OVERFLOW (R123; log entry 122). `again` lists tiles that found a parity error before. -/
def tileProduct (layer path cls : Nat) (again : List Nat) (lim : Share → Option Nat) (a w : Side) (k : Nat) (ds : List (List Dot))
    (x : Share × Nat) (s : State) : State :=
  let af := a.form.fmt.toNat
  let wf := w.form.fmt.toNat
  let mine := ((ds.drop x.1.r0).take x.1.rc).map fun r => (r.drop x.1.c0).take x.1.cc
  let lost := (mine.flatMap fun r => r.filter fun d => d.overInt || d.overFloat).length
  let s :=
    if path = 0 then
      runShare (again.contains x.2) (lim x.1) x.2 (tagOf s layer cls (accType af wf cls)) a.form w.form
        (((a.vecs.zip a.zp).drop x.1.r0).take x.1.rc) (((w.vecs.zip w.sums).drop x.1.c0).take x.1.cc) k s
    else s
  let s := countShare path cls af wf k x.2 x.1 mine s
  if path = 1 ∨ path = 2 then count (tileCtr x.2 7) lost s else s

/-- The tiles' work in a product, in ascending tile order. -/
def tilesProduct (layer path cls : Nat) (again : List Nat) (lim : Share → Option Nat) (a w : Side) (k : Nat) (xs : List (Share × Nat))
    (ds : List (List Dot)) (s : State) : State :=
  xs.foldl (fun s x => tileProduct layer path cls again lim a w k ds x s) s

/-- The first K slice in which an element's entry overflows. -/
def lossSlice (c : DotCfg) (k : Nat) (ps : List Pair) : Option Nat :=
  (List.range (ceilDiv k (classK c.cls))).find? fun j => (seams c entry0 0 (ps.take ((j + 1) * classK c.cls))).lost

/-- The pass of its tile in which an overflow of output (r, c) is found: that of the seam at which its entry overflows, else the last one
of its chain, after which it leaves the epilogue (R115, R116). -/
def foundAt (path cls : Nat) (a w : Side) (k : Nat) (x : Share) (r c : Nat) (lost : Bool) : Nat :=
  if path ≠ 0 then 0
  else
    let ps := ((a.vecs.getD r []).zip (w.vecs.getD c [])).map fun p => { a := p.1, w := p.2 : Pair }
    let last := ceilDiv k (classK cls) - 1
    passAt cls x.rc k (r - x.r0) (c - x.c0) + (if lost then (lossSlice (dotCfg path cls a w r c) k ps).getD last else last)

/-- Flip rows and columns of a matrix with `n` columns. -/
def flip {α : Type} (n : Nat) (d : α) (m : List (List α)) : List (List α) := (List.range n).map fun j => m.map fun r => r.getD j d

/-- What an instance writes and who owns it: its command's layer, tile shares by replica, output operand, role and micro-batch.
`swap` tells that the output is stored with its columns as strips, `reps` which replicas run it (02 R52). -/
structure Instn where
  layer : Nat
  stage : Nat
  out : Operand
  beat : Nat
  rows : Nat
  cols : Nat
  swap : Bool
  micro : Nat
  recompute : Bool
  dry : Bool
  reps : List Nat

/-- An instance runs in Ouvut mode (08 R246): its layer, or where it names none its stage, is of an Ouvut graph. -/
def instOuvut (s : State) (i : Instn) : Bool := ouvutLayer s i.layer || ouvutStage s i.stage

/-- Form in which an instance at a rung writes its output (R125, R147, 10 R290). -/
def instForm (s : State) (i : Instn) (t rung : Nat) (rep : Bool) : Form :=
  match governor s t with
  | none => entryForm s t
  | some g =>
    if instOuvut s i || ouvutLayer s g.1.layer then ouvutForm
    else
      let role := match tensorEnt s t with | some e => if e.role = 2 then 2 else 0 | none => 0
      if 4 ≤ rung then roleForm (layerRecipe s i.layer) 4 role
      else if rep then roleForm (layerRecipe s i.layer) rung role
      else tensorForm s t

/-- Role under which a tensor's conversions count (05 R131). -/
def statRole (s : State) (t : Nat) : Nat := match tensorEnt s t with | some e => if e.role ≤ 2 then e.role else 0 | none => 0

/-- The tensor's conversions round stochastically (03 R91). -/
def gradRole (s : State) (t : Nat) : Bool := match tensorEnt s t with | some e => e.role == 2 | none => false

/-- How an instance's conversion counts: by the tile that owns the output. -/
def instConv (s : State) (i : Instn) (t rung : Nat) (tiles : List Nat) : Conv :=
  let sh := splitOutputs tiles.length i.rows i.cols
  { seed := seedNow s, step := (stepNo s).toNat, micro := i.micro, grad := gradRole s t,
    ieee := Recipe.ieee (layerRecipe s i.layer), ouvut := instOuvut s i || ouvutTensor s t
    owner := if i.layer = noLayer || i.recompute || i.dry then none else some (i.layer, statRole s t, layerRecipeId s i.layer, rung)
    unit := fun r c =>
      let p := if i.swap then (c, r - i.out.first) else (r - i.out.first, c)
      tiles.getD (shareOf sh p.1 (p.2)) 0 }

/-- Cause codes of Table 5.10 with the order in which Table 5.9 decides. -/
def causeOf (fl inp int out rai : Bool) : Nat := if fl then 3 else if inp then 5 else if int then 2 else if out then 1 else if rai then 4 else 0

/-- Repeat rung (Table 5.9); `none` at rung 4. -/
def repeatRung (rung cause : Nat) (float : Bool) : Option Nat :=
  if 4 ≤ rung then none
  else if cause = 3 ∨ cause = 5 then some 4
  else if cause = 2 ∧ rung ≤ 2 then some 3
  else if rung = 2 ∧ float then some 4
  else some (rung + 1)

/-- Payload of Table 5.10. -/
def repeatPayload (layer recipe tile frm dst cause micro : Nat) : W64 :=
  at' 64 48 layer ||| at' 64 34 recipe ||| at' 64 25 tile ||| at' 64 22 frm ||| at' 64 19 dst ||| at' 64 16 cause ||| at' 64 0 (micro % 65536)

/-- One more repeat in a record (R150). -/
def StatRec.repeat (top : Bool) (r : StatRec) : StatRec :=
  let r := (r.flag 1)
  let r := if top then r.flag 2 else r
  { r with repeats := satInc r.repeats }

/-- The overflow of one converted attempt in stored positions: per position its cause, 0 for none. -/
def causesOf (f : Form) (k0 : Bool) (o : AttemptOut) (c : ConvOut) : List (List Nat) :=
  (o.outs.zip c.rows).map fun p => (p.1.zip p.2.2.elems).zipIdx.map fun q =>
    let nf := !(fv q.1.1.y).finite || encNonfinite f p.2.2.scales q.2 q.1.2 || q.1.1.nonfin
    if k0 then 0 else causeOf q.1.1.overFloat (nf && q.1.1.badIn) q.1.1.overInt nf (q.1.2.out == .surplus || q.1.1.surplus)

/-- Passes that a tile starts in an attempt whose overflow is noticed: those up to the first that finds one (R122; log entry 123). -/
def noticeAt (cs : List (List Nat)) (seen : List (List Nat)) : Option Nat :=
  let xs := (cs.zip seen).flatMap fun p => ((p.1.zip p.2).filter fun q => q.1 != 0).map fun q => q.2 + 1
  xs.foldl (fun m n => some (match m with | some x => min x n | none => n)) none

/-- The cause that decides an attempt, and the lowest-numbered tile that found an overflow (R150). -/
def decideCause (unit : Nat → Nat → Nat) (cs : List (List Nat)) : Option (Nat × Nat) :=
  let found := cs.zipIdx.flatMap fun p => (p.1.zipIdx.filter fun q => q.1 != 0).map fun q => (q.1, unit p.2 q.2)
  match ([3, 5, 2, 1, 4].find? fun c => found.any fun x => x.1 == c) with
  | none => none
  | some c => some (c, found.foldl (fun t x => min t x.2) 4096)

/-- ACC_OVF events of an attempt whose first stored row is `first` (05 Table 5.3). -/
def countOver (first : Nat) (cv : Conv) (o : AttemptOut) (s : State) : State :=
  match cv.owner with
  | none => s
  | some (layer, role, recipe, rung) =>
    o.outs.zipIdx.foldl (fun s p => p.1.zipIdx.foldl (fun s q =>
      if q.1.overInt || q.1.overFloat then updStat (statKey layer role (cv.unit (first + p.2) q.2)) recipe rung (StatRec.event 6 1) s else s) s) s

/-- How an instance's attempts ended: repeats run, the rung of the kept attempt, and each replica's outputs. -/
structure Kept where
  repeats : Nat
  rung : Nat
  outs : List (Nat × AttemptOut)

/-- The captures of an attempt that is not kept are freed; what it dropped stays counted (R152). -/
def freeCaptures (was : List Capture) (s : State) : State := { s with prc := { s.prc with captures := was } }

/-- ATTEND's conversion of P gave a non-finite element in a kept attempt: the layer's non-finite flag, at its lowest tile (03 R96). -/
def noteNonfin (cv : Conv) (o : AttemptOut) (s : State) : State :=
  markMissed cv.owner (cv.unit 0 0) (o.outs.any fun r => r.any (·.nonfin)) s

/-- The attempts of an instance (R122, R146-R148). `mk` forms the outputs of a replica at a rung, `work` is what its tiles do for them, up
to the pass in which an overflow is noticed, `cap` captures its selected output tiles; `float` is Table 5.9's floating-point operand. The
notice reaches every tile after the same pass (log entry 123). -/
def attempts (i : Instn) (float : Bool) (mk : Nat → Bool → Nat → AttemptOut) (work : Nat → Bool → Nat → Option Nat → State → State)
    (cap : Nat → Nat → AttemptOut → State → State) : Nat → Nat → Nat → State → Kept × State
  | 0, rung, n, s => ({ repeats := n, rung := rung, outs := [] }, s)
  | fuel + 1, rung, n, s =>
    let t := operandTensor s i.out
    let form := instForm s i t rung (0 < n)
    let was := s.prc.captures
    let run := i.reps.map fun rep => (rep, mk rung (0 < n) rep)
    let conv := run.filterMap fun p =>
      match locate s i.out i.beat p.1 (some form) with
      | some l =>
        let cv := instConv s i t rung (stageTiles s i.stage p.1)
        some (p.2, l, cv, convertRows cv s l i.out.first (p.2.outs.map fun r => r.map fun x => fv x.y))
      | none => none
    let found := conv.filterMap fun p =>
      decideCause (fun r c => p.2.2.1.unit (i.out.first + r) c) (causesOf form i.dry p.1 p.2.2.2)
    let cause := [3, 5, 2, 1, 4].find? fun c => found.any fun x => x.1 == c
    let stop := (cause.bind fun c => if instOuvut s i then none else repeatRung rung c float).bind fun _ =>
      noticeAt (conv.flatMap fun p => causesOf form i.dry p.1 p.2.2.2) (conv.flatMap fun p => p.1.seen)
    let s := run.foldl (fun s p => cap rung p.1 p.2 (work rung (0 < n) p.1 stop s)) s
    let s := conv.foldl (fun s p => countOver i.out.first p.2.2.1 p.1 (countConv p.2.2.1 p.2.1 p.2.2.2 s)) s
    let keep (s : State) : State :=
      conv.foldl (fun s p =>
        storeRows p.2.1 p.2.2.2 (if i.dry then s else noteNonfin p.2.2.1 p.1 (markNonfinite p.2.2.1 p.2.1 p.2.2.2 s))) s
    let kept : Kept := { repeats := n, rung := rung, outs := run }
    match cause with
    | none => (kept, keep s)
    | some cause =>
      if instOuvut s i then (kept, keep s)
      else
        let tile := found.foldl (fun t x => min t x.2) 4096
        let rid := layerRecipeId s i.layer
        let nxt := repeatRung rung cause float
        let pay := repeatPayload i.layer rid tile rung (nxt.getD 7) cause i.micro
        match nxt with
        | none => (kept, raise 0x21 pay (keep s))
        | some r =>
          let s := if i.recompute || i.layer = noLayer then s
            else updStat (statKey i.layer (statRole s t) tile) rid rung (StatRec.repeat (r == 4)) s
          attempts i float mk work cap fuel r (n + 1) (freeCaptures was (raise 0x21 pay s))

/-- SHADOW_K in force for a layer (05 Table 5.2, R152, 11 Table 11.11): 0 where no output tile is selected. -/
def shadowK (s : State) (layer : Nat) : Nat :=
  if !s.prc.shadowEn then 0
  else
    match (SMap.get s.prc.shadow layer 0).toNat with
    | 0 => Recipe.shadowK (layerRecipe s layer)
    | 255 => 0
    | k => k

/-- Bytes of captures a tile holds. -/
def captureBytes (s : State) (tile : Nat) : Nat := (s.prc.captures.filter fun c => c.tile == tile).foldl (fun n c => n + c.bytes) 0

/-- Capture one selected output tile, or count it as dropped (R152). -/
def captureTile (c : Capture) (s : State) : State :=
  let room := match s.ple.placement with | some p => (p.sram.find? fun x => x.tile == c.tile).elim 0 (·.shadow) | none => 0
  if decide (captureBytes s c.tile + c.bytes ≤ room) then { s with prc := { s.prc with captures := s.prc.captures ++ [c] } }
  else updStat (statKey c.layer c.role c.tile) c.recipe c.rung (fun r => { r with shadowDropped := satInc r.shadowDropped }) s

/-- Bytes that the strips of some vectors take, with 8 bytes for each outlier and raisin entry (log entry 125). -/
def vecBytes (f : Form) (vs : List (List Elem)) : Nat :=
  vs.foldl (fun n v => n + f.stripBytes v.length + 8 * (v.filter fun e => e.held).length) 0

/-- Captures of the share of one tile (R151): output tiles of 16 x 16 at multiples of 16; one that the share or the output's edge cuts
is captured as far as it reaches (log entry 125). -/
def captureShare (i : Instn) (k rung tile : Nat) (a w : Side) (pre : List (List F32)) (sh : Share) (s : State) : State :=
  let t := operandTensor s i.out
  let kout := tensorK s t
  let span (lo n : Nat) : List (Nat × Nat) :=
    if n = 0 then [] else (List.range ((lo + n - 1) / 16 + 1 - lo / 16)).map fun j =>
      let x := max lo (16 * (lo / 16 + j))
      (x, min (lo + n) (16 * (lo / 16 + j) + 16) - x)
  (span sh.r0 sh.rc).foldl (fun s r => (span sh.c0 sh.cc).foldl (fun s c =>
    let flat := if i.swap then (i.out.first + c.1) * kout + r.1 else (i.out.first + r.1) * kout + c.1
    let u := sprinkle (seedNow s) t flat (stepNo s).toNat i.micro 0 2
    if u.toNat % 2 ^ k ≠ 0 then s
    else
      let av := (a.vecs.drop r.1).take r.2
      let wv := (w.vecs.drop c.1).take c.2
      let ys := (List.range r.2).flatMap fun x => (List.range c.2).map fun y =>
        let p := if i.swap then (c.1 + y, r.1 + x) else (r.1 + x, c.1 + y)
        (pre.getD p.1 []).getD p.2 fZero
      captureTile { tile := tile, layer := i.layer, role := statRole s t, recipe := layerRecipeId s i.layer, rung := rung
                    bytes := vecBytes a.form av + vecBytes w.form wv + 4 * (r.2 * c.2), ys := ys
                    rows := av.map fun v => v.map (·.val), cols := wv.map fun v => v.map (·.val) } s) s) s

/-- Captures of an attempt of a replica. -/
def captureAll (i : Instn) (rung rep : Nat) (a w : Side) (o : AttemptOut) (s : State) : State :=
  let k := shadowK s i.layer
  if i.recompute || i.dry || i.layer = noLayer || k = 0 || 4 ≤ rung || instOuvut s i || isExact s i.layer then s
  else
    let tiles := stageTiles s i.stage rep
    ((splitOutputs tiles.length i.rows i.cols).zip tiles).foldl (fun s p => captureShare i k rung p.2 a w o.pre p.1 s) s

/-- The flags of one tile join those found so far, the retried and the faulted tiles, and are cleared. -/
def takeTileFlag (acc : List Nat × List Nat × State) (t : Nat) : List Nat × List Nat × State :=
  match SMap.find acc.2.2.tiles.array t with
  | some x =>
    (acc.1 ++ (if x.retried then [t] else []), acc.2.1 ++ (if x.faulted then [t] else []),
      setArray t { x with retried := false, faulted := false } acc.2.2)
  | none => acc

/-- A command that found a parity error on more than one tile ends in FAULT: each of those tiles has failed it (R121, 15 Table 15.11). -/
def failTile (s : State) (tile : Nat) : State :=
  let n := noteFault 0 tile 5 hourUnits (now s) s
  if 3 ≤ n.1 then condemn 0 tile 5 n.2 else n.2

/-- What passes found on a stage's tiles before this command (R119, R121): retried, faulted; the marks are taken. A second parity error in
the command, on whichever tile, makes it a fault of all that found one. -/
def takeTileFlags (stage : Nat) (s : State) : List Nat × List Nat × State :=
  let x := (List.range (stageReplicas s stage)).foldl (fun acc r => (stageTiles s stage r).foldl takeTileFlag acc) ([], [], s)
  let more := if 2 ≤ x.1.length then x.1.filter fun t => !x.2.1.contains t else []
  (x.1, x.2.1 ++ more, more.foldl failTile x.2.2)

/-- Poison the output of a command on its replicas (02 R42); its rows carry the form it would have been written in. -/
def poisonOut (i : Instn) (rung n : Nat) (s : State) : State :=
  let form := instForm s i (operandTensor s i.out) rung false
  i.reps.foldl (fun s rep =>
    match locate s i.out i.beat rep (some form) with
    | some l => setHalf l.key { form := some form, poisoned := (halfAt s l.key).poisoned } (poisonRows l i.out.first n s)
    | none => s) s

/-- Byte in its strip at which element `k` starts, and past which it ends (R74, R75). -/
def elemStart (f : Form) (k : Nat) : Nat := if f.block = 0 then k * fmtWidth f.fmt.toNat / 8 else k / f.block * f.blockBytes
def elemEnd (f : Form) (k : Nat) : Nat :=
  if f.block = 0 then ceilDiv ((k + 1) * fmtWidth f.fmt.toNat) 8 else (k / f.block + 1) * f.blockBytes

/-- Poison a tile's outputs (R119, R121). -/
def poisonShare (l : Loc) (i : Instn) (x : Share) (s : State) : State :=
  let r0 := if i.swap then x.c0 else x.r0
  let rc := if i.swap then x.cc else x.rc
  let c0 := if i.swap then x.r0 else x.c0
  let cc := if i.swap then x.rc else x.cc
  if cc = 0 then s
  else
    let a := elemStart l.form c0
    (List.range rc).foldl (fun s r =>
      devPoisonRange (l.row s (i.out.first + r0 + r) + a) (elemEnd l.form (c0 + cc - 1) - a) s) s

/-- Poison the outputs of a command on the tiles that faulted. -/
def poisonTiles (i : Instn) (tiles : List Nat) (s : State) : State :=
  i.reps.foldl (fun s rep =>
    let ts := stageTiles s i.stage rep
    match locate s i.out i.beat rep none with
    | some l => (((splitOutputs ts.length i.rows i.cols).zip ts).filter fun x => tiles.contains x.2).foldl (fun s x => poisonShare l i x.1 s) s
    | none => s) s

/-- The scale entries that the conversion of an output reads are poisoned (R177). -/
def outPoison (s : State) (i : Instn) (rung rep n : Nat) : Bool :=
  match locate s i.out i.beat rep (some (instForm s i (operandTensor s i.out) rung false)) with
  | some l => (List.range n).any fun r => match l.entry (i.out.first + r) with | some a => devPoison s a 8 | none => false
  | none => false

/-- A raisin is missing in what a command reads (R80): its layer's non-finite flag, in the record of its lowest-numbered tile. -/
def noteMissed (i : Instn) (rung : Nat) (missed : Bool) (s : State) : State :=
  let t := operandTensor s i.out
  markMissed (instConv s i t rung []).owner (((stageTiles s i.stage 0).head?).getD 0) missed s

end Sys2Proof.Machine
end

