-- ==== Sys2Proof/Machine/Precision.lean ====
section
/-!
DEFINITION. Recipes, statistics windows, steering, PRECISION and scale adaptation (05 R129-R144), and the commands SET_RECIPE,
READ_STATS, SHADOW_CFG (11 Table 11.11) and SHADOW_CHECK (05 R153).
-/
namespace Sys2Proof.Machine

/-- The conditions of R129 for one rung in use. -/
def rungOk (rc : BitVec 512) (r : Nat) : Bool :=
  let w := Recipe.fmt rc r 1
  let a := Recipe.fmt rc r 0
  let g := Recipe.fmt rc r 2
  let cb4 := w == 15 && a == 12 && r == 1
  (cb4 || max (fmtClass w) (fmtClass a) == r) && decide (fmtClass g ≤ r) && !isAffineFmt g && !isAffineFmt w &&
    !(isAffineFmt a && isFloatFmt w)

/-- A recipe that SET_RECIPE accepts (R129). -/
def recipeOk (rc : BitVec 512) : Bool :=
  let lo := Recipe.lo rc
  let hi := Recipe.hi rc
  let k := Recipe.shadowK rc
  Recipe.valid rc && decide (lo ≤ Recipe.start rc) && decide (Recipe.start rc ≤ hi) && decide (hi ≤ 4) &&
    ((List.range 4).all fun r => decide (r < lo) || rungOk rc r) && decide (Recipe.topOut rc ≤ 1) && decide (Recipe.outlierCh rc ≤ 64) &&
    (k == 0 || (decide (4 ≤ k) && decide (k ≤ 16))) && decide (1 ≤ Recipe.cleanSteps rc) && decide (1 ≤ Recipe.amaxLen rc) &&
    decide (Recipe.amaxLen rc ≤ 16)

/-- A pending recipe takes effect (R130): its steering state restarts. `step` is the step whose boundary this is. -/
def applyRecipe (step : Option W32) (id : Nat) (rc : BitVec 512) (s : State) : State :=
  let was := steerOf s id
  let lost := match SMap.find s.prc.decided id with | some d => decide (1 ≤ d.action.toNat) && decide (d.action.toNat ≤ 3) | none => false
  let now : Steer :=
    { lastChange := if was.rung.toNat = Recipe.start rc then was.lastChange else step.getD was.lastChange
      clean := 0, rung := BitVec.ofNat 3 (Recipe.start rc), action := if lost then 5 else 4 }
  let s := { s with prc := { s.prc with
      recipes := SMap.set s.prc.recipes id rc 0, steer := SMap.set s.prc.steer id now resetSteer
      decided := SMap.del s.prc.decided id, bootstrap := insertNat id s.prc.bootstrap } }
  trace 0x07 0xB00 0 (BitVec.ofNat 64 id) (BitVec.ofNat 64 now.action.toNat) s

/-- All pending recipes take effect. -/
def applyRecipes (step : Option W32) (s : State) : State :=
  let s := s.prc.recipeNext.foldl (fun s p => applyRecipe step p.1 p.2 s) s
  { s with prc := { s.prc with recipeNext := [] } }

/-- A 512-bit structure from host memory. -/
def hostBlock (s : State) (a : Nat) : BitVec 512 := BitVec.ofNat 512 (hostNat s a 64)

/-- Bits of Table 5.2 that are not reserved: a 1 written to another is ignored (00 R7). -/
def recipeMask : BitVec 512 :=
  BitVec.ofNat 512 (leNat (wordsBytes [0x00FFFFFF00FFFFFF#64, 0x00FFFFFF00FFFFFF#64, 0xFFFFFFFFFFFFFFFF#64, 0xFFFFFFFFFFFFFFFF#64,
    0xFFFFFFFFFFFFFFFF#64, 0xFFFF#64, 0#64, 0x8000000000000000#64]))

/-- The effect of SET_RECIPE (R129, R130). -/
def setRecipeBody (_q : Nat) (r : Ring) (c : Cmd) (s : State) : Phase × State :=
  let rc := hostBlock s c.desc.w3.toNat &&& recipeMask
  if !hostOk s r.context.toNat then (.finished (stResult stAccess), s)
  else if !recipeOk rc then (.finished (descErr 0x09 3), { s with prc := { s.prc with recipeReject := true } })
  else
    let s := { s with prc := { s.prc with recipeNext := SMap.put s.prc.recipeNext (bits c.desc.w2 63 50) rc } }
    (.finished okResult, if s.tkc.running || s.tkc.armed then s else applyRecipes (s.upd.seed.map fun _ => stepNo s) s)

/-- SET_RECIPE (R129, R130). -/
def execSetRecipe (ring : Nat) (d : Desc) (s : State) : Host.Outcome State Fault Refusal :=
  .next (runCmd opSetRecipe { check := fun _ _ _ => none, body := setRecipeBody } ring d s)

/-- The bytes of a LAYER_STATS record (Table 5.3). -/
def statBytes (key : Nat) (r : StatRec) : List Byte :=
  let w0 : W64 := at' 64 32 r.step.toNat ||| at' 64 16 (key / 16384 % 65536) ||| at' 64 14 (key / 4096 % 4) ||| at' 64 0 (key % 4096)
  let w1 : W64 := at' 64 50 r.recipe ||| at' 64 47 r.rung ||| at' 64 32 r.flags.toNat ||| at' 64 16 r.repeats.toNat
  let w9 : W64 := at' 64 32 r.shadowChecks.toNat ||| r.shadowDisagree.setWidth 64
  let w11 : W64 := at' 64 32 r.obsMax.toNat ||| r.obsMin.setWidth 64
  let hist (i : Nat) : W64 := at' 64 32 (SMap.get r.expHist (2 * i + 1) 0) ||| at' 64 0 (SMap.get r.expHist (2 * i) 0)
  let sh (i : Nat) : W64 := (List.range 4).foldl (fun w j => w ||| at' 64 (16 * j) (SMap.get r.shadowHist (4 * i + j) 0)) 0
  wordsBytes ([w0, w1] ++ r.events.map (fun e => e.setWidth 64) ++ [w9, at' 64 32 r.shadowDropped.toNat, w11] ++
    (List.range 16).map hist ++ (List.range 4).map sh)

/-- A steering word (Table 5.6). -/
def steerWord (x : Steer) : W64 :=
  at' 64 32 x.lastChange.toNat ||| at' 64 16 x.clean.toNat ||| at' 64 8 x.rung.toNat ||| at' 64 0 x.action.toNat

/-- Mean m of a table's stream factors (07 R202, R242): the last one formed. -/
def streamWord (s : State) (t : Nat) : W64 :=
  match SMap.find s.mem.streams t with
  | some x => at' 64 40 t ||| at' 64 32 x.l ||| x.last.setWidth 64
  | none => at' 64 40 t

/-- Place of a record among the slots: layer, then unit, then role (10 R298). -/
def slotOrder (k : Nat) : Nat := k / 16384 * 16384 + k % 4096 * 4 + k / 4096 % 4

/-- What READ_STATS copies, in slot order, or in ascending order of recipe or table (log entry 33). -/
def readStats (s : State) (what first n : Nat) : List Byte :=
  let inR (k : Nat) : Bool := decide (first ≤ k) && decide (k < first + n)
  let recs (summary : Bool) : List Byte :=
    (sortBy (fun a b => decide (slotOrder a.1 ≤ slotOrder b.1))
      (s.prc.closed.filter fun p => inR (p.1 / 16384) && (p.1 % 4096 == 0xFFF) == summary)).flatMap fun p => statBytes p.1 p.2
  match what with
  | 0 => recs false
  | 1 => recs true
  | 2 => wordsBytes (((List.range n).filter fun i => first + i < 16384).map fun i => steerWord (steerOf s (first + i)))
  | _ => wordsBytes ((((match s.ple.placement with | some p => p.tables | none => []).map fun x : TablePl => x.table).filter inR).map (streamWord s))

/-- The effect of READ_STATS. -/
def readStatsBody (_q : Nat) (r : Ring) (c : Cmd) (s : State) : Phase × State :=
  let d := c.desc
  let bs := (readStats s (bits d.w3 63 62) (bits d.w4 63 48) (bits d.w4 47 32)).take (bits d.w3 31 0)
  if !hostOk s r.context.toNat then (.finished (stResult stAccess), s)
  else (.finished { okResult with detail := BitVec.ofNat 32 bs.length }, hostWrite s d.w2.toNat bs)

/-- READ_STATS (R134). -/
def execReadStats (ring : Nat) (d : Desc) (s : State) : Host.Outcome State Fault Refusal :=
  .next (runCmd opReadStats { check := fun _ _ _ => none, body := readStatsBody } ring d s)

/-- Checks of SHADOW_CFG (Table 11.11). -/
def shadowCheckCfg (s : State) (_r : Ring) (c : Cmd) : Option Result :=
  let k := bits c.desc.w2 7 0
  if (layerEnt s (bits c.desc.w2 63 48)).isNone then some (descErr 0x05 2)
  else if k = 0 ∨ (4 ≤ k ∧ k ≤ 16) ∨ k = 0xFF then none else some (descErr 0x07 2)

/-- SHADOW_CFG (Table 11.11): from the next step boundary. -/
def shadowCfgBody (_ : Nat) (_ : Ring) (c : Cmd) (s : State) : Phase × State :=
  let next := SMap.put s.prc.shadowNext (bits c.desc.w2 63 48) (BitVec.ofNat 8 (bits c.desc.w2 7 0))
  (.finished okResult, { s with prc := { s.prc with shadowNext := next } })

def execShadowCfg (ring : Nat) (d : Desc) (s : State) : Host.Outcome State Fault Refusal :=
  .next (runCmd opShadowCfg { check := shadowCheckCfg, body := shadowCfgBody } ring d s)

/-- SHADOW_CFG's overrides take effect at a boundary. -/
def applyShadow (s : State) : State :=
  { s with prc := { s.prc with
      shadow := s.prc.shadowNext.foldl (fun m p => SMap.set m p.1 p.2 0) s.prc.shadow, shadowNext := [] } }

/-- The largest of some magnitudes. -/
def maxAbs (xs : List Fv) : Fv := xs.foldl (fun m x => if m.lt x.abs then x.abs else m) (.fin false 0 0)

/-- Result of a shadow check: its histogram bin, and whether it disagrees (R153; log entry 34). -/
def shadowResult (tol : Fv) (ys rs : List F32) : Nat × Bool :=
  let ps := ys.zip rs
  let mixed := ps.any fun p => (fv p.1).finite != (fv p.2).finite
  let fin := ps.filter fun p => (fv p.1).finite && (fv p.2).finite
  let num := maxAbs (fin.map fun p => (fv p.1).add (fv p.2).negate)
  let den := maxAbs (fin.map fun p => fv p.2)
  if mixed then (15, true)
  else if den.isZero then (if num.isZero then (0, false) else (15, tol.lt (.fin false 1 0)))
  else
    let below (k : Int) : Bool := num.lt (den.scale k)
    let bin := ((List.range 15).find? fun j : Nat => below (-30 + 2 * (j : Int))).getD 15
    (bin, (tol.mul den).lt num)

/-- The reference outputs of a capture (R153). -/
def shadowRef (c : Capture) : List F32 :=
  c.rows.flatMap fun a => c.cols.map fun w => (a.zip w).foldl (fun t p => ffma p.1 p.2 t) fZero

/-- SHADOW_CHECK (R153): the tile's oldest capture. -/
def execShadowCheck (tile : Nat) (s : State) : Host.Outcome State Fault Refusal :=
  match s.prc.captures.find? fun c => c.tile == tile with
  | some c =>
    if !serving s then .next s
    else
      let r := shadowResult (fp16.decode (Recipe.shadowTol (recipeAt s c.recipe))) c.ys (shadowRef c)
      let s := serveBg 1 (0x1000 + tile) { s with prc := { s.prc with captures := s.prc.captures.erase c } }
      let s := count (tileCtr tile 26) (ceilDiv (c.ys.length * (c.rows.headD []).length) 512) s
      let s := updStat (statKey c.layer c.role tile) c.recipe c.rung (fun x =>
        let x := if r.1 = 15 then x.flag 3 else x
        { x with shadowChecks := satInc x.shadowChecks, shadowDisagree := if r.2 then satInc x.shadowDisagree else x.shadowDisagree,
                 shadowHist := SMap.alter x.shadowHist r.1 0 fun n => min 65535 (n + 1) }) s
      if r.1 = 15 then
        let n := noteFault 0 tile 6 1024 (stepNo s).toNat s
        .next (if 4 ≤ n.1 then condemn 0 tile 6 n.2 else n.2)
      else .next s
  | none => .next s

/-- Sum of unit records of one layer and role (R134). -/
def StatRec.merge (a b : StatRec) : StatRec :=
  { a with
    flags := a.flags ||| b.flags, repeats := satAdd a.repeats b.repeats
    events := (a.events.zip b.events).map fun p => p.1 + p.2
    shadowChecks := a.shadowChecks + b.shadowChecks, shadowDisagree := a.shadowDisagree + b.shadowDisagree
    shadowDropped := a.shadowDropped + b.shadowDropped, obsMax := fmax a.obsMax b.obsMax, obsMin := fmin a.obsMin b.obsMin
    expHist := b.expHist.foldl (fun m p => SMap.alter m p.1 0 fun n => min (2 ^ 32 - 1) (n + p.2)) a.expHist
    shadowHist := b.shadowHist.foldl (fun m p => SMap.alter m p.1 0 fun n => min 65535 (n + p.2)) a.shadowHist }

/-- Summaries of a window, keyed as records with unit 0xFFF. -/
def summaries (m : SMap StatRec) : SMap StatRec :=
  m.foldl (fun t p =>
    let k := p.1 / 4096 * 4096 + 0xFFF
    SMap.put t k (match SMap.find t k with | some x => x.merge p.2 | none => p.2)) []

/-- Event counts of a record by place in Table 5.3. -/
def StatRec.n (i : Nat) (r : StatRec) : Nat := (r.events.getD i 0).toNat

/-- c out of n exceeds threshold t (R135); 0 disables. -/
def exceeds (c t n : Nat) : Bool := t != 0 && decide (t * n < c * 65536)

/-- At most a quarter of the threshold (R135). -/
def quarter (c t n : Nat) : Bool := t == 0 || decide (c * 65536 * 4 ≤ t * n)

/-- Summary records of a recipe's layers. -/
def recipeSums (m : SMap StatRec) (id : Nat) : List StatRec := (m.filter fun p => p.2.recipe == id).map (·.2)

/-- The recipe's layers converted something. -/
def recipeActive (rs : List StatRec) : Bool := rs.any fun r => r.n 0 != 0

/-- PROMOTE of a recipe (R135). -/
def promoteBit (rc : BitVec 512) (rs : List StatRec) : Bool :=
  recipeActive rs && rs.any fun r =>
    exceeds (r.n 1) (Recipe.satThresh rc) (r.n 0) || exceeds (r.n 2) (Recipe.zeroThresh rc) (r.n 0) ||
      exceeds r.shadowDisagree.toNat (Recipe.shadowThresh rc) r.shadowChecks.toNat

/-- CLEAN of a recipe (R135). -/
def cleanBit (rc : BitVec 512) (rs : List StatRec) : Bool :=
  !recipeActive rs || rs.all fun r =>
    r.repeats == 0 && quarter (r.n 1) (Recipe.satThresh rc) (r.n 0) && quarter (r.n 2) (Recipe.zeroThresh rc) (r.n 0) &&
      quarter r.shadowDisagree.toNat (Recipe.shadowThresh rc) r.shadowChecks.toNat

/-- Recipes that any record of a window names. -/
def recipesOf (m : SMap StatRec) : List Nat := m.foldl (fun l p => insertNat p.2.recipe l) []

/-- The bytes of the far hotness table are halved (10 R302). -/
def halveFar (s : State) : State :=
  (match s.ple.placement with | some p => p.tables | none => []).foldl (fun s (t : TablePl) =>
    devWrite t.far ((devBytes s t.far t.pages).map fun (b : Byte) => b >>> 1) s) s

/-- Hotness and the stream sums at a window close (07 R186, R202). -/
def closeMem (m : Mem) : Mem :=
  { m with hot := (m.hot.map fun p => (p.1, p.2 / 2)).filter fun p => p.2 != 0
           streams := m.streams.map fun p => (p.1, { p.2 with closedSum := p.2.sum, closedN := p.2.n, sum := 0, n := 0 }) }

/-- A record of every assigned slot, that of a unit that did nothing as it was opened (R131, R134). -/
def slotRecords (s : State) (m : SMap StatRec) : SMap StatRec :=
  let tabs := match s.ple.placement with | some p => p.tables | none => []
  let recipe (id : Nat) : Nat := match tabs.find? fun t => t.statsId == id with
    | some t => (match tensorEnt s t.table with | some e => e.recipe | none => none).getD s.prc.defaultRecipe.toNat
    | none => layerRecipeId s id
  ((match s.ple.placement with | some p => p.slots | none => []).filter fun k => k % 4096 != 0xFFF && (SMap.find m k).isNone).foldl
    (fun m k => SMap.put m k (newStat (recipe (k / 16384)) (steerOf s (recipe (k / 16384))).rung.toNat)) m

/-- The statistics window ends (R133): the current records become closing ones, tagged with the step and with their summaries, and
so do the observations of scale adaptation. -/
def closeWindow (step : W64) (s : State) : State :=
  let s := halveFar s
  let recs := (slotRecords s s.prc.cur).map fun p => (p.1, { p.2 with step := step.setWidth 32 })
  let sums := summaries recs
  { s with mem := closeMem s.mem, prc := { s.prc with
      closing := sums.foldl (fun m p => SMap.put m p.1 p.2) recs, cur := []
      amaxClosed := s.prc.amaxCur, amaxCur := [], sliceClosed := s.prc.sliceCur, sliceCur := [], windowClosed := true } }

/-- Summary records of the closing window. -/
def closingSums (s : State) : SMap StatRec := s.prc.closing.filter fun p => p.1 % 4096 == 0xFFF

/-- The precision bits that the device votes (R135, R136). -/
def precisionBits (s : State) : BitVec 16384 × BitVec 16384 × BitVec 16384 :=
  let m := closingSums s
  (recipesOf m).foldl (fun b id =>
    let rs := recipeSums m id
    let rc := recipeAt s id
    (putBit b.1 id (promoteBit rc rs), putBit b.2.1 id (cleanBit rc rs), putBit b.2.2 id (recipeActive rs)))
    (0, BitVec.allOnes 16384, 0)

/-- Payload of Table 5.8. -/
def precisionPayload (s : State) (id cause : Nat) (step : W32) : W64 :=
  at' 64 50 id ||| at' 64 47 (steerOf s id).rung.toNat ||| at' 64 43 cause ||| step.setWidth 64

/-- Raise PRECISION, at most once per recipe and cause per step (R140). -/
def raisePrecision (id cause : Nat) (step : W32) (s : State) : State :=
  if s.prc.raised.contains (id, cause) then s
  else
    let s := { s with prc := { s.prc with raised := s.prc.raised ++ [(id, cause)], precisionPending := true } }
    let s := onStep (fun o => { o with precision := true }) s
    raise 0x20 (precisionPayload s id cause step) s

/-- Causes 2 to 5 of a recipe over its summaries, with the records that get ALARM (R141). -/
def alarmsOf (rc : BitVec 512) (rs : List (Nat × StatRec)) : List (Nat × List Nat) :=
  let exceeding (i t : Nat) : List Nat := (rs.filter fun p => exceeds (p.2.n i) t (p.2.n 0)).map (·.1)
  let sum (f : StatRec → Nat) (t : Nat) : List Nat :=
    if t != 0 && decide (t < rs.foldl (fun n p => n + f p.2) 0) then (rs.filter fun p => f p.2 != 0).map (·.1) else []
  [(2, exceeding 1 (Recipe.alarmSat rc)), (3, exceeding 2 (Recipe.alarmZero rc)), (4, sum (fun r => r.repeats.toNat) (Recipe.alarmRepeat rc)),
   (5, sum (StatRec.n 5) (Recipe.alarmNonfinite rc))].filter fun p => !p.2.isEmpty

/-- Alarms of the closing window. -/
def raiseAlarms (step : W32) (s : State) : State :=
  let m := closingSums s
  (recipesOf m).foldl (fun s id =>
    (alarmsOf (recipeAt s id) (m.filter fun p => p.2.recipe == id)).foldl (fun s a =>
      let closing := a.2.foldl (fun t k => match SMap.find t k with | some r => SMap.put t k (r.flag 4) | none => t) s.prc.closing
      raisePrecision id a.1 step { s with prc := { s.prc with closing := closing } }) s) s

/-- Decide one recipe from the domain's bits (R136, R137, R139): the new state, and whether promotion was blocked. -/
def decideSteer (rc : BitVec 512) (en : Bool) (x : Steer) (promote clean active : Bool) (step : W32) : Steer × Bool :=
  let rung := x.rung.toNat
  let n := x.clean.toNat + 1
  let new : Steer × Bool :=
    if Recipe.exact rc || (!promote && !active) then ({ x with action := 0 }, false)
    else if promote then
      if rung < Recipe.hi rc then ({ x with rung := x.rung + 1, clean := 0, action := 1, lastChange := step + 1 }, false)
      else ({ x with clean := 0, action := 3 }, true)
    else if clean then
      if n < Recipe.cleanSteps rc then ({ x with clean := BitVec.ofNat 8 n, action := 0 }, false)
      else if Recipe.lo rc < rung then ({ x with rung := x.rung - 1, clean := 0, action := 2, lastChange := step + 1 }, false)
      else ({ x with clean := BitVec.ofNat 8 (Recipe.cleanSteps rc), action := 0 }, false)
    else ({ x with clean := 0, action := 0 }, false)
  if en then new
  else ({ x with action := if new.1.action = 0 then 0 else 6 }, false)

/-- The edge that ends the VOTE's beat (R133, R140, R141): alarms, and the closing records become the closed ones. -/
def closeRecords (step : W32) (s : State) : State :=
  let s := raiseAlarms step s
  { s with prc := { s.prc with closed := s.prc.closing, closing := [] } }

/-- Steering decides from the domain's bits once they are present and fixed (R136, R137, R139, 09 R284). -/
def fixDecisions (f : VoteFrame) (s : State) : State :=
  let step : W32 := f.step.setWidth 32
  s.prc.recipes.foldl (fun s p =>
    let d := decideSteer p.2 s.prc.steerEn (steerOf s p.1) (f.promote.getLsbD p.1) (f.clean.getLsbD p.1) (f.active.getLsbD p.1) step
    let s := { s with prc := { s.prc with decided := SMap.put s.prc.decided p.1 d.1 } }
    let s := trace 0x07 0xB00 0 (BitVec.ofNat 64 p.1) (BitVec.ofNat 64 d.1.action.toNat) s
    if d.2 then raisePrecision p.1 1 step s else s) s

/-- The decisions take effect at a step boundary (R138). -/
def applyDecisions (s : State) : State :=
  { s with prc := { s.prc with
      steer := s.prc.decided.foldl (fun m p => SMap.set m p.1 p.2 resetSteer) s.prc.steer, decided := [], raised := [] } }

/-- Clamp a scale to the normal FP32 range (R143, R144). -/
def clampScale (x : F32) : F32 :=
  if flt x 0x00800000#32 then 0x00800000#32 else if flt 0x7F7FFFFF#32 x then 0x7F7FFFFF#32 else x

/-- 1.0 + m of a recipe. -/
def marginOf (rc : BitVec 512) : F32 := rne (.fin false (64 + Recipe.margin rc) (-6))

/-- The new affine pair of a slice (R143). -/
def affinePair (rc : BitVec 512) (qmax : Nat) (lo hi : F32) : F32 × Nat :=
  let lo2 := fmul (fmin lo fZero) (marginOf rc)
  let hi2 := fmul (fmax hi fZero) (marginOf rc)
  if (fv hi2).eq (fv lo2) then (fOne, 0)
  else
    let sc := clampScale (fdiv (fsub hi2 lo2) (fOfNat qmax))
    (sc, (max 0 (min (qmax : Int) (rneInt (fv (fdiv (fneg lo2) sc))))).toNat)

/-- The new TENSOR scale (R144); `none` keeps it. -/
def tensorScale (rc : BitVec 512) (fmt : Nat) (hist : List F32) : Option F32 :=
  let a := hist.foldl (fun m x => if flt m x then x else m) fZero
  let t := maxMag fmt
  if (fv a).isZero then none else some (clampScale (fdiv (fmul a (marginOf rc)) (rne (.fin false t.1 t.2))))

/-- Write an entry of the scale region (03 R471). -/
def putScale (a : Nat) (sc : F32) (z : Nat) (s : State) : State := devWrite a (leBytes 8 (sc.toNat * 2 ^ 32 + z * 2 ^ 24)) s

/-- Adapt one placed tensor (R142-R144). -/
def adaptTensor (p : TensorPl) (s : State) : State :=
  let f := tensorForm s p.tensor
  let rc := tensorRecipe s p.tensor
  if f.mode = 3 && decide (0 < p.entries) then
    let a := SMap.get s.prc.amaxClosed p.tensor fZero
    let h := (SMap.get s.prc.amax p.tensor []) ++ [a]
    let h := h.drop (h.length - Recipe.amaxLen rc)
    let s := { s with prc := { s.prc with amax := SMap.set s.prc.amax p.tensor h [] } }
    match tensorScale rc f.fmt.toNat h with
    | some sc => putScale p.scale sc 0 s
    | none => s
  else if f.mode = 4 then
    (List.range p.entries).foldl (fun s i =>
      match SMap.find s.prc.sliceClosed (64 * p.tensor + i) with
      | some x => let y := affinePair rc (if f.fmt = 10 then 255 else 15) x.1 x.2; putScale (p.scale + 8 * i) y.1 y.2 s
      | none => s) s
  else s

/-- Scale adaptation at a step boundary (R142). DESIGN CHOICE: no rule says whether the amax histories (R144) take a window that closes while
SCALE_ADAPT_EN is 0; the model stops them with the adaptation, and that window is not among their values (log entry 144). -/
def adaptScales (s : State) : State :=
  if !s.prc.windowClosed then s
  else
    let s := if s.prc.scaleAdaptEn then (match s.ple.placement with | some p => p.tensors | none => []).foldl (fun s t => adaptTensor t s) s else s
    { s with prc := { s.prc with windowClosed := false, amaxClosed := [], sliceClosed := [] } }

end Sys2Proof.Machine
end

