-- ==== Sys2Proof/Machine/Matrix.lean ====
section
/-!
DEFINITION. MATMUL, MATVEC and ATTEND (11 R330, R331).
-/
namespace Sys2Proof.Machine

/-- The operands of a product on one replica: both sides, bias, beta and C in the rows in which the output is stored. -/
structure Prod where
  a : Side
  w : Side
  bias : Option (List F32)
  beta : Option F32
  c : List (List F32)

/-- LAYER, M and PASS of Table 11.9. -/
def Desc.layer (d : Desc) : Nat := bits d.w6 63 48
def Desc.rows (d : Desc) : Nat := bits d.w6 47 16
def Desc.mode (d : Desc) : Nat := bits d.w6 15 14

/-- K and N of a matrix command: those of its layer, or of its two operands where a weight gradient names no layer. The forward and the
backward product take the weights of a layer, so with LAYER 0xFFFF they name none (R330; log entry 152). -/
def matDims (s : State) (d : Desc) : Option (Nat × Nat) :=
  if Desc.layer d = noLayer ∧ Desc.mode d = 2 then
    some (tensorK s (operandTensor s (operand d.w2)), tensorK s (operandTensor s (operand d.w3)))
  else if Desc.layer d = noLayer then none
  else (layerEnt s (Desc.layer d)).map fun l => (l.k, l.n)

/-- The instance of a matrix command: rows and columns of its product, and of its output as stored (log entry 31). The M, N and K of
Table 4.8 are the product's rows, columns and reduction in every PASS (log entry 120). -/
def matInst (s : State) (r : Ring) (c : Cmd) : Instn :=
  let d := c.desc
  let pass := Desc.mode d
  let k := ((matDims s d).getD (0, 0)).1
  let n := ((matDims s d).getD (0, 0)).2
  { layer := Desc.layer d, stage := r.stage.toNat, out := operand d.w5, beat := cmdBeat s r c
    rows := if pass = 2 then k else Desc.rows d, cols := if pass = 1 then k else n, swap := pass == 2, micro := Desc.micro d,
    recompute := Desc.recompute d, dry := (if pass = 0 then k else if pass = 1 then n else Desc.rows d) == 0
    reps := List.range (stageReplicas s r.stage.toNat) }

/-- Stored rows and columns of the output. -/
def Instn.storedRows (i : Instn) : Nat := if i.swap then i.cols else i.rows
def Instn.storedCols (i : Instn) : Nat := if i.swap then i.rows else i.cols

/-- Length of the reduction. -/
def matRed (s : State) (d : Desc) : Nat :=
  match matDims s d with
  | some l => if Desc.mode d = 0 then l.1 else if Desc.mode d = 1 then l.2 else Desc.rows d
  | none => 0

/-- The operand has `n` rows from its first one, of strips of `k` elements (log entry 31). -/
def fitsRows (s : State) (o : Operand) (n k : Nat) : Bool :=
  decide (o.first + n ≤ operandRows s o) && decide (tensorK s (operandTensor s o) = k)

/-- Format an operand carries. -/
def operandFmt (s : State) (o : Operand) (beat : Nat) : Nat :=
  match locate s o beat 0 none with | some l => l.form.fmt.toNat | none => 0

/-- Format of the weights a matrix command reads; for PASS 2 that of its second operand. -/
def matWeightFmt (s : State) (d : Desc) (beat : Nat) : Nat :=
  if Desc.mode d = 2 then operandFmt s (operand d.w3) beat
  else match weightsOf s (Desc.layer d) beat with | some w => w.form.fmt.toNat | none => 14

/-- The operand is stored in FP32 by its own form (R101). -/
def declaredFp32 (s : State) (o : Operand) (beat : Nat) : Bool := operandFmt s o beat == 0 && (tensorForm s (operandTensor s o)).fmt == 0

/-- A format other than BF16 and FP32 among the operands of an Ouvut graph's command (08 R247): the word of the first. -/
def ouvutWord (s : State) (d : Desc) (words : List Nat) (beat : Nat) : Option Nat :=
  words.find? fun i => !(operand (Desc.word d i)).isNone && decide (1 < operandFmt s (operand (Desc.word d i)) beat)

/-- Operands that have no place on the array or the MVT (R101, R102), and Ouvut's formats (08 R247). -/
def matFormats (s : State) (stage : Nat) (d : Desc) (beat : Nat) : Option Result :=
  let o := operand d.w2
  let af := operandFmt s o beat
  let wf := matWeightFmt s d beat
  let placed := placedPath s (Desc.layer d) (layerRung s (Desc.layer d)) (Desc.mode d) (Desc.rows d)
  let wword := if Desc.mode d = 2 then 3 else 6
  if ouvutLayer s (Desc.layer d) || ouvutStage s stage then
    let words := [2] ++ (if Desc.mode d = 2 then [3] else []) ++ (if bit d.w6 12 then [4] else []) ++ [5]
    if bit d.w6 13 && decide (1 < (tensorForm s (bits d.w7 31 8)).fmt.toNat) then some (descErr 0x09 7)
    else match ouvutWord s d words beat with
      | some i => some (descErr 0x09 i)
      | none => if 1 < wf ∧ !(Desc.mode d ≠ 2 ∧ weightsOf s (Desc.layer d) beat = none) then some (descErr 0x09 6) else none
  else if 15 ≤ af then some (descErr 0x09 2)
  else if 15 < wf ∨ (wf = 15 ∧ Desc.mode d = 2) then some (descErr 0x09 wword)
  else if placed = 3 then none
  else if declaredFp32 s o beat then some (descErr 0x09 2)
  else if Desc.mode d = 2 ∧ declaredFp32 s (operand d.w3) beat then some (descErr 0x09 3)
  else if wf = 15 ∧ (Desc.mode d = 1 ∨ af ≠ 12) then some (descErr 0x09 (if Desc.mode d = 1 then 6 else 2))
  else if isAffineFmt af ∧ isFloatFmt wf ∧ wf ≠ 0 then some (descErr 0x09 2)
  else none

/-- Checks of MATMUL and MATVEC (R330, R336). -/
def matCheck (vec : Bool) (s : State) (r : Ring) (c : Cmd) : Option Result :=
  let d := c.desc
  let pass := Desc.mode d
  let unused := (if pass = 2 then [] else [3]) ++ (if bit d.w6 12 then [] else [4])
  let need := [2] ++ (if pass = 2 then [3] else []) ++ (if bit d.w6 12 then [4] else []) ++ [5]
  match operandCheck s d need [] unused with
  | some e => some e
  | none =>
    match matDims s d with
    | none => some (descErr 0x05 6)
    | some l =>
      let i := matInst s r c
      let m := Desc.rows d
      if bit d.w6 13 && (tensorPl s (bits d.w7 31 8)).isNone then some (descErr 0x05 7)
      else if 2 < pass ∨ (vec ∧ pass ≠ 0) then some (descErr 0x07 6)
      else if !fitsRows s (operand d.w2) m (if pass = 1 then l.2 else l.1) then some (descErr 0x07 2)
      else if pass = 2 ∧ !fitsRows s (operand d.w3) m l.2 then some (descErr 0x07 3)
      else if bit d.w6 12 ∧ !fitsRows s (operand d.w4) i.storedRows i.storedCols then some (descErr 0x07 4)
      else if !fitsRows s (operand d.w5) i.storedRows i.storedCols then some (descErr 0x07 5)
      else if bit d.w6 13 ∧ tensorK s (bits d.w7 31 8) < i.cols then some (descErr 0x07 7)
      else if vec && ouvutLayer s (Desc.layer d) && placedPath s (Desc.layer d) (layerRung s (Desc.layer d)) pass m != 3 then some (descErr 0x09 6)
      else matFormats s r.stage.toNat d (cmdBeat s r c)

/-- Rows of an operand in a replica as a source. -/
def operandSource (s : State) (o : Operand) (beat rep : Nat) : Option RowSource := (locate s o beat rep none).map (memSource s)

/-- Decoded rows of an operand in a replica. -/
def operandVals (s : State) (o : Operand) (beat rep n : Nat) : List (List F32) :=
  match operandSource s o beat rep with
  | some src => (List.range n).map fun j => rowVals src (o.first + j)
  | none => []

/-- Exact values of the rows of an operand in a replica (R84). -/
def operandFulls (s : State) (o : Operand) (beat rep n : Nat) : List (List Fv) :=
  match operandSource s o beat rep with
  | some src => (List.range n).map fun j => rowFulls src (o.first + j)
  | none => []

/-- An escape among the rows of an operand has no raisin (R80). -/
def operandMiss (s : State) (o : Operand) (beat rep n : Nat) : Bool :=
  match operandSource s o beat rep with | some src => (List.range n).any fun j => rowMiss src (o.first + j) | none => false

/-- Rows of an operand read poisoned. -/
def operandPoison (s : State) (o : Operand) (beat rep n : Nat) : Bool :=
  match operandSource s o beat rep with | some src => rowsPoison src o.first n | none => false

/-- Every replica's access to the rows of an operand. -/
def touchOperand (stage : Nat) (o : Operand) (beat n : Nat) (s : State) : State :=
  (List.range (stageReplicas s stage)).foldl (fun s rep =>
    match locate s o beat rep none with | some l => touchRows l o.first n s | none => s) s

/-- The bias as an operand of one row. -/
def biasOperand (d : Desc) : Operand := { edge := false, out := false, first := 0, id := bits d.w7 31 8 }

/-- Operands with the rows of each that a matrix command reads. -/
def matReads (s : State) (r : Ring) (c : Cmd) : List (Operand × Nat) :=
  let d := c.desc
  let i := matInst s r c
  [(operand d.w2, Desc.rows d)] ++ (if Desc.mode d = 2 then [(operand d.w3, Desc.rows d)] else []) ++
    (if bit d.w6 12 then [(operand d.w4, i.storedRows)] else []) ++ (if bit d.w6 13 then [(biasOperand d, 1)] else [])

/-- The operands of a matrix command on a replica. -/
def matProd (s : State) (r : Ring) (c : Cmd) (rep : Nat) : Prod :=
  let d := c.desc
  let b := cmdBeat s r c
  let i := matInst s r c
  let m := Desc.rows d
  let none_ : Side := { form := entryForm s 0, vecs := [], sc := [], zp := [], sums := [], off := false }
  let src := operandSource s (operand d.w2) b rep
  let a := match src with
    | some x => if Desc.mode d = 2 then sideCols x (operand d.w2).first m else sideRows x (operand d.w2).first m
    | none => none_
  let w :=
    if Desc.mode d = 2 then
      match operandSource s (operand d.w3) b rep with | some x => sideCols x (operand d.w3).first m | none => none_
    else
      match layerEnt s (Desc.layer d), weightsOf s (Desc.layer d) b with
      | some l, some w =>
        let x := weightSource s l w
        if Desc.mode d = 1 then sideCols x 0 l.n else { sideRows x 0 l.n with sums := w.sums }
      | _, _ => none_
  { a := a, w := w, bias := if bit d.w6 13 then (operandVals s (biasOperand d) b rep 1).head? else none
    beta := if bit d.w6 12 then some (BitVec.ofNat 32 (bits d.w7 63 32)) else none
    c := if bit d.w6 12 then operandVals s (operand d.w4) b rep i.storedRows else [] }

/-- An output of a dot product after bias and beta; `pos` is its stored place and `n` its bias index. -/
def Prod.finish (p : Prod) (pos : Nat × Nat) (n : Nat) (d : Dot) : Outp :=
  let b := p.bias.map fun x => x.getD n fZero
  let c := p.beta.map fun _ => (p.c.getD pos.1 []).getD pos.2 fZero
  let bad (x : Option F32) : Bool := match x with | some v => !(fv v).finite | none => false
  { y := epilogue b p.beta c d.y, overInt := d.overInt, overFloat := d.overFloat, badIn := d.badIn || bad b || bad c
    surplus := false, nonfin := false }

/-- An entry of an empty reduction (04 Table 4.8). -/
def zeroDot : Dot := { y := fZero, overInt := false, overFloat := false, terms := 0, badIn := false }

/-- Path and class of a matrix command's product at a rung (R155, R100). -/
def matPath (s : State) (i : Instn) (pass m rung : Nat) (rep : Bool) (p : Prod) : Nat × Nat :=
  let af := p.a.form.fmt.toNat
  let wf := p.w.form.fmt.toNat
  (if 4 ≤ rung || instOuvut s i then 3 else runPath (placedPath s i.layer rung pass m) af wf, runClass af wf rung rep)

/-- The epilogue of an empty reduction on each tile (Table 4.8). At rung 4, whose class is not on the array, an N slice has the columns
of the 4 x 4 gang (log entry 120). -/
def emptyEpilogue (rung : Nat) (xs : List (Share × Nat)) (s : State) : State :=
  xs.foldl (fun s q =>
    if q.1.rc = 0 then s
    else
      let b := q.1.rc * ceilDiv q.1.cc (classCols (min rung 3)) + 6
      count (tileCtr q.2 4) (65536 * b) (count (tileCtr q.2 3) b s)) s

/-- The elements of a matrix command's product on a path and in a class. -/
def prodDots (s : State) (i : Instn) (pc : Nat × Nat) (p : Prod) : List (List Dot) :=
  if i.dry then List.replicate i.rows (List.replicate i.cols zeroDot)
  else dotMatrix (instOuvut s i) pc.1 pc.2 p.a p.w i.rows i.cols

/-- The pass in which an overflow of each output of the product is found. -/
def prodSeen (i : Instn) (k tiles : Nat) (pc : Nat × Nat) (p : Prod) (ds : List (List Dot)) : List (List Nat) :=
  let xs := splitOutputs tiles i.rows i.cols
  ds.zipIdx.map fun x => x.1.zipIdx.map fun y =>
    match xs.find? fun z => z.holds x.2 y.2 with
    | some z => foundAt pc.1 pc.2 p.a p.w k z x.2 y.2 (y.1.overInt || y.1.overFloat)
    | none => 0

/-- The outputs of one attempt of a matrix command on a replica. -/
def prodOut (s : State) (i : Instn) (pass m k rung : Nat) (rep : Bool) (tiles : Nat) (p : Prod) : AttemptOut :=
  let pc := matPath s i pass m rung rep p
  let ds := prodDots s i pc p
  let st := if i.swap then flip i.cols zeroDot ds else ds
  let seen := prodSeen i k tiles pc p ds
  { outs := st.zipIdx.map fun x => x.1.zipIdx.map fun y => p.finish (x.2, y.2) (if i.swap then x.2 else y.2) y.1
    pre := st.map fun x => x.map (·.y), seen := if i.swap then flip i.cols 0 seen else seen }

/-- What the tiles do for it, in the first `stop` passes of each where a notice stops them; `again` lists the tiles whose share is
retried (R122, R477). -/
def prodWork (i : Instn) (pass m k rung : Nat) (rep : Bool) (stop : Option Nat) (again tiles : List Nat) (p : Prod) (s : State) : State :=
  let pc := matPath s i pass m rung rep p
  let xs := (splitOutputs tiles.length i.rows i.cols).zip tiles
  if i.dry then emptyEpilogue rung xs s
  else tilesProduct i.layer pc.1 pc.2 (if rep then [] else again) (fun _ => stop) p.a p.w k xs (prodDots s i pc p) s

/-- A CB4 layer whose product tables for the version read are not built makes a command on path 2 wait (06 R164). -/
def tablesMissing (s : State) (d : Desc) (beat : Nat) : Bool :=
  Desc.mode d == 0 && (match weightsOf s (Desc.layer d) beat with
    | some w => w.form.fmt == 15 && !w.tables && !w.poisoned && layerRung s (Desc.layer d) < 4 &&
        runPath (placedPath s (Desc.layer d) (layerRung s (Desc.layer d)) 0 (Desc.rows d)) (operandFmt s (operand d.w2) beat) 15 == 2
    | none => false)

/-- A matrix command runs its attempts and lets the shadow check capture its tiles (R122, R152). -/
def matRun (i : Instn) (again : List Nat) (r : Ring) (c : Cmd) (s : State) : Kept × State :=
  let d := c.desc
  let prods := i.reps.map fun rep => (rep, matProd s r c rep)
  let p (rep : Nat) : Prod := ((prods.find? fun x => x.1 == rep).map (·.2)).getD (matProd s r c rep)
  let fl0 := isFloatFmt (operandFmt s (operand d.w2) i.beat) || isFloatFmt (matWeightFmt s d i.beat)
  attempts i fl0
    (fun rg rep? rep => prodOut s i (Desc.mode d) (Desc.rows d) (matRed s d) rg rep? (stageTiles s i.stage rep).length (p rep))
    (fun rg rep? rep stop s => prodWork i (Desc.mode d) (Desc.rows d) (matRed s d) rg rep? stop again (stageTiles s i.stage rep) (p rep) s)
    (fun rg rep o s => captureAll i rg rep (p rep).a (p rep).w o s) 6 (layerRung s i.layer) 0 s

/-- How a command that ran on the array ends: a fault on a tile poisons that tile's outputs, a replica with poisoned operands poisons its
own (R52, R119, R121). -/
def arrayEnd (i : Instn) (fl : List Nat × List Nat) (bad : List Nat) (k : Kept × State) : Phase × State :=
  let st := if fl.2 ≠ [] then stFault else if bad ≠ [] then stPoisoned else stOk
  (.finished (mkResult st 0 (k.1.repeats * i.reps.length) (b2n (fl.1 ≠ [] || fl.2 ≠ []))), poisonTiles i fl.2 k.2)

/-- The replicas of an instance on which what it reads, or the scale entries of its output, are poisoned. -/
def badReps (s : State) (i : Instn) (reads : List (Operand × Nat)) (rung n : Nat) : List Nat :=
  i.reps.filter fun rep => outPoison s i rung rep n || reads.any fun x => operandPoison s x.1 i.beat rep x.2

/-- The effect of MATMUL and MATVEC. -/
def matBody (_q : Nat) (r : Ring) (c : Cmd) (s : State) : Phase × State :=
  let d := c.desc
  let i := matInst s r c
  let b := i.beat
  let rung := layerRung s i.layer
  if i.rows = 0 ∨ i.cols = 0 then (.finished okResult, s)
  else if tablesMissing s d b && !i.dry then (.waiting, s)
  else
    let reads := matReads s r c
    let s := reads.foldl (fun s x => touchOperand i.stage x.1 b x.2 s) s
    let wbad := Desc.mode d != 2 && !i.dry && (match weightsOf s i.layer b with | some w => w.poisoned | none => true)
    let bad := if wbad then i.reps else badReps s i reads rung i.storedRows
    if arrayGone s i.stage (i.out :: reads.map (·.1)) b then (.finished (stResult stFault), poisonOut i rung i.storedRows s)
    else
      let fl := takeTileFlags i.stage s
      let s := poisonOut { i with reps := bad } rung i.storedRows fl.2.2
      let good := { i with reps := i.reps.filter fun rep => !bad.contains rep }
      if good.reps.isEmpty then (.finished (stResult stPoisoned), s)
      else
        let missed := reads.any fun x => good.reps.any fun rep => operandMiss s x.1 b rep x.2
        arrayEnd good (fl.1, fl.2.1) bad (matRun good fl.1 r c (noteMissed i rung missed s))

/-- MATMUL (R330). -/
def execMatmul (ring : Nat) (d : Desc) (s : State) : Host.Outcome State Fault Refusal :=
  .next (runCmd opMatmul { check := matCheck false, body := matBody } ring d s)

/-- MATVEC (R330): the forward product of a layer on its path. -/
def execMatvec (ring : Nat) (d : Desc) (s : State) : Host.Outcome State Fault Refusal :=
  .next (runCmd opMatvec { check := matCheck true, body := matBody } ring d s)

end Sys2Proof.Machine
end

