-- ==== Sys2Proof/Machine/Vector.lean ====
section
/-!
DEFINITION. The commands of the exact unit: ELEMWISE, NORM, SOFTMAX and CONVERT (11 R330, R332-R334), ATTEND (R331), LOAD_WEIGHTS,
and the product tables of CB4 weights (06 R164).
-/
namespace Sys2Proof.Machine

/-- The instance of a command of the exact unit. -/
def xuInst (s : State) (r : Ring) (c : Cmd) (rows : Nat) : Instn :=
  let o := operand c.desc.w5
  { layer := Desc.layer c.desc, stage := r.stage.toNat, out := o, beat := cmdBeat s r c, rows := rows,
    cols := tensorK s (operandTensor s o), swap := false, micro := Desc.micro c.desc, recompute := Desc.recompute c.desc, dry := false
    reps := List.range (stageReplicas s r.stage.toNat) }

/-- LAYER is none or is known (Table 11.12 code 05). -/
def layerKnown (s : State) (d : Desc) : Bool := Desc.layer d == noLayer || (layerEnt s (Desc.layer d)).isSome

/-- FMAs and special functions of the XU in foreground work on a tile, over `n` elements: 512 FMAs or elements, and 64 special
functions, in a cycle (06 R166, R168, Table 6.8; log entry 77). -/
def xuWork (tile n fma sfu : Nat) (s : State) : State :=
  count (tileCtr tile 21) (ceilDiv (max n fma) 512 + ceilDiv sfu 64) (count (tileCtr tile 25) sfu (count (tileCtr tile 22) fma s))

/-- Foreground work of the XU on each tile's share: `fma` and `sfu` per output element, `rowSfu` per row (06 Table 6.8). -/
def countXu (i : Instn) (fma sfu rowSfu : Nat) (s : State) : State :=
  i.reps.foldl (fun s rep =>
    let tiles := stageTiles s i.stage rep
    ((splitOutputs tiles.length i.rows i.cols).zip tiles).foldl (fun s p =>
      let n := p.1.rc * p.1.cc
      if n = 0 then s else xuWork p.2 n (n * fma) (n * sfu + (if p.1.c0 = 0 then p.1.rc * rowSfu else 0)) s) s) s

/-- An operand of a command in a stage of an Ouvut graph that is neither BF16 nor FP32 (08 R247). -/
def ouvutCheck (s : State) (r : Ring) (c : Cmd) (words : List Nat) : Option Result :=
  if ouvutStage s r.stage.toNat then (ouvutWord s c.desc words (cmdBeat s r c)).map fun i => descErr 0x09 i else none

/-- A row of outputs; `bad` tells whether what they take in is non-finite (Table 5.9). -/
def outRow (bad : Bool) (ys : List F32) : List Outp :=
  ys.map fun y => { y := y, overInt := false, overFloat := false, badIn := bad, surplus := false, nonfin := false }

/-- A row holds a non-finite value. -/
def anyBad (xs : List F32) : Bool := xs.any fun x => !(fv x).finite

/-- Poison the rows that a command writes beside its output, on some replicas (02 R42). -/
def poisonAlso (i : Instn) (reps : List Nat) (also : List (Operand × Nat)) (s : State) : State :=
  also.foldl (fun s x => reps.foldl (fun s rep =>
    match locate s x.1 i.beat rep none with | some l => poisonRows l x.1.first x.2 s | none => s) s) s

/-- The values of a command of the exact unit on a replica: it has no passes. -/
def xuOut (outs : List (List Outp)) : AttemptOut := { outs := outs, pre := [], seen := [] }

/-- Run a command of the exact unit: poison and faults, its values on each replica, conversion and repeats; `also` are the rows that it
writes beside its output, `work` what each attempt counts, and `more` writes them, on the replicas that run it. -/
def xuRun (i : Instn) (reads also : List (Operand × Nat)) (wbad : Bool) (mk : Nat → List (List Outp)) (work : Instn → State → State)
    (more : Instn → State → State) (s : State) : Phase × State :=
  let rung := layerRung s i.layer
  if i.rows = 0 then (.finished okResult, s)
  else
    let bad := if wbad then i.reps else badReps s i reads rung i.rows
    let s := reads.foldl (fun s x => touchOperand i.stage x.1 i.beat x.2 s) s
    if unitsGone s i.stage (i.out :: (also ++ reads).map (·.1)) i.beat then
      (.finished (stResult stFault), poisonAlso i i.reps also (poisonOut i rung i.rows s))
    else
      let s := poisonAlso i bad also (poisonOut { i with reps := bad } rung i.rows s)
      let good := { i with reps := i.reps.filter fun rep => !bad.contains rep }
      if good.reps.isEmpty then (.finished (stResult stPoisoned), s)
      else
        let missed := reads.any fun x => good.reps.any fun rep => operandMiss s x.1 i.beat rep x.2
        let k := attempts good true (fun _ _ rep => xuOut (mk rep)) (fun _ _ rep _ s => work { good with reps := [rep] } s) (fun _ _ _ s => s) 6
          rung 0 (noteMissed i rung missed s)
        (.finished (mkResult (if bad.isEmpty then stOk else stPoisoned) 0 (k.1.repeats * good.reps.length) 0), more good k.2)

/-- LOSS_SCALE that an ELEMWISE reads (08 R235, R478). -/
def lossScale (s : State) (i : Nat) : F32 :=
  if s.upd.passed then SMap.get s.upd.schedUsed i fOne
  else
    match (SMap.find s.upd.schedNext i).or (SMap.find s.upd.sched i) with
    | some x => BitVec.ofNat 32 (Recipe.fld x 5 31 0)
    | none => fOne

/-- OP, BCAST, NUM, TOPK_K and TOTAL of Table 11.9. -/
def Desc.elemOp (d : Desc) : Nat := bits d.w6 15 8
def Desc.topk (d : Desc) : Nat := bits d.w7 31 16

/-- Operations that read B, and C. -/
def usesB (op : Nat) : Bool := decide (op ≤ 5)
def usesC (op : Nat) : Bool := op == 3 || op == 0x12

/-- SIGMOID and GELU (Table 11.13). -/
def fsigmoid (a : F32) : F32 := frecip (fadd fOne (fexp (fneg a)))
def fgelu (a : F32) : F32 :=
  let u := fmul a a
  let v := ffma 0x3D372713#32 (fmul u a) a
  let t := ftanh (fmul 0x3F4C422A#32 v)
  fmul (fmul 0x3F000000#32 a) (fadd fOne t)

/-- Element-wise operations (Table 11.13). -/
def elemOp (op : Nat) (num : Bool) (scalar loss a b c : F32) : F32 :=
  match op with
  | 0 => fadd a b
  | 1 => fsub a b
  | 2 => fmul a b
  | 3 => ffma a b c
  | 4 => if num then fmaxNum a b else fmax a b
  | 5 => if num then fminNum a b else fmin a b
  | 6 => fmul a scalar
  | 7 => fmul a loss
  | 8 => fexp a
  | 9 => flog a
  | 0xA => frecip a
  | 0xB => frsqrt a
  | 0xC => ftanh a
  | 0xD => fmax a fZero
  | 0xE => fsigmoid a
  | _ => fgelu a

/-- `a` stands before `b` in descending order: by totalOrder, or with NaNs above +Inf and equal values in input order (R87). -/
def topBefore (total : Bool) (a b : F32) : Bool :=
  if total then decide (totalKey b ≤ totalKey a)
  else if (fv a).isNan then true
  else if (fv b).isNan then false
  else !flt a b

/-- TOPK of a row: values and indices. -/
def topkRow (total : Bool) (k : Nat) (xs : List F32) : List (F32 × Nat) :=
  (sortBy (fun p q => topBefore total p.1 q.1) xs.zipIdx).take k

/-- Length of an output row of an ELEMWISE on rows of `n` elements. -/
def elemCols (op k n : Nat) : Nat := if op = 0x10 ∨ op = 0x11 then 1 else if op = 0x12 then k else n

/-- A tensor of 32-bit words: FP32 in scale mode NONE. -/
def isWords (s : State) (o : Operand) (beat : Nat) : Bool :=
  match locate s o beat 0 none with | some l => l.form.fmt == 0 && l.form.mode == 0 | none => false

/-- Checks of ELEMWISE (R334, R336). -/
def elemCheck (s : State) (r : Ring) (c : Cmd) : Option Result :=
  let d := c.desc
  let op := Desc.elemOp d
  if 0x12 < op then some (descErr 0x07 6)
  else
    match operandCheck s d ([2] ++ (if usesB op then [3] else []) ++ (if usesC op then [4] else []) ++ [5]) []
        ((if usesB op then [] else [3]) ++ (if usesC op then [] else [4])) with
    | some e => some e
    | none =>
      let m := Desc.rows d
      let n := tensorK s (operandTensor s (operand d.w2))
      let cols := elemCols op (Desc.topk d) n
      if !layerKnown s d then some (descErr 0x05 6)
      else if op = 0x12 ∧ Desc.topk d = 0 then some (descErr 0x07 7)
      else if !fitsRows s (operand d.w2) m n then some (descErr 0x07 2)
      else if usesB op && !fitsRows s (operand d.w3) (if bit d.w6 7 then 1 else m) n then some (descErr 0x07 3)
      else if usesC op && !fitsRows s (operand d.w4) m cols then some (descErr 0x07 4)
      else if !fitsRows s (operand d.w5) m cols then some (descErr 0x07 5)
      else if op = 0x12 ∧ !isWords s (operand d.w4) (cmdBeat s r c) then some (descErr 0x09 4)
      else ouvutCheck s r c ([2] ++ (if usesB op then [3] else []) ++ (if usesC op then [4] else []) ++ [5])

/-- The output rows of an ELEMWISE. -/
def elemRows (d : Desc) (loss : F32) (a b c : List (List F32)) : List (List Outp) :=
  let op := Desc.elemOp d
  a.zipIdx.map fun p =>
    let xs := p.1
    if op = 0x10 then outRow (anyBad xs) [xs.foldl fadd fZero]
    else if op = 0x11 then outRow (anyBad xs) [xs.foldl fmax fNegInf]
    else if op = 0x12 then outRow (anyBad xs) ((topkRow (bit d.w7 15) (Desc.topk d) xs).map (·.1))
    else
      let bs := b.getD (if bit d.w6 7 then 0 else p.2) []
      let cs := c.getD p.2 []
      xs.zipIdx.map fun q =>
        let y := bs.getD q.2 fZero
        let z := cs.getD q.2 fZero
        { y := elemOp op (bit d.w6 6) (BitVec.ofNat 32 (bits d.w7 63 32)) loss q.1 y z, overInt := false, overFloat := false
          surplus := false, nonfin := false
          badIn := !(fv q.1).finite || (usesB op && !(fv y).finite) || (op == 3 && !(fv z).finite) }

/-- Write rows of 32-bit words into a tensor of words on a replica. -/
def putWords (o : Operand) (beat rep : Nat) (rows : List (List W32)) (s : State) : State :=
  match locate s o beat rep none with
  | some l => rows.zipIdx.foldl (fun s p =>
      devWrite (l.row s (o.first + p.2)) (padTo 64 (p.1.flatMap fun w => leBytes 4 w.toNat)) s) s
  | none => s

/-- Special functions an element-wise operation takes, and its FMAs. DESIGN CHOICE: R172 counts FMAs performed and R168 composes the
operations of FMAs, special functions and reductions without saying which a sum, a product or a scaling is; the model counts in XU_FMA the
operations written as fma_f32 only (log entry 145). -/
def elemSfu (op : Nat) : Nat := if op = 0xE then 2 else if op = 0xF ∨ (8 ≤ op ∧ op ≤ 0xC) then 1 else 0
def elemFma (op : Nat) : Nat := if op = 3 ∨ op = 0xF then 1 else 0

/-- What ELEMWISE reads. -/
def elemReads (d : Desc) : List (Operand × Nat) :=
  let op := Desc.elemOp d
  let m := Desc.rows d
  [(operand d.w2, m)] ++ (if usesB op then [(operand d.w3, if bit d.w6 7 then min 1 m else m)] else []) ++
    (if op = 3 then [(operand d.w4, m)] else [])

/-- The rows of ELEMWISE in replica `rep`. -/
def elemOuts (s : State) (d : Desc) (i : Instn) (rep : Nat) : List (List Outp) :=
  let op := Desc.elemOp d
  let m := Desc.rows d
  elemRows d (lossScale s (bits d.w6 5 0)) (operandVals s (operand d.w2) i.beat rep m)
    (if usesB op then operandVals s (operand d.w3) i.beat rep (if bit d.w6 7 then min 1 m else m) else [])
    (if op = 3 then operandVals s (operand d.w4) i.beat rep m else [])

/-- The rows that ELEMWISE writes beside its output: the indices of TOPK. -/
def elemAlso (d : Desc) : List (Operand × Nat) := if Desc.elemOp d = 0x12 then [(operand d.w4, Desc.rows d)] else []

/-- What an attempt of ELEMWISE counts. -/
def elemWork (d : Desc) (i : Instn) (s : State) : State := countXu i (elemFma (Desc.elemOp d)) (elemSfu (Desc.elemOp d)) 0 s

/-- What ELEMWISE does beside its output: for TOPK the indices in C; `s` is the state it read. -/
def elemAfter (s : State) (d : Desc) (i : Instn) (s' : State) : State :=
  if Desc.elemOp d = 0x12 then
    i.reps.foldl (fun s' rep =>
      putWords (operand d.w4) i.beat rep ((operandVals s (operand d.w2) i.beat rep (Desc.rows d)).map fun xs =>
        (topkRow (bit d.w7 15) (Desc.topk d) xs).map fun p => BitVec.ofNat 32 p.2) s') s'
  else s'

/-- The effect of ELEMWISE. -/
def elemBody (_q : Nat) (r : Ring) (c : Cmd) (s : State) : Phase × State :=
  let i := xuInst s r c (Desc.rows c.desc)
  xuRun i (elemReads c.desc) (elemAlso c.desc) false (elemOuts s c.desc i) (elemWork c.desc) (elemAfter s c.desc) s

/-- ELEMWISE (R334). -/
def execElemwise (ring : Nat) (d : Desc) (s : State) : Host.Outcome State Fault Refusal :=
  .next (runCmd opElemwise { check := elemCheck, body := elemBody } ring d s)

/-- 1 / D correctly rounded. -/
def invLen (d : Nat) : F32 := rne ((Fv.fin false 1 0).div (.fin false d 0))

/-- The d and r of R333. -/
def normBase (rms : Bool) (eps : F32) (xs : List F32) : List F32 × F32 :=
  let inv := invLen xs.length
  let mean := fmul (xs.foldl fadd fZero) inv
  let d := if rms then xs else xs.map fun x => fsub x mean
  let q := d.foldl (fun q x => ffma x x q) fZero
  (d, frsqrt (fadd (fmul q inv) eps))

/-- NORM forward (R333). -/
def normRow (rms : Bool) (eps : F32) (gamma beta xs : List F32) : List F32 :=
  let b := normBase rms eps xs
  b.1.zipIdx.map fun p =>
    let h := fmul p.1 b.2
    if rms then fmul h (gamma.getD p.2 fZero) else ffma h (gamma.getD p.2 fZero) (beta.getD p.2 fZero)

/-- NORM backward: dx and the h of each element (R333). -/
def normBack (rms : Bool) (eps : F32) (gamma xs dy : List F32) : List F32 × List F32 :=
  let b := normBase rms eps xs
  let inv := invLen xs.length
  let h := b.1.map fun x => fmul x b.2
  let g := dy.zipIdx.map fun p => fmul p.1 (gamma.getD p.2 fZero)
  let a := if rms then fZero else g.foldl fadd fZero
  let t := (g.zip h).foldl (fun t p => ffma p.1 p.2 t) fZero
  ((g.zip h).map fun p => fmul b.2 (fsub (fsub p.1 (fmul a inv)) (fmul p.2 (fmul t inv))), h)

/-- One row added into DGB (R333). -/
def dgbRow (rms : Bool) (dgb : List (List F32)) (dy h : List F32) : List (List F32) :=
  let r0 := (dgb.getD 0 []).zip (dy.zip h) |>.map fun p => fadd p.1 (fmul p.2.1 p.2.2)
  let r1 := if rms then dgb.getD 1 [] else ((dgb.getD 1 []).zip dy).map fun p => fadd p.1 p.2
  [r0, r1]

/-- Checks of NORM (R333, R336). -/
def normCheck (s : State) (r : Ring) (c : Cmd) : Option Result :=
  let d := c.desc
  let back := decide (2 ≤ Desc.mode d)
  match operandCheck s d ([2] ++ (if back then [3, 4] else []) ++ [5]) [] (if back then [] else [3, 4]) with
  | some e => some e
  | none =>
    let m := Desc.rows d
    let n := tensorK s (operandTensor s (operand d.w5))
    match layerEnt s (Desc.layer d) with
    | none => some (descErr 0x05 6)
    | some l =>
      if l.k ≠ n ∨ l.n = 0 ∨ (Desc.mode d = 0 ∧ l.n < 2) then some (descErr 0x07 6)
      else if !fitsRows s (operand d.w2) m n then some (descErr 0x07 2)
      else if back && !fitsRows s (operand d.w3) m n then some (descErr 0x07 3)
      else if back && !fitsRows s (operand d.w4) 2 n then some (descErr 0x07 4)
      else if !fitsRows s (operand d.w5) m n then some (descErr 0x07 5)
      else if back && !isWords s (operand d.w4) (cmdBeat s r c) then some (descErr 0x09 4)
      else ouvutCheck s r c ([2] ++ (if back then [3, 4] else []) ++ [5])

/-- Decoded row of a layer's working weights. -/
def weightRow (s : State) (layer beat n : Nat) : List F32 :=
  match layerEnt s layer, weightsOf s layer beat with
  | some l, some w => rowVals (weightSource s l w) n
  | _, _ => []

/-- What NORM reads. -/
def normReads (d : Desc) : List (Operand × Nat) :=
  [(operand d.w2, Desc.rows d)] ++ (if 2 ≤ Desc.mode d then [(operand d.w3, Desc.rows d), (operand d.w4, 2)] else [])

/-- The layer's working weights are missing or poisoned. -/
def weightsBad (s : State) (i : Instn) : Bool :=
  match weightsOf s i.layer i.beat with | some w => w.poisoned | none => true

def normEps (d : Desc) : F32 := BitVec.ofNat 32 (bits d.w7 63 32)

/-- The rows of NORM in replica `rep`. -/
def normOuts (s : State) (d : Desc) (i : Instn) (rep : Nat) : List (List Outp) :=
  let rms := Desc.mode d % 2 == 1
  let gamma := weightRow s i.layer i.beat 0
  let beta := weightRow s i.layer i.beat 1
  let x := operandVals s (operand d.w2) i.beat rep (Desc.rows d)
  if 2 ≤ Desc.mode d then
    (x.zip (operandVals s (operand d.w3) i.beat rep (Desc.rows d))).map fun p =>
      outRow (anyBad p.1 || anyBad p.2 || anyBad gamma) (normBack rms (normEps d) gamma p.1 p.2).1
  else x.map fun xs => outRow (anyBad xs || anyBad gamma || (!rms && anyBad beta)) (normRow rms (normEps d) gamma beta xs)

/-- The rows that NORM writes beside its output: the sums of the backward form. -/
def normAlso (d : Desc) : List (Operand × Nat) := if 2 ≤ Desc.mode d then [(operand d.w4, 2)] else []

/-- What an attempt of NORM counts. -/
def normWork (d : Desc) (i : Instn) (s : State) : State := countXu i (if Desc.mode d = 1 then 1 else 2) 0 1 s

/-- What NORM does beside its output: backward, the sums of dgamma and dbeta in ACC. -/
def normAfter (s : State) (d : Desc) (i : Instn) (s' : State) : State :=
  let rms := Desc.mode d % 2 == 1
  if 2 ≤ Desc.mode d then
    i.reps.foldl (fun s' rep =>
      let x := operandVals s (operand d.w2) i.beat rep (Desc.rows d)
      let dy := operandVals s (operand d.w3) i.beat rep (Desc.rows d)
      let dgb := (x.zip dy).foldl
        (fun g p => dgbRow rms g p.2 (normBack rms (normEps d) (weightRow s i.layer i.beat 0) p.1 p.2).2)
        (operandVals s (operand d.w4) i.beat rep 2)
      putWords (operand d.w4) i.beat rep dgb s') s'
  else s'

/-- The effect of NORM. -/
def normBody (_q : Nat) (r : Ring) (c : Cmd) (s : State) : Phase × State :=
  let i := xuInst s r c (Desc.rows c.desc)
  xuRun i (normReads c.desc) (normAlso c.desc) (weightsBad s i) (normOuts s c.desc i) (normWork c.desc) (normAfter s c.desc) s

/-- NORM (R333). -/
def execNorm (ring : Nat) (d : Desc) (s : State) : Host.Outcome State Fault Refusal :=
  .next (runCmd opNorm { check := normCheck, body := normBody } ring d s)

/-- SOFTMAX forward on a row whose elements are already scaled (R332). -/
def softmaxRow (x : List F32) : List F32 :=
  let mx := x.foldl fmax fNegInf
  if mx = fNegInf then x.map fun _ => fZero
  else
    let e := x.map fun v => fexp (fsub v mx)
    let r := frecip (e.foldl fadd fZero)
    e.map fun v => fmul v r

/-- SOFTMAX backward (R332). -/
def softmaxBack (scale : F32) (y dy : List F32) : List F32 :=
  let dot := (dy.zip y).foldl (fun t p => ffma p.1 p.2 t) fZero
  (dy.zip y).map fun p => fmul (fmul p.2 (fsub p.1 dot)) scale

/-- Checks of SOFTMAX (R332, R336). -/
def softmaxCheck (s : State) (r : Ring) (c : Cmd) : Option Result :=
  let d := c.desc
  let back := Desc.mode d = 1
  if 1 < Desc.mode d then some (descErr 0x07 6)
  else
    match operandCheck s d (if back then [3, 4, 5] else [2, 5]) [] (if back then [2] else [3, 4]) with
    | some e => some e
    | none =>
      let m := Desc.rows d
      let n := tensorK s (operandTensor s (operand d.w5))
      if !layerKnown s d then some (descErr 0x05 6)
      else
        match ((if back then [3, 4, 5] else [2, 5]).find? fun i => !fitsRows s (operand (Desc.word d i)) m n) with
        | some i => some (descErr 0x07 i)
        | none => ouvutCheck s r c (if back then [3, 4, 5] else [2, 5])

/-- What SOFTMAX reads. -/
def softmaxReads (d : Desc) : List (Operand × Nat) :=
  if Desc.mode d = 1 then [(operand d.w3, Desc.rows d), (operand d.w4, Desc.rows d)] else [(operand d.w2, Desc.rows d)]

/-- The rows of SOFTMAX in replica `rep`. -/
def softmaxOuts (s : State) (d : Desc) (i : Instn) (rep : Nat) : List (List Outp) :=
  let scale : F32 := BitVec.ofNat 32 (bits d.w7 63 32)
  let vals (w : W64) := operandVals s (operand w) i.beat rep (Desc.rows d)
  if Desc.mode d = 1 then ((vals d.w3).zip (vals d.w4)).map fun p => outRow (anyBad p.1 || anyBad p.2) (softmaxBack scale p.1 p.2)
  else (vals d.w2).map fun xs => outRow (anyBad xs) (softmaxRow (xs.map fun x => fmul x scale))

/-- What an attempt of SOFTMAX counts. -/
def softmaxWork (d : Desc) (i : Instn) (s : State) : State :=
  countXu i (b2n (Desc.mode d == 1)) (b2n (Desc.mode d != 1)) (b2n (Desc.mode d != 1)) s

/-- The effect of SOFTMAX. -/
def softmaxBody (_q : Nat) (r : Ring) (c : Cmd) (s : State) : Phase × State :=
  let i := xuInst s r c (Desc.rows c.desc)
  xuRun i (softmaxReads c.desc) [] false (softmaxOuts s c.desc i) (softmaxWork c.desc) (fun _ s => s) s

/-- SOFTMAX (R332). -/
def execSoftmax (ring : Nat) (d : Desc) (s : State) : Host.Outcome State Fault Refusal :=
  .next (runCmd opSoftmax { check := softmaxCheck, body := softmaxBody } ring d s)

/-- HEADS and KV_ROWS of Table 11.9. -/
def Desc.heads (d : Desc) : Nat := bits d.w6 15 8
def Desc.kvRows (d : Desc) : Nat := bits d.w7 31 0

/-- Checks of ATTEND (R331, R336). -/
def attendCheck (s : State) (r : Ring) (c : Cmd) : Option Result :=
  let d := c.desc
  match operandCheck s d [2, 3, 4, 5] [] [] with
  | some e => some e
  | none =>
    match layerEnt s (Desc.layer d) with
    | none => some (descErr 0x05 6)
    | some l =>
      let qm := Desc.heads d * Desc.rows d
      let kv := Desc.heads d * Desc.kvRows d
      if Desc.heads d = 0 then some (descErr 0x07 6)
      else
        match ([(2, qm), (3, kv), (4, kv), (5, qm)].find? fun p => !fitsRows s (operand (Desc.word d p.1)) p.2 l.k) with
        | some p => some (descErr 0x07 p.1)
        | none =>
          let b := cmdBeat s r c
          let f (i : Nat) : Nat := operandFmt s (operand (Desc.word d i)) b
          let placed := placedPath s l.layer (layerRung s l.layer) 0 (Desc.rows d)
          let p := (roleForm (layerRecipe s l.layer) (layerRung s l.layer) 0).fmt.toNat
          if ouvutLayer s l.layer then (ouvutWord s d [2, 3, 4, 5] b).map fun i => descErr 0x09 i
          else
            match ([2, 3, 4].find? fun i => 15 ≤ f i || (placed != 3 && declaredFp32 s (operand (Desc.word d i)) b)) with
            | some i => some (descErr 0x09 i)
            | none =>
              if placed = 3 then none
              else if isAffineFmt (f 2) ∧ isFloatFmt (f 3) ∧ f 3 ≠ 0 then some (descErr 0x09 2)
              else if isAffineFmt p ∧ isFloatFmt (f 4) ∧ f 4 ≠ 0 then some (descErr 0x09 4)
              else none

/-- P converted into the recipe's activation format, as a side of the second product (R331 step 3), with its conversions; it
has no tensor descriptor, so TENSOR and AFFINE forms take s = 1.0 and z = 0 (log entry 32). -/
def attendP (form : Form) (ieee : Bool) (rows : List (List F32)) : Side × List EncRow :=
  let k := (rows.headD []).length
  let enc := rows.map fun xs => encodeRow form ieee fOne 0 (fun _ => .near) (xs.map fun x => some (fv x))
  let esc := escapesOf k [] (enc.zipIdx.map fun p => (p.2, p.1))
  let gs := (List.range (ceilDiv (k * rows.length) 4096)).map fun g =>
    fillSlot form.cap g 0 (k * rows.length) [] (esc.filter fun p => p.1 / 4096 == g)
  let slots := gs.map (·.2)
  let lost := gs.flatMap (·.1)
  let enc : List EncRow := enc.zipIdx.map fun p =>
    let es : List Enc := p.1.elems.zipIdx.map fun q =>
      if lost.contains (p.2 * k + q.2) then surplusEnc form (form.scaler fOne 0) q.1 else q.1
    { p.1 with elems := es }
  let src : RowSource :=
    { form := form, k := k, ieee := ieee, flush := false, outs := [], strip := fun r =>
        (match enc[r]? with | some e => packStrip form e.scales (e.elems.map (·.code)) | none => [], false)
      ext := fun _ => ([], false), slot := fun g => (slots.getD g [], false), outVal := fun _ _ => (fZero, false), sz := fun _ => (fOne, 0)
      szBad := fun _ => false, cb := fun _ _ => fZero, cbBad := fun _ => false }
  (sideRows src 0 rows.length, enc)

/-- One head of one attempt: both products with their sides, paths and classes, the conversions of P, and the outputs. -/
structure Head where
  q : Side
  k : Side
  p : Side
  v : Side
  run1 : Nat × Nat
  run2 : Nat × Nat
  scores : List (List Dot)
  prods : List (List Dot)
  enc : List EncRow
  outs : List (List Outp)
  bad : List Bool

/-- One head of one attempt (R331). -/
def attendHead (s0 : State) (i : Instn) (d : Desc) (rung : Nat) (again : Bool) (rep h : Nat) : Head :=
  let m := Desc.rows d
  let kv := Desc.kvRows d
  let src (w : W64) (n : Nat) (cross : Bool) : Side :=
    match operandSource s0 (operand w) i.beat rep with
    | some x => if cross then sideCols x ((operand w).first + h * n) n else sideRows x ((operand w).first + h * n) n
    | none => { form := entryForm s0 0, vecs := [], sc := [], zp := [], sums := [], off := false }
  let q := src d.w2 m false
  let k := src d.w3 kv false
  let v := src d.w4 kv true
  let ouv := ouvutLayer s0 i.layer
  let placed := placedPath s0 i.layer rung 0 m
  let run (a b : Side) : Nat × Nat :=
    (if 4 ≤ rung || ouv then 3 else runPath placed a.form.fmt.toNat b.form.fmt.toNat, runClass a.form.fmt.toNat b.form.fmt.toNat rung again)
  let scale : F32 := BitVec.ofNat 32 (bits d.w7 63 32)
  let st := dotMatrix ouv (run q k).1 (run q k).2 q k m kv
  let p := st.zipIdx.map fun r => softmaxRow (r.1.zipIdx.map fun x =>
    if (bit d.w6 7 && decide (r.2 + kv < x.2 + m)) = true then fNegInf else fmul x.1.y scale)
  let form := if ouv then ouvutForm else roleForm (layerRecipe s0 i.layer) rung 0
  let ps := attendP form (ouv || Recipe.ieee (layerRecipe s0 i.layer)) p
  let ot := dotMatrix ouv (run ps.1 v).1 (run ps.1 v).2 ps.1 v m i.cols
  let flaw (r : EncRow) : Bool × Bool :=
    (r.elems.any fun e => e.out == .surplus, r.elems.zipIdx.any fun e => e.1.flag || encNonfinite form r.scales e.2 e.1)
  let flaws := ps.2.map flaw
  let outs := ot.zipIdx.map fun r =>
    let fl := flaws.getD r.2 (false, false)
    let row := st.getD r.2 []
    let oi := row.any fun x => x.overInt
    let of_ := row.any fun x => x.overFloat
    let bi := row.any fun x => x.badIn
    r.1.map fun x =>
      { y := x.y, overInt := x.overInt || oi, overFloat := x.overFloat || of_, badIn := x.badIn || bi, surplus := fl.1, nonfin := fl.2 : Outp }
  { q := q, k := k, p := ps.1, v := v, run1 := run q k, run2 := run ps.1 v, scores := st, prods := ot, enc := ps.2, outs := outs
    bad := flaws.map fun x => x.1 || x.2 }

/-- The part of a tile's share that lies in the rows of head `h`, with all columns of the scores or its own (log entry 126). -/
def headShare (m h : Nat) (cols : Option Nat) (x : Share) : Share :=
  let r0 := max x.r0 (h * m)
  { r0 := r0 - h * m, rc := min (x.r0 + x.rc) (h * m + m) - r0, c0 := if cols.isSome then 0 else x.c0, cc := if x.cc = 0 then 0 else cols.getD x.cc }

/-- Passes of a tile's share in one head: of the scores, and of the outputs. -/
def headPasses (m kv d h : Nat) (x : Head) (sh : Share) : Nat × Nat :=
  let p (run : Nat × Nat) (cols : Option Nat) (k : Nat) : Nat :=
    let y := headShare m h cols sh
    if run.1 ≠ 0 ∨ y.rc = 0 then 0 else passesOf run.2 y.rc y.cc k
  (p x.run1 (some kv) d, p x.run2 none kv)

/-- Passes of a tile's share in the heads before. -/
def passesBefore (m kv d : Nat) (hs : List Head) (sh : Share) : Nat :=
  hs.zipIdx.foldl (fun n x => n + (headPasses m kv d x.2 x.1 sh).1 + (headPasses m kv d x.2 x.1 sh).2) 0

/-- The pass of its tile in which an overflow of an output of head `h` is found: a score's entry, the conversion of P once the scores of
the head are formed, or the output itself. -/
def headSeen (i : Instn) (d : Desc) (tiles h : Nat) (before : List Head) (x : Head) : List (List Nat) :=
  let m := Desc.rows d
  let kv := Desc.kvRows d
  let xs := splitOutputs tiles i.rows i.cols
  x.prods.zipIdx.map fun r => r.1.zipIdx.map fun c =>
    match xs.find? fun z => z.holds (h * m + r.2) c.2 with
    | none => 0
    | some z =>
      let b := passesBefore m kv i.cols before z
      let n := (headPasses m kv i.cols h x z).1
      let lost := (x.scores.getD r.2 []).zipIdx.filter fun y => y.1.overInt || y.1.overFloat
      match (lost.map fun y => foundAt x.run1.1 x.run1.2 x.q x.k i.cols (headShare m h (some kv) z) r.2 y.2 true) with
      | y :: ys => b + ys.foldl min y
      | [] =>
        if x.bad.getD r.2 false then b + n - 1
        else b + n + foundAt x.run2.1 x.run2.2 x.p x.v kv (headShare m h none z) r.2 c.2 (c.1.overInt || c.1.overFloat)

/-- What a head does on its tiles: the passes and counters of both products, and the XU's scaling, exponentials and reciprocals. A share
that is retried runs its first pass again in the head in which it begins (R477). -/
def countHead (i : Instn) (d : Desc) (stop : Option Nat) (again tiles : List Nat) (h : Nat) (before : List Head) (x : Head) (s : State) : State :=
  let m := Desc.rows d
  let kv := Desc.kvRows d
  let xs := (splitOutputs tiles.length i.rows i.cols).zip tiles
  let again := again.filter fun t => xs.any fun p => p.2 == t && p.1.r0 / m == h
  let at_ (cols : Option Nat) (z : Share) : Share := ((xs.find? fun p => headShare m h cols p.1 == z).map (·.1)).getD z
  let lim1 (z : Share) : Option Nat := stop.map fun n => n - passesBefore m kv i.cols before (at_ (some kv) z)
  let lim2 (z : Share) : Option Nat :=
    stop.map fun n => n - (passesBefore m kv i.cols before (at_ none z) + (headPasses m kv i.cols h x (at_ none z)).1)
  let s := tilesProduct i.layer x.run1.1 x.run1.2 again lim1 x.q x.k i.cols (xs.map fun p => (headShare m h (some kv) p.1, p.2)) x.scores s
  let s := xs.foldl (fun s p =>
    let r := (headShare m h none p.1).rc
    if r = 0 then s else xuWork p.2 (r * kv) (r * kv) (r * (kv + 1)) s) s
  tilesProduct i.layer x.run2.1 x.run2.2 [] lim2 x.p x.v kv (xs.map fun p => (headShare m h none p.1, p.2)) x.prods s

/-- Conversions of P count into the layer's records as activations (05 R131). -/
def countP (cv : Conv) (f : Form) (row0 : Nat) (enc : List EncRow) (s : State) : State :=
  match cv.owner with
  | none => s
  | some (layer, _, recipe, rung) =>
    enc.zipIdx.foldl (fun s p => p.1.elems.zipIdx.foldl (fun s q =>
      updStat (statKey layer 0 (cv.unit (row0 + p.2) 0)) recipe rung (StatRec.elem q.1 (refExp f p.1 (fOne, 0) q.2)) s) s) s

/-- The heads of one attempt of an ATTEND on a replica. -/
def attendHeads (s0 : State) (i : Instn) (d : Desc) (rg : Nat) (again : Bool) (rep : Nat) : List Head :=
  (List.range (Desc.heads d)).map (attendHead s0 i d rg again rep)

/-- The outputs of one attempt of an ATTEND on a replica. With KV_ROWS 0 the reduction of the second product is empty (04 Table 4.8). -/
def attendOut (s0 : State) (i : Instn) (d : Desc) (rg : Nat) (again : Bool) (rep : Nat) : AttemptOut :=
  if i.dry then xuOut (List.replicate i.rows (outRow false (List.replicate i.cols fZero)))
  else
    let hs := attendHeads s0 i d rg again rep
    { outs := hs.flatMap (·.outs), pre := []
      seen := hs.zipIdx.flatMap fun x => headSeen i d (stageTiles s0 i.stage rep).length x.2 (hs.take x.2) x.1 }

/-- What the tiles do for it: the heads in order, with the conversions of P counted. -/
def attendWork (s0 : State) (i : Instn) (d : Desc) (retry : List Nat) (rg : Nat) (again : Bool) (rep : Nat) (stop : Option Nat) (s : State) : State :=
  let tiles := stageTiles s0 i.stage rep
  if i.dry then emptyEpilogue rg ((splitOutputs tiles.length i.rows i.cols).zip tiles) s
  else
    let hs := attendHeads s0 i d rg again rep
    let cv := instConv s0 i (operandTensor s0 i.out) rg tiles
    hs.zipIdx.foldl (fun s x =>
      countP cv (roleForm (layerRecipe s0 i.layer) rg 0) (i.out.first + x.2 * Desc.rows d) x.1.enc
        (countHead i d stop (if again then [] else retry) tiles x.2 (hs.take x.2) x.1 s)) s

/-- The instance of an ATTEND. -/
def attendInst (s : State) (r : Ring) (c : Cmd) : Instn :=
  { xuInst s r c (Desc.heads c.desc * Desc.rows c.desc) with dry := Desc.kvRows c.desc == 0 }

/-- What ATTEND reads. -/
def attendReads (d : Desc) : List (Operand × Nat) :=
  [(operand d.w2, Desc.heads d * Desc.rows d), (operand d.w3, Desc.heads d * Desc.kvRows d), (operand d.w4, Desc.heads d * Desc.kvRows d)]

/-- The effect of ATTEND. -/
def attendBody (_q : Nat) (r : Ring) (c : Cmd) (s : State) : Phase × State :=
  let d := c.desc
  let i := attendInst s r c
  let rung := layerRung s i.layer
  if i.rows = 0 ∨ i.cols = 0 then (.finished okResult, s)
  else
    let reads := attendReads d
    let bad := badReps s i reads rung i.rows
    let s := reads.foldl (fun s x => touchOperand i.stage x.1 i.beat x.2 s) s
    if arrayGone s i.stage (i.out :: reads.map (·.1)) i.beat then (.finished (stResult stFault), poisonOut i rung i.rows s)
    else
      let fl := takeTileFlags i.stage s
      let s := poisonOut { i with reps := bad } rung i.rows fl.2.2
      let good := { i with reps := i.reps.filter fun rep => !bad.contains rep }
      if good.reps.isEmpty then (.finished (stResult stPoisoned), s)
      else
        let missed := reads.any fun x => good.reps.any fun rep => operandMiss s x.1 i.beat rep x.2
        let s0 := noteMissed i rung missed s
        let fl0 := isFloatFmt (operandFmt s0 (operand d.w2) i.beat) || isFloatFmt (operandFmt s0 (operand d.w3) i.beat)
        arrayEnd good (fl.1, fl.2.1) bad (attempts good fl0 (attendOut s0 good d) (attendWork s0 good d fl.1) (fun _ _ _ s => s) 6 rung 0 s0)

/-- ATTEND (R331). -/
def execAttend (ring : Nat) (d : Desc) (s : State) : Host.Outcome State Fault Refusal :=
  .next (runCmd opAttend { check := attendCheck, body := attendBody } ring d s)

/-- Checks of CONVERT (R330, R336). -/
def convertCheck (s : State) (r : Ring) (c : Cmd) : Option Result :=
  let d := c.desc
  match operandCheck s d [2, 5] [] [3, 4] with
  | some e => some e
  | none =>
    let m := Desc.rows d
    let n := tensorK s (operandTensor s (operand d.w5))
    if !layerKnown s d then some (descErr 0x05 6)
    else if !fitsRows s (operand d.w2) m n then some (descErr 0x07 2)
    else if !fitsRows s (operand d.w5) m n then some (descErr 0x07 5)
    else ouvutCheck s r c [2, 5]

/-- The conversion of CONVERT in the replicas that run it: no repeat, a surplus escape keeps the max code (R82, R330), and every value
is rounded once (R84). Answers the surplus. -/
def convertRun (d : Desc) (i : Instn) (s : State) : Nat × State :=
  let t := operandTensor s i.out
  let form := match governor s t with | none => entryForm s t | some _ => tensorForm s t
  let vals := i.reps.map fun rep => (rep, operandFulls s (operand d.w2) i.beat rep (Desc.rows d))
  vals.foldl (fun acc v =>
    match locate acc.2 i.out i.beat v.1 (some form) with
    | some l =>
      let cv := { instConv acc.2 i t (layerRung s i.layer) (stageTiles acc.2 i.stage v.1) with
        ieee := Recipe.ieee (recipeAt acc.2 (bits d.w7 63 50)) }
      let p := putRows cv l i.out.first v.2 acc.2
      (acc.1 + p.1.surplus, p.2)
    | none => acc) (0, s)

/-- The effect of CONVERT. -/
def convertBody (_q : Nat) (r : Ring) (c : Cmd) (s : State) : Phase × State :=
  let d := c.desc
  let m := Desc.rows d
  let i := xuInst s r c m
  let rung := layerRung s i.layer
  let reads := [(operand d.w2, m)]
  if m = 0 then (.finished okResult, s)
  else
    let bad := badReps s i reads rung m
    let s := touchOperand i.stage (operand d.w2) i.beat m s
    if unitsGone s i.stage [i.out, operand d.w2] i.beat then (.finished (stResult stFault), poisonOut i rung m s)
    else
      let s := poisonOut { i with reps := bad } rung m s
      let good := { i with reps := i.reps.filter fun rep => !bad.contains rep }
      if good.reps.isEmpty then (.finished (stResult stPoisoned), s)
      else
        let missed := good.reps.any fun rep => operandMiss s (operand d.w2) i.beat rep m
        let out := convertRun d good (noteMissed i rung missed s)
        (.finished (mkResult (if bad.isEmpty then stOk else stPoisoned) (if 0 < out.1 then flSurplus else 0) 0 0), countXu good 0 0 0 out.2)

/-- CONVERT (R330). -/
def execConvert (ring : Nat) (d : Desc) (s : State) : Host.Outcome State Fault Refusal :=
  .next (runCmd opConvert { check := convertCheck, body := convertBody } ring d s)

/-- Weight storage form of a layer at a rung (R125, R330). -/
def weightForm (s : State) (layer rung : Nat) : Form :=
  if ouvutLayer s layer then ouvutForm else roleForm (layerRecipe s layer) rung 1

/-- Checks of LOAD_WEIGHTS (R330, R336). -/
def loadCheck (s : State) (_r : Ring) (c : Cmd) : Option Result :=
  let d := c.desc
  if s.ple.placement.isNone then some (descErr 0x05 6)
  else
    match layerEnt s (Desc.layer d) with
    | none => some (descErr 0x05 6)
    | some l =>
      if bits d.w7 39 0 ≠ l.n * (weightForm s l.layer (layerRung s l.layer)).stripBytes l.k then some (descErr 0x09 7) else none

/-- Add a version of a layer's working weights; the last four are kept (08 R241). -/
def addWeights (layer : Nat) (w : Weights) (s : State) : State :=
  let ws := SMap.get s.tiles.weights layer [] ++ [w]
  { s with tiles := { s.tiles with weights := SMap.set s.tiles.weights layer (ws.drop (ws.length - 4)) [] } }

/-- First beat that may read a version written now (R330, 01 R26). -/
def nextBeat (s : State) : Nat := if s.tkc.running then s.tkc.beat.toNat + 1 else 0

/-- Scale of a layer's weights in a form (R471): the tensor's entry, or 1.0. -/
def weightScale (s : State) (t : Nat) (f : Form) : F32 :=
  match tensorPl s t with | some p => if f.mode = 3 ∧ 0 < p.entries then (scaleEntry s p.scale).1 else fOne | none => fOne

/-- The working weights that LOAD_WEIGHTS brings to layer `l` from host memory (R107, R472). -/
def loadedWeights (s : State) (d : Desc) (l : LayerEnt) : Weights :=
  let f := weightForm s l.layer (layerRung s l.layer)
  let outs := layerOutliers s l
  let side (w : W64) (n : Nat) : List Byte := if w = 0 then [] else hostRead s w.toNat n
  let w : Weights := {
    step := match s.upd.step with | some o => o.num | none => 0
    from_ := nextBeat s
    form := f
    scale := weightScale s l.weight f
    data := hostRead s d.w2.toNat (bits d.w7 39 0)
    raisins := if escapable f.fmt.toNat then side d.w3 (ceilDiv (l.n * l.k) 4096 * slotBytes f.cap) else []
    outliers := (chunks 4 (side d.w4 (4 * outs.length * l.n))).map fun b => BitVec.ofNat 32 (leNat b)
    codebook := if f.fmt = 15 then side d.w5 (32 * ceilDiv l.n 128) else []
    sums := []
    poisoned := false, tables := f.fmt != 15 }
  w.withSums s l

/-- The effect of LOAD_WEIGHTS. -/
def loadBody (_q : Nat) (r : Ring) (c : Cmd) (s : State) : Phase × State :=
  let d := c.desc
  match layerEnt s (Desc.layer d) with
  | none => (.finished okResult, s)
  | some l =>
    if !hostOk s r.context.toNat then (.finished (stResult stAccess), s)
    else if condemnedTile s r.stage.toNat then (.finished (stResult stFault), s)
    else
      let w := loadedWeights s d l
      (.finished okResult, formDigest 0 l.weight (Desc.micro d) (cmdBeat s r c) w.data (l.k * l.n) (addWeights l.layer w s))

/-- LOAD_WEIGHTS (R330). -/
def execLoadWeights (ring : Nat) (d : Desc) (s : State) : Host.Outcome State Fault Refusal :=
  .next (runCmd opLoadWeights { check := loadCheck, body := loadBody } ring d s)

/-- Array cycles of a build on a tile's share of a layer: four for each codebook, and the run sums (06 R164). -/
def buildCycles (k : Nat) (x : Share) : Nat := if x.cc = 0 then 0 else 4 * (ceilDiv (x.c0 + x.cc) 128 - x.c0 / 128) + ceilDiv (x.cc * k) 1024

/-- A command of this layer waits for its product tables (R164). -/
def waitsForTables (s : State) (layer : Nat) : Bool :=
  s.qsu.rings.any fun p => p.2.cmds.any fun c =>
    c.phase == .waiting && (Desc.opcode c.desc == opMatmul || Desc.opcode c.desc == opMatvec) && Desc.layer c.desc == layer &&
      tablesMissing s c.desc (cmdBeat s p.2 c) && decide (cmdBeat s p.2 c ≤ s.tkc.beat.toNat)

/-- The version whose tables a build completes: the oldest without them that no newer set stands before (06 R164; log entry 159). -/
def buildNext (ws : List Weights) : Option Nat :=
  (List.range ws.length).find? fun n =>
    !((ws.drop n).any fun w => w.form.fmt == 15 && w.tables) && ((ws.drop n).head?.elim false fun w => w.form.fmt == 15 && !w.tables)

/-- The versions after a build of version `n`: a tile keeps two sets, so that only the last one before stays (06 R164). -/
def builtSets (n : Nat) (ws : List Weights) : List Weights :=
  let last := (((List.range n).filter fun j => (ws.drop j).head?.elim false fun w => w.form.fmt == 15 && w.tables).getLast?).getD n
  ws.zipIdx.map fun p => if p.1.form.fmt = 15 then { p.1 with tables := p.2 == n || p.2 == last } else p.1

/-- PRODUCT_TABLE_BUILD (06 R164): the next version without its tables gets them, in the set that the last but one leaves. A command that
waits for them has waited as long as the build takes (log entry 64). -/
def execProductTableBuild (layer : Nat) (s : State) : Host.Outcome State Fault Refusal :=
  let ws := SMap.get s.tiles.weights layer []
  match buildNext ws, layerEnt s layer with
  | some n, some l =>
    if alive s then
      let waits := waitsForTables s layer
      let s := { s with tiles := { s.tiles with weights := SMap.set s.tiles.weights layer (builtSets n ws) [] } }
      .next ((List.range (stageReplicas s l.stage)).foldl (fun s rep =>
        let tiles := stageTiles s l.stage rep
        ((splitOutputs tiles.length 1 l.n).zip tiles).foldl (fun s x =>
          let s := serveBg 4 (0x2000 + x.2) (count (tileCtr x.2 19) 1 s)
          if waits then count (tileCtr x.2 20) (buildCycles l.k x.1) s else s) s) s)
    else .next s
  | _, _ => .next s

end Sys2Proof.Machine
end

