-- ==== Sys2Proof/Machine/Embed.lean ====
section
/-!
DEFINITION. Embedding tables in memory (07 R180-R187), EMB_GATHER, EMB_POOL and EMB_SCATTER (R188-R192), stochastic products
(R196-R202), write-back of the staging logs (R193) and the patrol scrubs (R178, R204).
-/
namespace Sys2Proof.Machine

/-- A placed embedding table: row dimension, rows, storage form, placement, recipe and update slot. -/
structure Tab where
  id : Nat
  d : Nat
  rows : Nat
  form : Form
  pl : TablePl
  recipe : Nat
  rule : Option Nat
  slot : Nat

def tabOf (s : State) (t : Nat) : Option Tab :=
  match tensorEnt s t, tablePl s t with
  | some e, some p =>
    some { id := t, d := e.k, rows := e.rows, form := tensorForm s t, pl := p, recipe := e.recipe.getD s.prc.defaultRecipe.toNat,
           rule := e.rule, slot := e.slot }
  | _, _ => none

/-- Row page of a row, its directory entry, and its place in the page (R180). -/
def Tab.page (b : Tab) (r : Nat) : Nat := r / b.pl.rowsPerPage
def Tab.place (b : Tab) (r : Nat) : Nat := r % b.pl.rowsPerPage
def Tab.dir (b : Tab) (s : State) (r : Nat) : Option DirEnt := SMap.find s.ple.dir (dirKey b.id (b.page r))

/-- Address of a row's strip; a page that the directory does not hold reads as a hole (log entry 36). -/
def Tab.rowAddr (b : Tab) (s : State) (r : Nat) : Option Nat :=
  (b.dir s r).map fun e => e.page + b.place r * b.form.stripBytes b.d

/-- Stride of an FP32 strip of a row: its accumulation row, its row-Adam state (R181, 08 R229). -/
def Tab.accStride (b : Tab) : Nat := roundUp 64 (4 * b.d)

/-- Address of a row's accumulation row. -/
def Tab.accAddr (b : Tab) (s : State) (r : Nat) : Option Nat := (b.dir s r).map fun e => e.acc + b.place r * b.accStride

/-- NBE that holds a row, or to which a far row is handed (R301): its home column. -/
def Tab.home (b : Tab) (s : State) (r : Nat) : Option Nat := (b.dir s r).map (·.home)

/-- The bytes of the last staging-log entry that `ok` admits with a write at an address (R193). -/
def logView (log : List LogEntry) (ok : LogEntry → Bool) (a : Nat) : Option (List Byte) :=
  ((log.filter ok).flatMap (·.writes)).foldl (fun m w => if w.1 = a then some w.2 else m) none

/-- Read `n` bytes at the place of a loggable item, as the log entries that `ok` admits show it. -/
def viewBytes (s : State) (ok : LogEntry → Bool) (a n : Nat) : List Byte × Bool :=
  match logView s.mem.log ok a with
  | some bs => (bs, false)
  | none => (devBytes s a n, devPoison s a n)

/-- The entries that stand for their rows (R193). -/
def activeLog : LogEntry → Bool := (·.committed)

/-- Rows of a table as a source. -/
def tabSource (s : State) (b : Tab) : RowSource :=
  let n := b.form.stripBytes b.d
  let g := slotBytes b.form.cap
  { form := b.form, k := b.d, ieee := tensorIeee s b.id, flush := ouvutTensor s b.id, outs := []
    strip := fun r => match b.rowAddr s r with | some a => viewBytes s activeLog a n | none => (List.replicate n 0, true)
    ext := fun _ => (List.replicate b.d 0, false)
    slot := fun i => viewBytes s activeLog (b.pl.raisin + i * g) g
    outVal := fun _ _ => (fZero, false)
    sz := fun _ => (weightScale s b.id b.form, 0)
    szBad := fun _ => match tensorPl s b.id with | some p => b.form.mode == 3 && decide (0 < p.entries) && devPoison s p.scale 8 | none => false
    cb := fun _ _ => fZero, cbBad := fun _ => false }

/-- One more access in the hotness counter of a near page (R186). -/
def heat (key : Nat) (s : State) : State :=
  { s with mem := { s.mem with hot := SMap.alter s.mem.hot key 0 fun n => min 255 (n + 1) } }

/-- One more access in the byte of a far group (10 R302). -/
def heatFar (b : Tab) (page : Nat) (s : State) : State :=
  let a := b.pl.far + page
  devWrite a [BitVec.ofNat 8 (min 255 ((Memory.get s.mem.cells a).toNat + 1))] s

/-- The access of one list entry to its row's page; a RECOMPUTE adds nothing (08 R241). -/
def heatRow (b : Tab) (again : Bool) (r : Nat) (s : State) : State :=
  match b.dir s r with
  | some e => if again then s else if e.far then heatFar b (b.page r) s else heat (e.page / 4096) s
  | none => s

/-- The access of one list entry to its accumulation page. -/
def heatAcc (b : Tab) (again : Bool) (r : Nat) (s : State) : State :=
  match b.dir s r with
  | some e => if again then s else heat ((e.acc + b.place r * b.accStride) / 4096) s
  | none => s

/-- One entry of a row list (Table 7.2, R183): bag, place in it, whether it ends the bag, its row if it contributes, whether it
is a bad index, and its weight. -/
structure ListItem where
  bag : Nat
  pos : Nat
  fin : Bool
  row : Option Nat
  bad : Bool
  w : F32
  deriving DecidableEq, Repr

/-- Read a row list from entry `i` (R182-R184): up to the entry that completes bag `bags - 1`, or the list's end. -/
def listItems (word : Nat → Nat) (weight : Nat → Option F32) (rows bags : Nat) : Nat → Nat → Nat → Nat → List ListItem
  | 0, _, _, _ => []
  | fuel + 1, i, bag, pos =>
    if bags ≤ bag then []
    else
      let w := word i
      let row := w % 2 ^ 40
      let null := row == 2 ^ 40 - 1
      let bad := (!null && decide (rows ≤ row)) || decide (65536 ≤ pos) || (weight i).isNone
      let fin := w / 2 ^ 63 % 2 == 1
      { bag := bag, pos := pos, fin := fin, row := if null || bad then none else some row, bad := bad, w := (weight i).getD fZero } ::
        listItems word weight rows bags fuel (i + 1) (if fin then bag + 1 else bag) (if fin then 0 else pos + 1)

/-- Entries in the strips of a list operand (R476). -/
def listLength (s : State) (o : Operand) : Nat := (operandRows s o - o.first) * (tensorK s (operandTensor s o) / 2)

/-- Entry `i` of a list. -/
def listWord (s : State) (l : Loc) (first i : Nat) : Nat :=
  leNat (l.bytes s (first + i / (l.k / 2)) (8 * (i % (l.k / 2))) 8)

/-- Weight `i` of a weight array, or none beyond its end (R476). -/
def listWeight (s : State) (l : Loc) (first rows i : Nat) : Option F32 :=
  if l.k = 0 ∨ rows ≤ first + i / l.k then none
  else
    let n := if l.form.fmt = 1 then 2 else 4
    let v := leNat (l.bytes s (first + i / l.k) (n * (i % l.k)) n)
    some (BitVec.ofNat 32 (if n = 2 then v * 65536 else v))

/-- The items of a list operand on a replica, with weights where the command is weighted. -/
def readList (s : State) (list : Operand) (wts : Option Operand) (beat rep rows bags : Nat) : List ListItem :=
  match locate s list beat rep none with
  | none => []
  | some l =>
    let weight (i : Nat) : Option F32 :=
      match wts with
      | none => some fOne
      | some o => (locate s o beat rep none).bind fun x => listWeight s x o.first (operandRows s o) i
    listItems (listWord s l list.first) weight rows bags (listLength s list) 0 0 0

/-- The ranges that the first `n` entries of `size` bytes of an operand lie in, strip by strip (R476, R184). -/
def listRanges (l : Loc) (first size n : Nat) : List (Nat × Nat) :=
  let per := 4 * l.k * (if l.form.fmt = 1 then 1 else 2) / 2 / size
  if per = 0 then []
  else (List.range (ceilDiv n per)).map fun j => (l.dpa + (first + j) * l.stride, size * min per (n - j * per))

/-- Entries of `size` bytes from an operand's first strip to the end of its tensor (R476). -/
def listEnd (s : State) (l : Loc) (o : Operand) (size : Nat) : Nat :=
  (operandRows s o - o.first) * (4 * l.k * (if l.form.fmt = 1 then 1 else 2) / 2 / size)

/-- Some entry of the first `n` of an operand, as far as it reaches, reads poisoned. -/
def listPoison (s : State) (o : Operand) (size beat rep n : Nat) : Bool :=
  match locate s o beat rep none with
  | some l =>
    let n := min n (listEnd s l o size)
    (decide (0 < n) && (halfAt s l.key).poisoned) || (listRanges l o.first size n).any fun p => devPoison s p.1 p.2
  | none => false

/-- The reads of a list operand's first `n` entries, as far as it reaches. -/
def touchList (o : Operand) (size beat rep n : Nat) (s : State) : State :=
  match locate s o beat rep none with
  | some l => (listRanges l o.first size (min n (listEnd s l o size))).foldl (fun s p => touch p.1 p.2 s) s
  | none => s

/-- The list ends before its last bag is complete (R184). -/
def listShort (items : List ListItem) (bags : Nat) : Bool := decide (0 < bags) && !items.any fun x => x.fin && x.bag + 1 == bags

/-- The NBE that counts the bad indices of a replica, whose first tile dispatches its entries (R183; log entry 61). -/
def badIndexNbe (s : State) (stage rep : Nat) : Nat :=
  let die := ((stageTiles s stage rep).headD 0) / 80
  (((List.range 256).map fun i => 256 * die + i).find? fun c => columnOn s c).getD (256 * die)

/-- Count bad indices. -/
def countBad (stage rep : Nat) (items : List ListItem) (s : State) : State :=
  let n := (items.filter (·.bad)).length
  if n = 0 then s else count (nbeCtr (badIndexNbe s stage rep) 10) n s

/-- Fields of the NBE operation word (Table 7.4) and BAGS. -/
def embTable (d : Desc) : Nat := bits d.w2 63 40
def embOut (d : Desc) : Nat := bits d.w2 39 32
def embIn (d : Desc) : Nat := bits d.w2 31 24
def embMode (d : Desc) : Nat := bits d.w2 19 18
def embBags (d : Desc) : Nat := bits d.w6 63 39
def embWeights (d : Desc) : Option Operand := if embMode d = 2 then some (operand d.w4) else none

/-- Format code 0x00-0x0E, or M40: a code that Table 3.1 gives and for which R128 gives a scale mode. -/
def embOutOk (c : Nat) : Bool := decide (c < 15) && fmtWidth c != 0

/-- The operand is a tensor of unscaled FP32 or BF16 elements. -/
def plainOperand (s : State) (o : Operand) (beat fmt : Nat) : Bool :=
  match locate s o beat 0 none with | some l => l.form.mode == 0 && l.form.fmt.toNat == fmt | none => false

/-- Form in which GATHER and POOL write their output (R188): at a rung where a layer's recipe governs it. -/
def embForm (s : State) (t rung : Nat) : Form :=
  match governor s t with
  | none => entryForm s t
  | some (l, role) => if ouvutLayer s l.layer then ouvutForm else roleForm (layerRecipe s l.layer) rung role

/-- Rung in force for a tensor that a layer's recipe governs. -/
def embRung (s : State) (t : Nat) : Nat := match governor s t with | some (l, _) => layerRung s l.layer | none => 4

/-- Checks of the EMB commands (R182, R188, R476, 08 R247, 11 R336). `scatter` tells EMB_SCATTER; `outRows` the output rows
known beforehand. -/
def embCheck (scatter : Bool) (outRows : Desc → Nat) (s : State) (r : Ring) (c : Cmd) : Option Result :=
  let d := c.desc
  let w := embMode d == 2
  match operandCheck s d ([3] ++ (if w then [4] else []) ++ [5]) [] (if w then [] else [4]) with
  | some e => some e
  | none =>
    let o := operand d.w5
    let beat := cmdBeat s r c
    match tabOf s (embTable d) with
    | none => some (descErr 0x05 2)
    | some b =>
      if scatter && (tensorPl s (bits d.w7 23 0)).isNone then some (descErr 0x05 7)
      else if embMode d = 3 ∨ 1 < embIn d ∨ !embOutOk (embOut d) then some (descErr 0x07 2)
      else if 16777216 < embBags d then some (descErr 0x07 6)
      else if !plainOperand s (operand d.w3) beat 0 then some (descErr 0x09 3)
      else if w && !plainOperand s (operand d.w4) beat (bits d.w2 17 17) then some (descErr 0x09 4)
      else if !fitsRows s o (outRows d) b.d then some (descErr 0x07 5)
      else if scatter && !plainOperand s o beat (embIn d) then some (descErr 0x09 5)
      else if !scatter && (embForm s (operandTensor s o) (embRung s (operandTensor s o))).fmt.toNat ≠ embOut d then some (descErr 0x09 2)
      else if ouvutStage s r.stage.toNat && (1 < embOut d || 1 < b.form.fmt.toNat) then some (descErr 0x09 2)
      else none

/-- What an EMB command runs with: its table, stage, beat, micro-batch, whether it is a RECOMPUTE, the tensor that seeds its
streams, whether weighted products go to the exact lane, the generators, the stream exponent, and whether it is weighted. -/
structure EmbRun where
  b : Tab
  stage : Nat
  beat : Nat
  micro : Nat
  again : Bool
  seedTensor : Nat
  exact : Bool
  genW : Nat
  genE : Nat
  l : Nat
  narrowW : Bool

/-- Streams of a table, first formed at placement (R202). -/
def streamOf (s : State) (b : Tab) : StreamState :=
  (SMap.find s.mem.streams b.id).getD
    { l := max 4 (min 10 (Recipe.precBits (recipeAt s b.recipe) + 1)), sum := 0, n := 0, closedSum := 0, closedN := 0, last := fZero }

def embRun (s : State) (r : Ring) (c : Cmd) (b : Tab) (seedTensor : Nat) : EmbRun :=
  let d := c.desc
  let gw := bits d.w2 10 8
  let ge := bits d.w2 13 11
  { b := b, stage := r.stage.toNat, beat := cmdBeat s r c, micro := Desc.micro d, again := Desc.recompute d, seedTensor := seedTensor
    exact := bit d.w2 16 || Recipe.sensitive (recipeAt s b.recipe) || s.act.forceExact || ouvutStage s r.stage.toNat
    genW := gw, genE := if ge = gw then (gw + 4) % 8 else ge, l := (streamOf s b).l, narrowW := bit d.w2 17 }

/-- ceil(log2) of the largest finite magnitude of some values; none where it is 0 or there is none (R196). -/
def maxExp (xs : List F32) : Option Int :=
  let m := (finiteMags (fvs xs)).foldl (fun a p => if magLe p.1 p.2 a.1 a.2 then a else p) (0, 0)
  if m.1 = 0 then none else some (clog2 m.1 m.2)

/-- A magnitude normalised to 2^e and quantised to 16 bits (R196). -/
def quantise (v : F32) (e : Int) : Nat :=
  match fv v with
  | .fin _ m x => min 65536 (roundAt .near m (x - e + 16) 0)
  | _ => 0

/-- One weighted product of an entry and an element: nothing (a zero operand), one for the exact lane, or a stream count with
its exponent (R196, R200, R201). -/
inductive Term where
  | none
  | exact (w v : F32)
  | stream (c e : Int)
  deriving DecidableEq, Repr

/-- Exponents e_v of the elements of a row, by blocks of 32 (R196). -/
def blockExps (vs : List F32) : List (Option Int) := (chunks 32 vs).flatMap fun b => List.replicate b.length (maxExp b)

/-- The products of one entry with the elements of a row or gradient row (R191, R196-R201). -/
def entryTerms (x : EmbRun) (seed : W64) (step : Nat) (it : ListItem) (ew : Option Int) (vs : List F32) : List Term :=
  let sw := if x.exact then [] else streamStates x.genW (2 ^ x.l) (genSeed seed x.seedTensor it.bag it.pos step x.micro x.genW)
  let sv := if x.exact then [] else streamStates x.genE (2 ^ x.l) (genSeed seed x.seedTensor it.bag it.pos step x.micro x.genE)
  let w := fv it.w
  (vs.zip (blockExps vs)).map fun p =>
    let v := fv p.1
    if x.exact || !w.finite || !v.finite then .exact it.w p.1
    else if w.isZero || v.isZero then .none
    else
      let e1 := ew.getD 0
      let e2 := p.2.getD 0
      let xw := quantise it.w e1
      let xv := quantise p.1 e2
      let c := ((sw.zip sv).filter fun q => decide (q.1 < xw) && decide (q.2 < xv)).length
      .stream (signedM (w.neg != v.neg) c) (e1 + e2 - x.l)

/-- e_w of a bag (R196). -/
def bagExp (items : List ListItem) : Option Int := maxExp ((items.filter fun i => i.row.isSome).map (·.w))

/-- The x_w of an entry enters the mean of R202, in units of 2^-300. -/
def noteWeight (x : EmbRun) (it : ListItem) (ew : Option Int) (s : State) : State :=
  match fv it.w with
  | .fin _ m e =>
    if x.again then s
    else
      let v : Nat := match ew with | some k => if m = 0 then 0 else m * 2 ^ (e - k + 300).toNat | none => 0
      let st := streamOf s x.b
      { s with mem := { s.mem with streams := SMap.put s.mem.streams x.b.id { st with sum := st.sum + v, n := st.n + 1 } } }
  | _ => s

/-- Lane slots of a product (R191): one where both significands have at most 8 bits. -/
def laneSlots (narrow : Bool) : Nat := if narrow then 1 else 4

/-- A format's significand has at most 8 bits (R191); CB4's entries are FP16. -/
def narrowFmt (c : Nat) : Bool := !([0, 2, 8, 15, 16].contains c)

/-- Count the products of an entry on its NBE; `narrow` tells of each whether both operands have at most 8 significant bits. -/
def countTerms (nbe : Nat) (narrow : List Bool) (ts : List Term) (s : State) : State :=
  let ns := (ts.filter fun t => match t with | .stream _ _ => true | _ => false).length
  let nx := (ts.zip narrow).foldl (fun n t => match t.1 with | .exact _ _ => n + laneSlots t.2 | _ => n) 0
  count (nbeCtr nbe 3) nx (count (nbeCtr nbe 2) ns s)

/-- The accumulators of one element of a partial: the FP32 chain, the stream sum, and whether the chain was used. -/
structure PartEnt where
  f : F32
  n : Entry
  used : Bool
  deriving DecidableEq, Repr

def partEnt0 : PartEnt := { f := fZero, n := entry0, used := false }

/-- Add a product to an element of a POOL partial (R190, R191, R200, R201). -/
def PartEnt.add (p : PartEnt) : Term → PartEnt
  | .none => p
  | .exact w v => { p with f := ffma w v p.f, used := true }
  | .stream c e => { p with n := p.n.addInt 2 c e }

/-- The value of an element of a partial (R190, R200, R201). -/
def PartEnt.value (exact : Bool) (p : PartEnt) : F32 :=
  let a := rne (Fv.ofInt p.n.a p.n.e)
  if exact then p.f else if p.used then fadd a p.f else a

/-- Values and poison of a row, and whether the row is there. -/
def tabRow (s : State) (b : Tab) (r : Nat) : List F32 × Bool :=
  let e := rowElems (tabSource s b) r
  (e.1.map (·.val), e.2)

/-- Which elements of a row have at most 8 significant bits: those of a narrow format that are no raisins, which are FP32 (R191). -/
def tabNarrow (s : State) (b : Tab) (r : Nat) : List Bool :=
  (rowElems (tabSource s b) r).1.map fun e => narrowFmt b.form.fmt.toNat && !e.held

/-- What reading a table row reads beside its strip: the slots of the groups its escapes lie in, and the table's scale entry. -/
def tabSide (s : State) (b : Tab) (r : Nat) : List (Nat × Nat) :=
  let n := slotBytes b.form.cap
  let esc := (rowCodes (tabSource s b) r).zipIdx.filter fun p => isEscape b.form.fmt.toNat p.1.1
  ((esc.map fun p => (r * b.d + p.2) / 4096).eraseDups.map fun g => (b.pl.raisin + g * n, n)) ++
    (match tensorPl s b.id with | some p => if b.form.mode = 3 ∧ 0 < p.entries then [(p.scale, 8)] else [] | none => [])

/-- Lookups in the directory cache of HIO; which of them hit is free (10 R303, R312; log entry 64). -/
def countLookups (n : Nat) (s : State) : State :=
  let hits := Config.dirHits (ctrAt s (pleCtr 7) + ctrAt s (pleCtr 8)) n % (n + 1)
  count (pleCtr 8) (n - hits) (count (pleCtr 7) hits s)

/-- Homes of the rows of some items, ascending (R190). -/
def homesOf (s : State) (b : Tab) (items : List ListItem) : List Nat :=
  items.foldl (fun m i => match i.row.bind (b.home s) with | some h => insertNat h m | none => m) []

/-- Lines of a column's row cache (Table 7.3). -/
def cacheLines : Nat := 256

/-- A near row is read through the row cache of its column, least recently used lines leaving it; a hit counts (Table 7.3, R185; log
entry 127). -/
def cacheRead (column a n : Nat) (s : State) : State :=
  if nearSize ≤ a then s
  else
    ((List.range ((a + n - 1) / 256 + 1 - a / 256)).map fun i => a / 256 + i).foldl (fun s l =>
      let ls := SMap.get s.mem.rowCache column []
      let s := if ls.contains l then count (nbeCtr column 11) 1 s else s
      { s with mem := { s.mem with
          rowCache := SMap.put s.mem.rowCache column ((l :: ls.filter fun x => x != l).take cacheLines) } }) s

/-- The reads of one bag or list by its entries: hotness, the row count of counter `ctr`, and the lines touched. -/
def embReads (x : EmbRun) (ctr : Nat) (items : List ListItem) (s : State) : State :=
  let n := x.b.form.stripBytes x.b.d
  items.foldl (fun s i =>
    match i.row with
    | none => s
    | some r =>
      let s := heatRow x.b x.again r s
      match x.b.rowAddr s r, x.b.home s r with
      | some a, some h =>
        (tabSide s x.b r).foldl (fun s p => touch p.1 p.2 s) (touch a n (cacheRead h a n (count (nbeCtr h ctr) 1 s)))
      | _, _ => badAddr s) s

/-- The partial of one NBE over its entries of a bag (R190), with what its products count. -/
def poolPartial (x : EmbRun) (weighted : Bool) (nbe : Nat) (items : List ListItem) (ew : Option Int) (s : State) : List F32 × State :=
  let mine := items.filter fun i => i.row.bind (x.b.home s) == some nbe
  if !weighted then
    ((mine.foldl (fun acc i => acc.zipWith fadd (tabRow s x.b (i.row.getD 0)).1) (List.replicate x.b.d fZero)), s)
  else
    let narrow (r : Nat) : List Bool := (tabNarrow s x.b r).map fun b => x.narrowW && b
    let out := mine.foldl (fun acc i =>
      let ts := entryTerms x (seedNow s) (stepNo s).toNat i ew (tabRow s x.b (i.row.getD 0)).1
      (acc.1.zipWith PartEnt.add ts, countTerms nbe (narrow (i.row.getD 0)) ts acc.2)) (List.replicate x.b.d partEnt0, s)
    (out.1.map (PartEnt.value x.exact), out.2)

/-- The output row of one bag, with whether it is poisoned (R190, Table 7.6). -/
def poolBag (x : EmbRun) (mode : Nat) (items : List ListItem) (s : State) : (List F32 × Bool) × State :=
  let live := items.filter fun i => i.row.isSome
  let ew := if mode = 2 then bagExp items else none
  let s1 := embReads x 1 live s
  let s1 := if mode = 2 then live.foldl (fun s i => noteWeight x i ew s) s1 else s1
  let sum := (homesOf s x.b live).foldl (fun acc h =>
    let p := poolPartial x (mode == 2) h live ew acc.2
    (acc.1.zipWith fadd p.1, p.2)) (List.replicate x.b.d fZero, s1)
  let n := live.length
  let y := if mode = 1 && 0 < n then sum.1.map fun v => fmul v (fdiv fOne (fOfNat n)) else sum.1
  ((y, live.any fun i => (tabRow s x.b (i.row.getD 0)).2), sum.2)

/-- The lowest-numbered unit that found a raisin overflow in a conversion (05 R150). -/
def surplusUnit (unit : Nat → Nat → Nat) (c : ConvOut) : Nat :=
  ((c.rows.flatMap fun p => (p.2.elems.zipIdx.filter fun q => q.1.out == .surplus).map fun q => unit p.1 q.2)).foldl min 4096

/-- Convert and store output rows of an EMB command; a raisin overflow repeats the conversion alone at the next wider rung of
the recipe that governs the output (05 R149). Repeats, and the state. -/
def embStore (x : EmbRun) (o : Operand) (rep : Nat) (unit : Nat → Nat → Nat) (rows : List (List F32)) : Nat → Nat → Nat → State → Nat × State
  | 0, _, n, s => (n, s)
  | fuel + 1, rung, n, s =>
    let t := operandTensor s o
    match locate s o x.beat rep (some (embForm s t rung)) with
    | none => (n, s)
    | some l =>
      let steer := (steerOf s x.b.recipe).rung.toNat
      let owner := if x.again then none else some (x.b.pl.statsId, statRole s t, x.b.recipe, steer)
      let cv : Conv :=
        { seed := seedNow s, step := (stepNo s).toNat, micro := x.micro, grad := gradRole s t, ieee := Recipe.ieee (recipeAt s x.b.recipe)
          ouvut := ouvutStage s x.stage, owner := owner, unit := unit }
      let c := convertRows cv s l o.first (rows.map fvs)
      let s := countConv cv l c s
      if 0 < c.surplus && (governor s t).isSome && decide (rung < 4) then
        let u := surplusUnit unit c
        let pay := repeatPayload x.b.pl.statsId x.b.recipe (if u < 320 then u else 0x1FF) rung (rung + 1) 4 x.micro
        let s := if x.again then s
          else updStat (statKey x.b.pl.statsId (statRole s t) u) x.b.recipe steer (StatRec.repeat (rung + 1 == 4)) s
        embStore x o rep unit rows fuel (rung + 1) (n + 1) (raise 0x21 pay s)
      else (n, storeRows l c (markNonfinite cv l c s))

/-- Tile of a stage that receives an output row of an EMB command. -/
def embTile (s : State) (x : EmbRun) (rep n first : Nat) (r c : Nat) : Nat :=
  let tiles := stageTiles s x.stage rep
  tiles.getD (shareOf (splitOutputs tiles.length n x.b.d) (r - first) c) 0

/-- Poison output rows by number. -/
def poisonListed (s0 : State) (x : EmbRun) (o : Operand) (rep : Nat) (rows : List Nat) (s : State) : State :=
  match locate s0 o x.beat rep none with
  | some l => rows.foldl (fun s r => poisonRows l (o.first + r) 1 s) s
  | none => s

/-- What one replica of an EMB command came to: items, repeats, poison, and the NBEs that substituted a generator. -/
structure EmbOut where
  items : List ListItem
  repeats : Nat
  poisoned : Bool
  subst : List Nat

/-- A copied row without the output's outlier channels, whose elements hold the code of +0 (05 R145). -/
def copyStrip (form : Form) (k : Nat) (outs : List Nat) (sz : F32 × Nat) (bs : List Byte) : List Byte :=
  if outs.isEmpty then bs
  else
    let us := unpackStrip form k bs
    let zc := zeroCode form.fmt.toNat (form.scaler sz.1 sz.2) false
    packStrip form (if form.block = 0 then [] else (chunks form.block us).map fun b => (b.headD (0, 0)).2)
      (us.zipIdx.map fun p => if outs.contains p.2 then zc else p.1.1)

/-- Rows of a GATHER whose storage form is the output's are copied bit for bit (R189); a null entry is a row of zeros. Outlier channels of
the output go to its side array (05 R145). -/
def gatherCopy (x : EmbRun) (o : Operand) (rep : Nat) (form : Form) (items : List ListItem) (s : State) : State :=
  match locate s o x.beat rep (some form) with
  | none => s
  | some l =>
    let outs := tensorOutliers s l.tensor
    let zero : List F32 := List.replicate x.b.d fZero
    let row (n : Nat) (i : ListItem) : List Byte × List F32 :=
      match i.row with
      | some r => (copyStrip form x.b.d outs (rowScale s l n) ((tabSource s x.b).strip r).1, rowVals (tabSource s x.b) r)
      | none =>
        let e := encodeRow form false (rowScale s l n).1 (rowScale s l n).2 (fun _ => .near) ((fvs zero).map some)
        (packStrip form e.scales (e.elems.map (·.code)), zero)
    let rows := items.zipIdx.map fun p => (o.first + p.2, row (o.first + p.2) p.1)
    let s2 := rows.foldl (fun s p => devWrite (l.row s p.1) p.2.1 s) s
    let s2 := if outs.isEmpty then s2 else rows.foldl (fun s p =>
      devWrite (l.outlier + 4 * (p.1 * outs.length)) ((outs.map fun j => p.2.2.getD j fZero).flatMap fun v => leBytes 4 v.toNat) s) s2
    setHalf l.key { form := some form, poisoned := (halfAt s2 l.key).poisoned } s2

/-- GATHER of one replica (R189). DESIGN CHOICE: no NBE holds a null or bad-index row, and R189 does not say which unit counts its
conversion; the model takes the tile that receives it (log entry 148). -/
def gatherRep (x : EmbRun) (d : Desc) (rep : Nat) (s : State) : EmbOut × State :=
  let o := operand d.w5
  let all := readList s (operand d.w3) (embWeights d) x.beat rep x.b.rows (embBags d)
  let items := all.take (operandRows s o - o.first)
  let t := operandTensor s o
  let rung := embRung s t
  let form := embForm s t rung
  let zero : List F32 := List.replicate x.b.d fZero
  let vals := items.map fun i => match i.row with | some r => tabRow s x.b r | none => (zero, false)
  let bad := (vals.zipIdx.filter fun p => p.1.2).map (·.2)
  let tile := embTile s x rep items.length o.first
  let byRow := form == x.b.form && (!form.esc || !escapable form.fmt.toNat)
  let s1 := embReads x 0 items s
  let unit (r c : Nat) : Nat :=
    if x.b.form.esc || form.esc then tile r c
    else match ((items.getD (r - o.first) { bag := 0, pos := 0, fin := false, row := none, bad := false, w := fZero }).row).bind (x.b.home s) with
      | some h => 0x400 + h
      | none => tile r c
  let out : Nat × State :=
    if byRow then (0, gatherCopy x o rep form items s1)
    else embStore x o rep unit (vals.map (·.1)) 6 rung 0 s1
  ({ items := all, repeats := out.1, poisoned := !bad.isEmpty, subst := [] }, poisonListed out.2 x o rep bad out.2)

/-- The bags of a list, `n` of them; a bag that the list does not reach is empty (R184). -/
def bagsOf (items : List ListItem) (n : Nat) : List (List ListItem) := (List.range n).map fun b => items.filter fun i => i.bag == b

/-- The command takes part of its weighted products as streams with a substituted generator (R199). -/
def substituted (d : Desc) (x : EmbRun) : Bool := embMode d == 2 && !x.exact && bits d.w2 10 8 == bits d.w2 13 11

/-- The NBEs that have formed stream products of a command with a substituted generator (R199). -/
def substNbes (s0 : State) (d : Desc) (x : EmbRun) (items : List ListItem) (s : State) : List Nat :=
  if !substituted d x then []
  else (homesOf s0 x.b items).filter fun h => ctrAt s0 (nbeCtr h 2) != ctrAt s (nbeCtr h 2)

/-- POOL of one replica (R190). -/
def poolRep (x : EmbRun) (d : Desc) (rep : Nat) (s : State) : EmbOut × State :=
  let o := operand d.w5
  let n := embBags d
  let items := readList s (operand d.w3) (embWeights d) x.beat rep x.b.rows n
  let ys : List (List F32 × Bool) × State := (bagsOf items n).foldl (fun acc g =>
    let y := poolBag x (embMode d) g acc.2
    (acc.1 ++ [y.1], y.2)) ([], s)
  let bad := (ys.1.zipIdx.filter fun p => p.1.2).map (·.2)
  let out := embStore x o rep (embTile s x rep n o.first) (ys.1.map (·.1)) 6 (embRung s (operandTensor s o)) 0 ys.2
  ({ items := items, repeats := out.1, poisoned := !bad.isEmpty, subst := substNbes s d x items ys.2 }, poisonListed out.2 x o rep bad out.2)

/-- What a product adds to an element of an accumulation row: the exact lane's fused product, or the rounded count (R191, R192, R200,
R201). -/
def Term.into (acc : F32) : Term → F32
  | .none => acc
  | .exact w v => ffma w v acc
  | .stream c e => fadd acc (rne (Fv.ofInt c e))

/-- The elements of an accumulation row after one entry (R192), with what the NBE counts; 1/n of MEAN is an FP32 operand. -/
def scatterRow (x : EmbRun) (mode n nbe : Nat) (narrowG : Bool) (ew : Option Int) (g old : List F32) (i : ListItem) (s : State) :
    List F32 × State :=
  match mode with
  | 0 => (old.zipWith fadd g, s)
  | 1 => (old.zipWith fadd (g.map fun v => fmul v (fdiv fOne (fOfNat n))), count (nbeCtr nbe 3) (g.length * laneSlots false) s)
  | _ =>
    let ts := entryTerms x (seedNow s) (stepNo s).toNat i ew g
    (old.zipWith Term.into ts, countTerms nbe (g.map fun _ => x.narrowW && narrowG) ts s)

/-- One entry of SCATTER_ADD (R192): whether it met poison, and the state. -/
def scatterEntry (x : EmbRun) (mode n : Nat) (narrowG gBad : Bool) (ew : Option Int) (g : List F32) (i : ListItem) (s : State) :
    Bool × State :=
  match i.row.bind (x.b.accAddr s), i.row.bind (x.b.home s) with
  | some a, some h =>
    let bytes := 4 * x.b.d
    let s := touch a bytes (heatAcc x.b x.again (i.row.getD 0) s)
    if gBad then (true, devPoisonRange a x.b.accStride s)
    else if devPoison s a bytes then (true, s)
    else
      let old := (chunks 4 (devBytes s a bytes)).map fun b => (BitVec.ofNat 32 (leNat b) : F32)
      let new := scatterRow x mode n h narrowG ew g old i s
      let s := count (nbeCtr h 4) x.b.d new.2
      (false, devWrite a ((new.1.flatMap fun v => leBytes 4 v.toNat) ++ devBytes s (a + bytes) (x.b.accStride - bytes)) s)
  | _, _ => (i.row.isSome, if i.row.isSome then badAddr s else s)

/-- One bag of a SCATTER_ADD: its entries in order (R192). -/
def scatterBag (x : EmbRun) (d : Desc) (rep : Nat) (s0 : State) (acc : Bool × State) (p : List ListItem × Nat) : Bool × State :=
  let o := operand d.w5
  let mode := embMode d
  let live := p.1.filter fun i => i.row.isSome
  let ew := if mode = 2 then bagExp live else none
  let g : List Elem × Bool := match operandSource s0 o x.beat rep with
    | some src => rowElems src (o.first + p.2)
    | none => ([], true)
  let s1 := match locate s0 o x.beat rep none with
    | some l => if live.isEmpty then acc.2 else touchRows l (o.first + p.2) 1 acc.2
    | none => acc.2
  live.foldl (fun acc i =>
    let s := if mode = 2 then noteWeight x i ew acc.2 else acc.2
    let e := scatterEntry x mode live.length (narrowFmt (embIn d)) g.2 ew (g.1.map (·.val)) i s
    (acc.1 || e.1, e.2)) (acc.1, s1)

/-- SCATTER_ADD of one replica (R192). -/
def scatterRep (x : EmbRun) (d : Desc) (rep : Nat) (s0 : State) : EmbOut × State :=
  let items := readList s0 (operand d.w3) (embWeights d) x.beat rep x.b.rows (embBags d)
  let out := (bagsOf items (embBags d)).zipIdx.foldl (scatterBag x d rep s0) (false, s0)
  ({ items := items, repeats := 0, poisoned := out.1, subst := substNbes s0 d x items out.2 }, out.2)

/-- The items of a command on a replica. -/
def embItems (s : State) (d : Desc) (x : EmbRun) (rep : Nat) : List ListItem :=
  readList s (operand d.w3) (embWeights d) x.beat rep x.b.rows (embBags d)

/-- Bytes of a weight of a command. -/
def weightBytes (d : Desc) : Nat := if bit d.w2 17 then 2 else 4

/-- An entry of a list, or of its weights, that an EMB command reads on a replica is poisoned, or the scale entry of an output row. -/
def embPoisoned (s : State) (d : Desc) (x : EmbRun) (scatter : Bool) (n rep : Nat) : Bool :=
  let k := (embItems s d x rep).length
  let o := operand d.w5
  let t := operandTensor s o
  listPoison s (operand d.w3) 8 x.beat rep k ||
    (match embWeights d with | some w => listPoison s w (weightBytes d) x.beat rep k | none => false) ||
    (!scatter && (match locate s o x.beat rep (some (embForm s t (embRung s t))) with
      | some l => (List.range n).any fun r => (match l.entry (o.first + r) with | some a => devPoison s a 8 | none => false)
      | none => false))

/-- The reads of the lists of a replica. -/
def embTouch (d : Desc) (x : EmbRun) (rep : Nat) (s : State) : State :=
  let k := (embItems s d x rep).length
  let s := touchList (operand d.w3) 8 x.beat rep k s
  match embWeights d with | some w => touchList w (weightBytes d) x.beat rep k s | none => s

/-- The rows of its output that an EMB command would write. -/
def embOutRows (s : State) (d : Desc) (x : EmbRun) (scatter : Bool) : Nat :=
  let n := if scatter then 0 else if Desc.opcode d = opEmbPool then embBags d
    else ((List.range (stageReplicas s x.stage)).map fun rep => (embItems s d x rep).length).foldl max 0
  min n (operandRows s (operand d.w5) - (operand d.w5).first)

/-- The replicas of an EMB command that run it, in turn; an NBE that substituted a generator counts it once (R199). -/
def embReplicas (one : EmbRun → Desc → Nat → State → EmbOut × State) (d : Desc) (x : EmbRun) (reps : List Nat) (s : State) : List EmbOut × State :=
  let o := reps.foldl (fun acc rep =>
    let s := embTouch d x rep acc.2
    let e := one x d rep (countLookups ((embItems s d x rep).filter fun i => i.row.isSome).length s)
    (acc.1 ++ [e.1], countBad x.stage rep e.1.items e.2)) (([] : List EmbOut), s)
  (o.1, (o.1.foldl (fun m e => e.subst.foldl (fun m h => insertNat h m) m) []).foldl (fun s h => count (nbeCtr h 9) 1 s) o.2)

/-- The result of an EMB command (R188, R189): bad indices and corrections are flags, a poisoned row or replica a status. -/
def embResult (bags : Nat) (outs : List EmbOut) (bad : Bool) : Result :=
  let badIdx := outs.any fun e => e.items.any (·.bad) || listShort e.items bags
  let flags := (if badIdx then flBadIndex else 0) ||| (if outs.any fun e => !e.subst.isEmpty then flCorr else 0)
  mkResult (if bad || outs.any (·.poisoned) then stPoisoned else stOk) flags (outs.foldl (fun n e => n + e.repeats) 0) 0

/-- The effect of an EMB command: `one` runs a replica. -/
def embBody (scatter : Bool) (seedTensor : State → Desc → Nat) (one : EmbRun → Desc → Nat → State → EmbOut × State)
    (_q : Nat) (r : Ring) (c : Cmd) (s : State) : Phase × State :=
  let d := c.desc
  match tabOf s (embTable d) with
  | none => (.finished okResult, s)
  | some b =>
    let x := embRun s r c b (seedTensor s d)
    let o := operand d.w5
    let n := embOutRows s d x scatter
    let i : Instn := { layer := noLayer, stage := x.stage, out := o, beat := x.beat, rows := embBags d, cols := b.d, swap := false,
                       micro := x.micro, recompute := x.again, dry := false, reps := List.range (stageReplicas s x.stage) }
    let lose (reps : List Nat) (s : State) : State := if scatter then s else poisonOut { i with reps := reps } 0 n s
    if embBags d = 0 then (.finished okResult, s)
    else if unitsGone s x.stage ([operand d.w3, o] ++ (embWeights d).toList) x.beat then (.finished (stResult stFault), lose i.reps s)
    else
      let bad := i.reps.filter (embPoisoned s d x scatter n)
      let out := embReplicas one d x (i.reps.filter fun rep => !bad.contains rep) (lose bad s)
      (.finished (embResult (embBags d) out.1 (!bad.isEmpty)), out.2)

/-- EMB_GATHER (R189). -/
def execEmbGather (ring : Nat) (d : Desc) (s : State) : Host.Outcome State Fault Refusal :=
  .next (runCmd opEmbGather
    { check := embCheck false (fun _ => 0), body := embBody false (fun s d => operandTensor s (operand d.w5)) gatherRep } ring d s)

/-- EMB_POOL (R190). -/
def execEmbPool (ring : Nat) (d : Desc) (s : State) : Host.Outcome State Fault Refusal :=
  .next (runCmd opEmbPool
    { check := embCheck false embBags, body := embBody false (fun s d => operandTensor s (operand d.w5)) poolRep } ring d s)

/-- EMB_SCATTER (R192). -/
def execEmbScatter (ring : Nat) (d : Desc) (s : State) : Host.Outcome State Fault Refusal :=
  .next (runCmd opEmbScatter { check := embCheck true embBags, body := embBody true (fun _ d => bits d.w7 23 0) scatterRep } ring d s)

/-- Write a committed staging-log entry back in place (R193): each place gets what the log last holds for it, and the entry
leaves the log. A row written in whole lines loses its poison (R194). -/
def writeBack (e : LogEntry) (s : State) : State :=
  let s := e.writes.foldl (fun s w => devWrite w.1 ((logView s.mem.log activeLog w.1).getD w.2) s) s
  { s with mem := { s.mem with log := s.mem.log.filter fun x => !(x == e) } }

/-- Write back every committed entry of a row. -/
def writeBackRow (table row : Nat) (s : State) : State :=
  (s.mem.log.filter fun e => e.committed && e.table == table && e.row == row).foldl (fun s e => writeBack e s) s

/-- STAGING_LOG_WRITEBACK (R193). -/
def execStagingLogWriteback (table row : Nat) (s : State) : Host.Outcome State Fault Refusal :=
  .next (if alive s then writeBackRow table row s else s)

/-- What a patrol read of a near word found (R176-R178). -/
def nearScrub (column word : Nat) (found : EccFinding) (s : State) : State :=
  let code (s : State) : State := addCorrection 1 column (count (nbeCtr column 12) 1 s)
  let link (s : State) : State := addCorrection 1 column (count (nbeCtr column 13) 1 s)
  match found with
  | .clean => s
  | .corrected => code s
  | .linkCorrected => link s
  | .both => code (link s)
  | .uncorrectable => nearPoison ((column * 2 ^ 29 + 32 * word) / 64) s
  | .linkUncorrectable => nearPoison ((column * 2 ^ 29 + 32 * word) / 64) (link s)

/-- NEAR_SCRUB_PASS (R178): the next word of an enabled column's patrol. -/
def execNearScrubPass (column word : Nat) (found : EccFinding) (s : State) : Host.Outcome State Fault Refusal :=
  .next (if alive s && s.mem.nearScrubEn && columnOn s column && word == SMap.get s.mem.scrubNear column 0 then
      nearScrub column word found (serveBg 0 column { s with mem := { s.mem with scrubNear := SMap.set s.mem.scrubNear column ((word + 1) % 2 ^ 24) 0 } })
    else s)

/-- Far address of a 32-byte sector of a channel (Table 7.1). -/
def sectorAddr (channel sector : Nat) : Nat :=
  farBase + (sector / 128 * 64 + channel) * 4096 + 32 * (sector % 128)

/-- What a patrol read of a far sector found (R204). -/
def farScrub (channel sector : Nat) (found : EccFinding) (s : State) : State :=
  let code (s : State) : State := addCorrection 2 channel (count (farCtr (channel / 4) 0) 1 s)
  let link (s : State) : State := addCorrection 2 channel (count (farCtr (channel / 4) 1) 1 s)
  match found with
  | .clean => s
  | .corrected => code s
  | .linkCorrected => link s
  | .both => code (link s)
  | .uncorrectable => farPoison (sectorAddr channel sector / 64) s
  | .linkUncorrectable => farPoison (sectorAddr channel sector / 64) (link s)

/-- FAR_SCRUB_PASS (R204): the next sector of an enabled channel's patrol. -/
def execFarScrubPass (channel sector : Nat) (found : EccFinding) (s : State) : Host.Outcome State Fault Refusal :=
  .next (if alive s && s.mem.farScrubEn && channelOn s channel && sector == SMap.get s.mem.scrubFar channel 0 then
      farScrub channel sector found (serveBg 0 (0x400 + channel / 4) { s with mem := { s.mem with scrubFar := SMap.set s.mem.scrubFar channel ((sector + 1) % 2 ^ 30) 0 } })
    else s)

end Sys2Proof.Machine
end

