-- ==== Sys2Proof/Machine/Place.lean ====
section
/-!
DEFINITION. Graph images and their load-time checks (10 R288-R291), and the placement that the engine makes of them
(R293-R300, R309, R228). Where the manual leaves an address open it is a free value (log entry 9).
-/
namespace Sys2Proof.Machine

/-- Word `i` of entry `j` of an image table at `a` with entries of `n` words. -/
def imgWord (s : State) (a n j i : Nat) : W64 := hostW64 s (a + 8 * (n * j + i))

/-- A stage, layer, tensor, edge and hint entry (Tables 10.2-10.5). -/
def stageOf (s : State) (a j : Nat) : StageEnt :=
  let w0 := imgWord s a 2 j 0
  let w1 := imgWord s a 2 j 1
  { stage := bits w0 63 52, kind := bits w0 51 48, strict := bit w0 47, locked := bit w0 46, replicas := bits w0 45 40 + 1,
    tiles := bits w0 15 0, group := if bit w1 57 then some (bits w1 63 58) else none }

def layerOf (s : State) (a data j : Nat) : LayerEnt :=
  let w0 := imgWord s a 4 j 0
  let w1 := imgWord s a 4 j 1
  let w2 := imgWord s a 4 j 2
  let w3 := imgWord s a 4 j 3
  { layer := bits w0 63 48, stage := bits w0 47 36, recipe := if bit w0 21 then some (bits w0 35 22) else none,
    rule := if bit w0 6 then some (bits w0 20 7) else none, weight := bits w1 63 40, input := bits w1 39 16, output := bits w2 63 40,
    k := bits w3 63 32, n := bits w3 31 0,
    channels := (List.range (bits w2 39 32)).map fun i => hostNat s (data + bits w2 31 0 + 4 * i) 4 }

def tensorOf (s : State) (a j : Nat) : TensorEnt :=
  let w0 := imgWord s a 4 j 0
  let w1 := imgWord s a 4 j 1
  let w2 := imgWord s a 4 j 2
  let w3 := imgWord s a 4 j 3
  { tensor := bits w0 63 40
    form := { fmt := BitVec.ofNat 8 (bits w0 39 32), mode := bits w0 31 29, b32 := bit w0 28, esc := bit w0 27, cap := bits w0 26 19 }
    role := bits w0 18 16, sign1 := bit w0 15, hostVisible := bit w0 14, rows := bits w1 63 24, k := bits w2 63 32,
    sliceRows := bits w2 31 0, recipe := if bit w3 49 then some (bits w3 63 50) else none,
    rule := if bit w3 34 then some (bits w3 48 35) else none, slot := bits w3 33 20 }

def edgeOf (s : State) (a j : Nat) : EdgeEnt :=
  let w0 := imgWord s a 2 j 0
  { edge := bits w0 63 32, producer := bits w0 31 20, consumer := bits w0 19 8, tensor := bits (imgWord s a 2 j 1) 63 40 }

def hintOf (s : State) (a j : Nat) : HintEnt :=
  let w0 := imgWord s a 2 j 0
  { kind := bits w0 63 60, a := bits w0 59 36, b := bits w0 35 12, arg := bits w0 11 0 }

/-- Word `i` of an image header (Table 10.1), and the counts of its tables. -/
def imgHead (s : State) (a i : Nat) : W64 := hostW64 s (a + 8 * i)
def imgStages (s : State) (a : Nat) : Nat := bits (imgHead s a 2) 47 32
def imgLayers (s : State) (a : Nat) : Nat := bits (imgHead s a 2) 63 48
def imgTensors (s : State) (a : Nat) : Nat := bits (imgHead s a 2) 31 0
def imgEdges (s : State) (a : Nat) : Nat := bits (imgHead s a 3) 63 32
def imgHints (s : State) (a : Nat) : Nat := bits (imgHead s a 3) 31 0

/-- Offsets of the tables after the stage table, and of the data area (R289). -/
def imgOff (s : State) (a t : Nat) : Nat :=
  64 + (if 0 < t then 16 * imgStages s a else 0) + (if 1 < t then 32 * imgLayers s a else 0) +
    (if 2 < t then 32 * imgTensors s a else 0) + (if 3 < t then 16 * imgEdges s a else 0) + (if 4 < t then 16 * imgHints s a else 0)

/-- The image is whole (REASON 0x01): MAGIC, VERSION, at least one stage and at most 4,096, every table and K-channel list within
SIZE. -/
def imgWhole (s : State) (a : Nat) : Bool :=
  let size := (imgHead s a 4).toNat
  bits (imgHead s a 0) 63 32 == 0x47524146 && bits (imgHead s a 0) 31 16 == 1 && decide (1 ≤ imgStages s a) &&
    decide (imgStages s a ≤ 4096) && decide (imgOff s a 5 ≤ size) &&
    (List.range (imgLayers s a)).all fun j =>
      let w2 := imgWord s (a + imgOff s a 1) 4 j 2
      bits w2 39 32 == 0 || decide (imgOff s a 5 + bits w2 31 0 + 4 * bits w2 39 32 ≤ size)

/-- The image at a host address (R289). -/
def imageOf (s : State) (a : Nat) : Image :=
  { ouvut := bit (imgHead s a 0) 0, plainEnds := bit (imgHead s a 0) 1, seed := imgHead s a 1
    stages := (List.range (imgStages s a)).map (stageOf s (a + 64))
    layers := (List.range (imgLayers s a)).map (layerOf s (a + imgOff s a 1) (a + imgOff s a 5))
    tensors := (List.range (imgTensors s a)).map (tensorOf s (a + imgOff s a 2))
    edges := (List.range (imgEdges s a)).map (edgeOf s (a + imgOff s a 3))
    hints := (List.range (imgHints s a)).map (hintOf s (a + imgOff s a 4)) }

/-- Update slots that an image's tables take. -/
def Image.slots (g : Image) : List Nat := (g.tensors.filter fun t => t.role == 3 && t.rule.isSome).map (·.slot)

/-- Device-wide IDs of an image collide with another's (R288). -/
def Image.collides (g h : Image) : Bool :=
  (g.stages.any fun e => h.stages.any fun x => x.stage == e.stage) || (g.layers.any fun e => h.layers.any fun x => x.layer == e.layer) ||
    (g.tensors.any fun e => h.tensors.any fun x => x.tensor == e.tensor) || (g.slots.any fun e => h.slots.contains e)

/-- Load-time checks of Table 10.7, in ascending code but for 0x0F, on which the later ones rest: 0 when all pass
(log entry 38). -/
def imageReason (g : Image) (others : List Image) : Nat :=
  let near (t : Nat) : Bool := g.hints.any fun h => (h.kind == 0 || h.kind == 1) && h.a == t
  let fmtOf (t : Nat) : Option TensorEnt := ((g :: others).flatMap (·.tensors)).find? fun e => e.tensor == t
  if others.any g.collides then 2
  else if g.tensors.any (fun t => !t.form.ok || decide (5 < t.role)) || g.stages.any (fun e => decide (4 < e.kind)) then 15
  else if g.tensors.any fun t => (t.role == 1 || t.role == 2 || t.role == 3) && (t.form.fmt == 10 || t.form.fmt == 12 || t.form.mode == 4) then 4
  else if g.layers.any fun l =>
    match fmtOf l.weight with
    | some w => w.form.fmt == 15 && (match fmtOf l.input with | some i => !(i.form.fmt == 12 && i.form.mode == 4) | none => true)
    | none => false then 5
  else if g.tensors.any fun t => t.role == 3 && decide (4096 < t.form.stripBytes t.k) then 6
  else if g.tensors.any fun t => t.hostVisible && ((t.role == 3 && !near t.tensor) || t.role == 0 || t.role == 2) then 7
  else if g.hints.any (fun h => decide (4 < h.kind)) || g.stages.any (fun e => e.locked && e.replicas == 1) ||
    g.tensors.any (fun t => t.sign1 && t.role != 2) then 8
  else 0

/-- A failed LOAD_GRAPH, PLACE or re-placement (Table 10.13). -/
def placeFail (reason : Nat) (s : State) : State :=
  let s := { s with ple := { s.ple with placeFail := true, reason := BitVec.ofNat 8 reason } }
  if reason = 13 then { s with prc := { s.prc with statsOverrun := true } } else s

/-- The numbers a placement depends on (R293): images in ascending handle, tile map, retirement list, topology, firmware. -/
def formNats (f : Form) : List Nat := [f.fmt.toNat, f.mode, b2n f.b32, b2n f.esc, f.cap]
def optNat (o : Option Nat) : Nat := match o with | some x => x + 1 | none => 0
def imageNats (g : Image) : List Nat :=
  [b2n g.ouvut, b2n g.plainEnds, g.seed.toNat] ++
    g.stages.flatMap (fun e => [e.stage, e.kind, b2n e.strict, b2n e.locked, e.replicas, e.tiles, optNat e.group]) ++
    g.layers.flatMap (fun e => [e.layer, e.stage, optNat e.recipe, optNat e.rule, e.weight, e.input, e.output, e.k, e.n] ++ e.channels) ++
    g.tensors.flatMap (fun e => [e.tensor] ++ formNats e.form ++ [e.role, b2n e.sign1, b2n e.hostVisible, e.rows, e.k, e.sliceRows,
      optNat e.recipe, optNat e.rule, e.slot]) ++
    g.edges.flatMap (fun e => [e.edge, e.producer, e.consumer, e.tensor]) ++ g.hints.flatMap (fun e => [e.kind, e.a, e.b, e.arg])

/-- FAB_TOPO holds the sizes of the dimensions (09 Table 9.10). -/
def topoNats (t : FabTopo) : List Nat :=
  [t.d0.toNat, t.d1.toNat, t.d2.toNat]

/-- The placement seed: a digest of the inputs of R293. -/
def placeSeed (s : State) (imgs : SMap Image) : W64 :=
  let ns := imgs.flatMap (fun p => p.1 :: imageNats p.2) ++ [s.glb.tileMap.toNat] ++
    s.store.retired.flatMap (fun e => [e.unit.toNat, e.cause.toNat]) ++ topoNats s.act.topo ++ [s.glb.fwVersion.toNat]
  BitVec.ofNat 64 (leNat ((sha256 (ns.flatMap (leBytes 40))).take 8))

/-- An ID that a table must hold is not there (REASON 0x03). -/
def planUnknown (imgs : List Image) : Bool :=
  let stages := (imgs.flatMap (·.stages)).map (·.stage)
  let tensors := (imgs.flatMap (·.tensors)).map (·.tensor)
  (imgs.flatMap (·.edges)).any (fun e => !stages.contains e.producer || !stages.contains e.consumer || !tensors.contains e.tensor) ||
    (imgs.flatMap (·.layers)).any (fun l => !stages.contains l.stage || !tensors.contains l.weight || !tensors.contains l.input ||
      !tensors.contains l.output) ||
    (imgs.flatMap (·.hints)).any fun h =>
      if h.kind ≤ 2 then !tensors.contains h.a else !stages.contains h.a || (h.kind == 3 && !stages.contains h.b)

/-- Binding hints that contradict one another or name no die (REASON 0x09). -/
def hintsClash (hs : List HintEnt) : Bool :=
  hs.any fun h => (h.kind == 4 && (decide (3 < h.arg) || hs.any fun x => x.kind == 4 && x.a == h.a && x.arg != h.arg)) ||
    (h.kind == 0 && hs.any fun x => x.kind == 1 && x.a == h.a)

/-- Tiles given to stages so far, and those no longer free. -/
structure TilePlan where
  stages : List StagePl
  used : List Nat
  deriving DecidableEq, Repr

/-- The die that has the most of something, the lowest of equals. -/
def mostDie (f : Nat → Nat) : Nat := (List.range 4).foldl (fun b d => if f b < f d then d else b) 0

/-- Die of a stage (R295): its PIN_DIE, the die of an AFFINITY partner, that is where it is placed or pinned, else the one from whose stacks
the stage is planned to read most (log entry 9). -/
def stageDie (seed : W64) (hs : List HintEnt) (p : TilePlan) (stage : Nat) : Nat × Bool :=
  match hs.find? fun h => h.kind == 4 && h.a == stage with
  | some h => (h.arg, true)
  | none =>
    let partner (h : HintEnt) : Option Nat := if h.a = stage then some h.b else if h.b = stage then some h.a else none
    let die (h : HintEnt) : Option Nat :=
      if h.kind = 3 then
        (partner h).bind fun x =>
          ((p.stages.find? fun e => e.stage == x).bind fun e => ((e.tiles.headD []).head?).map (· / 80)).or
            ((hs.find? fun y => y.kind == 4 && y.a == x).map (·.arg))
      else none
    ((hs.findSome? die).getD (mostDie (Config.plannedRead seed stage)), false)

/-- Tiles of a stage's replica when the engine chooses (R295): as many as whole groups, or single tiles, leave to each (log entry 9). -/
def chosenTiles (seed : W64) (e : StageEnt) (single whole : Nat) : Nat :=
  1 + Config.placeAddr seed 8 e.stage % max 1 (max whole (min 9 single) / max 1 e.replicas)

/-- Give one stage its tiles (R295); `none` when too few are free. -/
def giveTiles (s : State) (seed : W64) (hs : List HintEnt) (e : StageEnt) (p : TilePlan) : Option TilePlan :=
  let d := stageDie seed hs p e.stage
  let on (t : Nat) : Bool := tileOn s t && !isCondemned s 0 t
  let group (t : Nat) : List Nat := ((List.range 10).map fun i => 10 * (t / 10) + i).filter on
  let dies := if d.2 then [d.1] else (List.range 4).map fun i => (d.1 + i) % 4
  let single := (dies.flatMap fun x => (List.range 80).map fun i => 80 * x + i).filter fun t => on t && !p.used.contains t
  let whole := single.filter fun t => (group t).all fun x => !p.used.contains x
  let n := if e.tiles = 0 then chosenTiles seed e single.length whole.length else e.tiles
  let total := n * e.replicas
  let take := (if total < 10 then single else whole).take total
  if take.length < total then none
  else
    let gone := if total < 10 then take else take.flatMap group
    let tiles := (chunks n take).map (sortBy fun a b => decide (a ≤ b))
    some { stages := p.stages ++ [{ stage := e.stage, tiles := tiles, nbes := 0, planned := Config.plannedWork seed e.stage, beat := 0,
                                    guard := 0, reserve := 0, spare := 0, share := 0, fio := 0 }]
           used := p.used ++ gone }

/-- Tiles of every stage: descending planned work, ties by stage number (R295). -/
def planTiles (s : State) (seed : W64) (imgs : List Image) : Except Nat (List StagePl) :=
  let hs := imgs.flatMap (·.hints)
  let w (e : StageEnt) : Nat := Config.plannedWork seed e.stage
  let order := sortBy (fun a b => decide (w b < w a) || (w a == w b && decide (a.stage ≤ b.stage))) (imgs.flatMap (·.stages))
  let out : Except Nat TilePlan := order.foldl (fun acc e =>
    match acc with
    | .error c => .error c
    | .ok p =>
      match giveTiles s seed hs e p with
      | some q => .ok q
      | none => .error (if (stageDie seed hs p e.stage).2 then 9 else 12)) (.ok { stages := [], used := [] })
  match out with
  | .error c => .error c
  | .ok p => .ok (sortBy (fun a b => decide (a.stage ≤ b.stage)) p.stages)

/-- Bank columns and far channels in service and not condemned, in ascending flat index. -/
def liveColumns (s : State) : List Nat := (List.range 1024).filter fun c => columnOn s c && !isCondemned s 1 c
def liveChannels (s : State) : List Nat := (List.range 64).filter fun c => channelOn s c && !isCondemned s 2 c

/-- Longest SLOT, in 10 ns, among the activities that use a stage's units (02 R55, Table 2.3): shadow checks and table rebuilds on its tiles,
and with near-bank engines scrub and migration too. -/
def stageReserve (s : State) (nbes : Bool) : Nat := 10 * (([1, 4] ++ if nbes then [0, 2] else []).foldl (fun m i => max m (bgSlotLen s i)) 0)

/-- Bytes in a beat that FIO's compute-die links carry in one direction: 4.0 TB/s over P (01 R19). -/
def fioBudget (s : State) : Nat := 4000000 * s.act.tick.periodUs.toNat

/-- Figures of the stages' beats (R296, 02 R55, R56). -/
def planBeats (s : State) (imgs : List Image) (ps : List StagePl) : List StagePl :=
  let p := s.act.tick.periodUs.toNat
  ps.map fun e =>
    let emb := imgs.any fun g => g.stages.any fun x => x.stage == e.stage && x.kind == 2
    let guard := guardEff s
    let reserve := stageReserve s emb
    { e with nbes := if emb then (liveColumns s).length else 0, guard := guard, reserve := reserve, spare := 12 * p,
             beat := 100 * p - guard - reserve - 12 * p }

/-- Some page of a far range lies in the channels of F8-F15 (07 Table 7.1). -/
def onUpperFar (a n : Nat) : Bool :=
  decide (farBase ≤ a) && decide (a < farBase + farSize) &&
    (List.range (min 64 (ceilDiv n 4096))).any fun i => decide (32 ≤ ((a - farBase) / 4096 + i) % 64)

/-- A stage's tensors, tick buffers or, of an embedding stage, page groups lie in the channels of F8-F15: its tiles and engines read and
write there across FIO. What an SRU does in its own channels crosses nothing (01 R19). -/
def crossesFio (imgs : List Image) (ts : List TensorPl) (es : List EdgePl) (dir : SMap DirEnt) (stage : Nat) : Bool :=
  let used := (imgs.flatMap (·.layers)).flatMap fun l => if l.stage = stage then [l.weight, l.input, l.output] else []
  let edges := (imgs.flatMap (·.edges)).filter fun e => e.producer == stage || e.consumer == stage
  (ts.any fun t => used.contains t.tensor && onUpperFar t.dpa t.bytes) ||
    (es.any fun e => (edges.any fun x => x.edge == e.edge) && (onUpperFar e.half0.dpa e.bytes || onUpperFar e.half1.dpa e.bytes)) ||
    ((imgs.any fun g => g.stages.any fun x => x.stage == stage && x.kind == 2) && dir.any fun e => e.2.far && onUpperFar e.2.page 1)

/-- Planned FIO traffic of the stages: Zalet traffic of those that take part in collectives, far traffic of those whose data crosses; in
all it stays within the budget (01 R19). -/
def planFio (s : State) (seed : W64) (imgs : List Image) (ts : List TensorPl) (es : List EdgePl) (dir : SMap DirEnt)
    (ps : List StagePl) : List StagePl :=
  (ps.foldl (fun (acc : List StagePl × Nat) e =>
    let sends := decide (1 < deviceCount s) && imgs.any fun g => g.stages.any fun x => x.stage == e.stage && (x.kind == 4 || x.group.isSome)
    let zalet := if sends then Config.plannedFio seed e.stage 0 else 0
    let far := if crossesFio imgs ts es dir e.stage then Config.plannedFio seed e.stage 1 else 0
    let fio := min (zalet + far) acc.2
    (acc.1 ++ [{ e with fio := fio }], acc.2 - fio)) ([], fioBudget s)).1

/-- Owners of the layers that carry a rule (R299), as (layer, device). -/
def planOwners (s : State) (imgs : List Image) : List (Nat × Nat) :=
  let ls := (imgs.flatMap (·.layers)).filter fun l => l.rule.isSome
  let order := sortBy (fun a b => decide (b.k * b.n < a.k * a.n) || (a.k * a.n == b.k * b.n && decide (a.layer ≤ b.layer))) ls
  let out : List (Nat × Nat) × List Nat := order.foldl (fun acc l =>
    let least := acc.2.foldl min (acc.2.headD 0)
    let d := (acc.2.idxOf? least).getD 0
    (acc.1 ++ [(l.layer, d)], acc.2.zipIdx.map fun p => if p.2 = d then p.1 + l.k * l.n else p.1))
    ([], List.replicate (deviceCount s) 0)
  out.1

/-- Rule blocks along one side (08 R228): start and length of each. -/
def sideBlocks (n : Nat) : List (Nat × Nat) :=
  if n ≤ 8192 then [(0, n)] else (List.range (ceilDiv n 4096)).map fun i => (4096 * i, min 4096 (n - 4096 * i))

/-- Rule blocks of a layer in row-major order: (k0, rows, n0, columns). -/
def ruleBlocks (k n : Nat) : List (Nat × Nat × Nat × Nat) :=
  (sideBlocks k).flatMap fun a => (sideBlocks n).map fun b => (a.1, a.2, b.1, b.2)

/-- LUEs of the four stacks of a die that are in service. -/
def dieLues (s : State) (die : Nat) : List Nat := ((List.range 16).map fun i => 16 * die + i).filter fun u => s.upd.lueMap.getLsbD u

/-- Path of a layer at a rung by the first row of Table 6.2 that matches (06 R156); an FP32 operand goes to the XU whatever its
stage is (04 R101). -/
def planPath (rc : BitVec 512) (exact mv : Bool) (nt rung : Nat) : Nat :=
  let wf := Recipe.fmt rc rung 1
  let af := Recipe.fmt rc rung 0
  if 4 ≤ rung then 3
  else if wf = 15 then 2
  else if wf = 0 ∨ af = 0 then 3
  else if mv then (if lowWeights wf then mvPath af nt else 0)
  else if exact then 3 else 0

/-- Bytes of the factor region of a block of r x c (08 R473): Lf, Rf, Linv, Rinv and the root status record. -/
def factorBytes (r c : Nat) : Nat := 2 * roundUp 64 (4 * r * r) + 2 * roundUp 64 (4 * c * c) + 64

/-- Ranges of device memory in use, and the REASON of the first request that found no room. Pages of far channels stand beside them as
ranges of 2^60 + 2^23 * channel + page (log entry 9). -/
structure Alloc where
  taken : List (Nat × Nat)
  bad : Option Nat
  deriving DecidableEq, Repr

/-- What a taken range leaves of a free one. -/
def cutRange (t g : Nat × Nat) : List (Nat × Nat) :=
  let te := t.1 + t.2
  let ge := g.1 + g.2
  if te ≤ g.1 || ge ≤ t.1 then [g]
  else (if g.1 < t.1 then [(g.1, t.1 - g.1)] else []) ++ (if te < ge then [(te, ge - te)] else [])

/-- What the taken ranges leave of some others. -/
def freeRanges (taken regions : List (Nat × Nat)) : List (Nat × Nat) := taken.foldl (fun gs t => gs.flatMap (cutRange t)) regions

/-- Number of places that `n` bytes have in a free range. -/
def rangeSlots (align n : Nat) (g : Nat × Nat) : Nat :=
  let b := roundUp align g.1
  if b + n ≤ g.1 + g.2 then (g.1 + g.2 - n - b) / align + 1 else 0

/-- Place number `i` of those that some free ranges offer. -/
def slotAt (align n : Nat) : List (Nat × Nat) → Nat → Option Nat
  | [], _ => none
  | g :: t, i =>
    let k := rangeSlots align n g
    if i < k then some (roundUp align g.1 + i * align) else slotAt align n t (i - k)

/-- A request for `n` bytes in some regions; which of the places it gets is the free choice of kind `kind` for `id`. -/
structure Req where
  regions : List (Nat × Nat)
  align : Nat
  n : Nat
  kind : Nat
  id : Nat

/-- The places that a request can have. -/
def Alloc.room (a : Alloc) (r : Req) : Nat := (freeRanges a.taken r.regions).foldl (fun m g => m + rangeSlots r.align r.n g) 0

/-- Meet a request; one of 0 bytes takes nothing. -/
def Alloc.take (seed : W64) (reason : Nat) (r : Req) (a : Alloc) : Nat × Alloc :=
  if r.n = 0 then (0, a)
  else
    match slotAt r.align r.n (freeRanges a.taken r.regions) (Config.placeAddr seed r.kind r.id % max 1 (a.room r)) with
    | some x => (x, { a with taken := (x, r.n) :: a.taken })
    | none => (0, { a with bad := some (a.bad.getD reason) })

/-- Meet requests in order. -/
def Alloc.takeAll (seed : W64) (reason : Nat) (rs : List Req) (a : Alloc) : List Nat × Alloc :=
  rs.foldl (fun acc r => let x := acc.2.take seed reason r; (acc.1 ++ [x.1], x.2)) ([], a)

/-- Ranges of some units of one size, neighbours joined. -/
def unitRanges (size : Nat) (us : List Nat) : List (Nat × Nat) :=
  us.foldr (fun u acc =>
    match acc with
    | (b, n) :: t => if b = (u + 1) * size then (u * size, n + size) :: t else (u * size, size) :: acc
    | [] => [(u * size, size)]) []

/-- The near tier, all of it or what attaches to one die. -/
def nearRanges (s : State) : List (Nat × Nat) := unitRanges (2 ^ 29) (liveColumns s)
def dieRanges (s : State) (die : Nat) : List (Nat × Nat) := unitRanges (2 ^ 29) ((liveColumns s).filter fun c => c / 256 == die)

/-- SRAM of some tiles. -/
def tileRanges (ts : List Nat) : List (Nat × Nat) := (unitRanges tileBytes ts).map fun g => (tileBase + g.1, g.2)

/-- First 256 KiB block of the far tier past every range in use. -/
def farBlock (a : Alloc) : Nat :=
  a.taken.foldl (fun m t => if farBase ≤ t.1 && decide (t.1 < farBase + farSize) then max m (ceilDiv (t.1 + t.2 - farBase) (2 ^ 18)) else m) 0

/-- Where a tensor can lie in the far tier: anywhere with every channel live, else in what one block leaves of it (log entry 9). -/
def farRanges (s : State) (a : Alloc) : List (Nat × Nat) :=
  let chs := liveChannels s
  if chs.length = 64 then [(farBase, farSize)]
  else if 2 ^ 23 ≤ farBlock a then [] else (unitRanges 4096 chs).map fun g => (farBase + farBlock a * 2 ^ 18 + g.1, g.2)

/-- Pages of a far channel past the far tensors. -/
def channelRanges (a : Alloc) (ch : Nat) : List (Nat × Nat) := [(2 ^ 60 + 2 ^ 23 * ch + farBlock a, 2 ^ 23 - farBlock a)]

/-- Device address of a far page that `channelRanges` numbers (07 Table 7.1). -/
def farPage (x : Nat) : Nat := farBase + (x % 2 ^ 23 * 64 + (x - 2 ^ 60) / 2 ^ 23) * 4096

/-- What a placement keeps clear of: the driver's tables (R475), the firmware region (13 R393) and the trace buffer (15 R442). -/
def driverRanges (s : State) : List (Nat × Nat) :=
  [(s.act.recipeBase.toNat, 2 ^ 20 + 2 ^ 17), (s.act.statsBase.toNat, 512 * s.act.statsSize.toNat), (s.act.ruleBase.toNat, 2 ^ 20),
   (s.act.ringBase.toNat, 2 ^ 26), (s.act.ctxBase.toNat, 5 * 2 ^ 19), (firmwareRegion s, 2 ^ 26)] ++
    (traceSegs s (traceMib s)).map fun g => (g.1, g.2 * 2 ^ 20)

/-- The formats a role can take under a recipe in a layer: those of its rungs from LO_RUNG on, and of the repeats above them up to
rung 4. -/
def rungForms (s : State) (l : LayerEnt) (role : Nat) : List Form :=
  let rc := layerRecipe s l.layer
  if ouvutLayer s l.layer then [ouvutForm]
  else ((List.range 5).filter fun r => decide (Recipe.lo rc ≤ r) || r == 4).map fun r => roleForm rc r role

/-- The storage forms that a tensor can be written in (R298, 05 R147): by the recipe that governs it and those of the layers that produce
it, or its entry's. -/
def tensorForms (s : State) (t : TensorEnt) : List Form :=
  match governor s t.tensor with
  | none => [t.form]
  | some (l, role) => rungForms s l role ++ ((allLayers s).filter fun x => x.output == t.tensor).flatMap fun x => rungForms s x role

/-- Longest strip that a tensor's forms can take (R298). -/
def widestStrip (s : State) (t : TensorEnt) : Nat := (tensorForms s t).foldl (fun m f => max m (f.stripBytes t.k)) 0

/-- Entries of a tensor in the scale region (03 R471): one per affine slice, or one where it can be TENSOR-scaled. -/
def scaleEntries (s : State) (t : TensorEnt) : Nat :=
  let fs := tensorForms s t
  if fs.any fun f => f.mode == 4 then (if t.sliceRows = 0 then 1 else max 1 (min 64 (ceilDiv t.rows t.sliceRows)))
  else if fs.any fun f => f.mode == 3 then 1 else 0

/-- Bytes that the parts of a tensor take: strips, raisin region, outlier side array, extension plane. A tensor that a recipe governs has
room for the largest slots and 64 outlier channels. -/
structure PartBytes where
  data : Nat
  raisin : Nat
  outlier : Nat
  ext : Nat

def tensorParts (s : State) (t : TensorEnt) : PartBytes :=
  let gov := (governor s t.tensor).isSome
  let groups := ceilDiv (t.rows * t.k) 4096
  let esc := (tensorForms s t).any fun f => escapable f.fmt.toNat
  { data := t.rows * widestStrip s t, raisin := if esc then groups * slotBytes (if gov then 255 else t.form.cap) else 0
    outlier := if (tensorOutliers s t.tensor).isEmpty then 0 else 4 * t.rows * 64
    ext := if !gov && t.form.fmt == 16 then t.rows * roundUp 64 t.k else 0 }

/-- Distance of the data of two replicas that holds every part. -/
def PartBytes.rep (p : PartBytes) : Nat := roundUp 64 (max (max p.data p.raisin) (max p.outlier p.ext))

/-- Bytes of a part for `n` replicas. -/
def replicated (n rep bytes : Nat) : Nat := if bytes = 0 then 0 else (n - 1) * rep + bytes

/-- Most replicas of a locked set among some images' stages (02 R51). -/
def mostReplicas (imgs : List Image) : Nat :=
  (imgs.flatMap (·.stages)).foldl (fun m e => if e.locked then max m e.replicas else m) 1

/-- Binding hint of a tensor's tier. -/
def hinted (hs : List HintEnt) (kind t : Nat) : Bool := hs.any fun h => h.kind == kind && h.a == t

/-- A placed stage's tiles of the first replica, and all of them. -/
def tilesOf (stages : List StagePl) (n : Nat) : List Nat := match stages.find? fun e => e.stage == n with | some e => e.tiles.headD [] | none => []
def allTilesOf (stages : List StagePl) (n : Nat) : List Nat := match stages.find? fun e => e.stage == n with | some e => e.tiles.flatten | none => []

/-- Columns of a layer that tile `i` of a stage of `n` holds. -/
def columnsOf (n i cols : Nat) : Nat := ((splitOutputs n 1 cols)[i]?).elim 0 (·.cc)

/-- SRAM of one version of a layer's working weights for `cc` columns, at the widest rung of its recipe (R297, R241). -/
def versionBytes (s : State) (exact : Bool) (l : LayerEnt) (cc : Nat) : Nat :=
  let rc := layerRecipe s l.layer
  let rungs := if exact || Recipe.exact rc then [4] else (List.range 5).filter fun r => decide (Recipe.lo rc ≤ r) && decide (r ≤ Recipe.hi rc)
  let form (r : Nat) : Form := if ouvutLayer s l.layer then ouvutForm else roleForm rc r 1
  rungs.foldl (fun m r =>
    let f := form r
    max m (cc * f.stripBytes l.k + (if escapable f.fmt.toNat then ceilDiv (cc * l.k) 4096 * slotBytes f.cap else 0) +
      (if f.fmt = 15 then 32 * ceilDiv cc 128 else 0) + 4 * cc * (layerOutliers s l).length)) 0

/-- SRAM of one set of CB4 product tables and run sums for `cc` columns of a layer (06 Table 6.5). -/
def setBytes (rc : BitVec 512) (paths : List Nat) (k cc : Nat) : Nat :=
  if (List.range 4).any fun r => paths.getD r 0 == 2 && Recipe.fmt rc r 1 == 15 then 1024 * ceilDiv cc 128 + cc * ceilDiv k 4 else 0

/-- Formats of uniform weights that a layer's rungs put on path 2: each has one table on a tile (06 Table 6.5). -/
def uniformTables (rc : BitVec 512) (paths : List Nat) : List Nat :=
  ((List.range 4).filter fun r => paths.getD r 0 == 2 && Recipe.fmt rc r 1 != 15).map fun r => Recipe.fmt rc r 1

/-- The layer makes shadow checks (05 R152): its recipe has SHADOW_K, or an override of 4 to 16 is in force. -/
def shadowWanted (s : State) (layer : Nat) : Bool :=
  let k := (SMap.get s.prc.shadow layer 0).toNat
  Recipe.shadowK (layerRecipe s layer) != 0 || (decide (4 ≤ k) && decide (k ≤ 16))

/-- What a stage's layers take of the SRAM of each of its tiles, in R297's order: tile, working weights, product-table sets, shadow. -/
def stageSram (s : State) (ls : List (LayerEnt × LayerPl)) (e : StagePl) : List (Nat × Nat × Nat × Nat) :=
  let mine := ls.filter fun l => l.1.stage == e.stage
  let shadow := if mine.any fun l => shadowWanted s l.1.layer then 2 ^ 18 else 0
  let uniform := (mine.flatMap fun l => uniformTables (layerRecipe s l.1.layer) l.2.paths).eraseDups
  e.tiles.flatMap fun ts => ts.zipIdx.map fun t =>
    let x := mine.foldl (fun (n : Nat × Nat) l =>
      let cc := columnsOf ts.length t.2 l.1.n
      (n.1 + 2 * versionBytes s l.2.exact l.1 cc, n.2 + 2 * setBytes (layerRecipe s l.1.layer) l.2.paths l.1.k cc)) (0, 512 * uniform.length)
    (t.1, x.1, x.2, shadow)

/-- The ranges of tile SRAM that are used before tick buffers; REASON 0x0C where a tile holds less. -/
def takeSram (xs : List (Nat × Nat × Nat × Nat)) (a : Alloc) : Alloc :=
  xs.foldl (fun a x =>
    let n := x.2.1 + x.2.2.1 + x.2.2.2
    if n = 0 then a
    else { taken := (tileBase + tileBytes * x.1, n) :: a.taken, bad := if tileBytes < n then some (a.bad.getD 12) else a.bad }) a

/-- RULE field of a rule descriptor in the table (08 Table 8.2), and whether the rule keeps two arrays per element (Table 8.3). -/
def ruleHead (s : State) (id : Nat) : Nat := leNat (devBytes s (s.act.ruleBase.toNat + 64 * id) 2)
def ruleCode (s : State) (id : Nat) : Nat := ruleHead s id % 256
def ruleTwo (s : State) (id : Nat) : Bool := ruleCode s id == 1 || ruleCode s id == 4 || (ruleCode s id == 2 && (ruleHead s id).testBit 11)

/-- The die with the most free near capacity, the lowest of equals (R299). -/
def roomiestDie (s : State) (a : Alloc) : Nat :=
  let free (d : Nat) : Nat := (freeRanges a.taken (dieRanges s d)).foldl (fun m g => m + g.2) 0
  (List.range 4).foldl (fun b d => if free b < free d then d else b) 0

/-- One copy of an owned layer's masters and state (08 R473). -/
def planCopy (seed : W64) (rs : List (Nat × Nat)) (kind id : Nat) (sizes : List Nat) (a : Alloc) : LayerAt × Alloc :=
  let x := a.takeAll seed 10 (sizes.zipIdx.map fun n => { regions := rs, align := 64, n := n.1, kind := kind + n.2, id := id })
  ({ hi := x.1.getD 0 0, lo := x.1.getD 1 0, s1 := x.1.getD 2 0, s2 := x.1.getD 3 0, rec_ := x.1.getD 4 0, fac := x.1.getD 5 0 }, x.2)

/-- The LUEs of a layer's rule blocks, round-robin, and the two of its roots, those with the fewest blocks (R299). -/
def blockLues (us : List Nat) (n : Nat) : List Nat := if us.isEmpty then [] else (List.range n).map fun i => us.getD (i % us.length) 0
def rootLues (us lues : List Nat) : List Nat :=
  let n (u : Nat) : Nat := (lues.filter fun x => x == u).length
  (sortBy (fun a b => decide (n a < n b) || (n a == n b && decide (a ≤ b))) us).take 2

/-- Bytes of a WIRE8 scale table over `n` elements with its header (09 R270; log entry 46). -/
def wireSpan (n : Nat) : Nat := 64 + roundUp 64 (ceilDiv n 32)

/-- A placed layer: paths, owner, and on the owner the places of R473 (R297, R299, 08 R212, R236). -/
def planLayer (s : State) (seed : W64) (owners : List (Nat × Nat)) (stages : List StagePl) (g : Image) (l : LayerEnt) (slot : Nat)
    (a : Alloc) : LayerPl × Alloc :=
  let ends := !g.plainEnds && ((g.layers.head?.map (·.layer)) == some l.layer || (g.layers.getLast?.map (·.layer)) == some l.layer)
  let rc := recipeAt s (l.recipe.getD s.prc.defaultRecipe.toNat)
  let mv := match g.stages.find? fun e => e.stage == l.stage with | some e => e.kind == 1 | none => false
  let nt := (splitOutputs (tilesOf stages l.stage).length 1 l.n).foldl (fun a x => max a x.cc) 0
  let owner := ((owners.find? fun p => p.1 == l.layer).map (·.2)).getD (2 ^ 16)
  let own := owner == myDevice s
  let blocks := ruleBlocks l.k l.n
  let die := if own then roomiestDie s a else 0
  let us := if own then dieLues s die else []
  let lues := blockLues us blocks.length
  let f := l.n * roundUp 64 (4 * l.k)
  let factors := match l.rule with | some id => ruleCode s id == 4 | none => false
  let fac := if factors then blocks.foldl (fun n b => n + factorBytes b.2.1 b.2.2.2) 0 else 0
  let sizes := if own then [f, l.n * roundUp 64 l.k, f, f, 64, fac] else []
  let now := planCopy seed (dieRanges s die) 30 l.layer sizes a
  let next := planCopy seed (dieRanges s die) 36 l.layer sizes now.2
  let rest := next.2.takeAll seed 10 [
    { regions := if own then nearRanges s else [], align := 64, n := if own then f else 0, kind := 42, id := l.layer },
    { regions := nearRanges s, align := 64, n := 2 * wireSpan (l.k * l.n), kind := 43, id := l.layer }]
  ({ layer := l.layer, paths := (List.range 5).map (planPath rc (ends || Recipe.exact rc) mv nt), exact := ends, owner := owner, lues := lues
     rootLues := rootLues us lues, statsBase := slot, now := now.1, next := next.1, factors := factors && own, grad := rest.1.getD 0 0
     wire := rest.1.getD 1 0 }, rest.2)

/-- Planned path-1 cycles of a stage in which lookups wait for a build, in 1/65,536 of its path-1 cycles, for one row of each layer at its
recipe's LO_RUNG, since a placement does not depend on steering (R293, R296, 06 R161, R172). -/
def mvShare (s : State) (stages : List StagePl) (ls : List (LayerEnt × LayerPl)) (stage : Nat) : Nat :=
  let tiles := (tilesOf stages stage).length
  let sum := (ls.filter fun l => l.1.stage == stage).foldl (fun (t : Nat × Nat) l =>
    let rc := layerRecipe s l.1.layer
    let rung := if l.2.exact || Recipe.exact rc then 4 else Recipe.lo rc
    if l.2.paths.getD rung 3 ≠ 1 then t
    else
      let af := Recipe.fmt rc rung 0
      let w := ceilDiv l.1.k 128
      (splitOutputs tiles 1 l.1.n).foldl (fun t x => (List.range (ceilDiv x.cc 4096)).foldl (fun t i =>
        let look := ceilDiv (min 4096 (x.cc - 4096 * i) * fmtWidth (Recipe.fmt rc rung 1) * 32) (if af = 2 || af = 8 then 256 else 512)
        (t.1 + w * (16 - look), t.2 + 16 + w * max 16 look + 6)) t) t) (0, 0)
  if sum.2 = 0 then 0 else 65536 * sum.1 / sum.2

/-- Place one tensor that is no embedding table (R297, Table 10.8); weights lie in the SRAM of their layer's first tile unless the host
sees them (R310). A binding hint that finds no room fails with REASON 0x09 (R291). -/
def planTensor (s : State) (seed : W64) (imgs : List Image) (stages : List StagePl) (t : TensorEnt) (a : Alloc) : TensorPl × Alloc :=
  let hs := imgs.flatMap (·.hints)
  let far := hinted hs 1 t.tensor
  let pinned := far || hinted hs 0 t.tensor
  let home := if t.role = 1 && !t.hostVisible && !pinned then
      ((allLayers s).find? fun l => l.weight == t.tensor).bind fun l => (tilesOf stages l.stage).head? else none
  let parts := tensorParts s t
  let n := mostReplicas imgs
  let rep := parts.rep
  let held := t.role != 3 && home.isNone
  let rs := if far then farRanges s a else nearRanges s
  let req (kind bytes : Nat) (on : Bool) : Req := { regions := rs, align := 64, n := if on then bytes else 0, kind := kind, id := t.tensor }
  let near (kind bytes : Nat) (on : Bool) : Req := { req kind bytes on with regions := nearRanges s }
  let x := a.takeAll seed (if pinned then 9 else 10) [req 20 (replicated n rep parts.data) held, req 21 (replicated n rep parts.raisin) held,
    req 22 (replicated n rep parts.outlier) held, req 23 (replicated n rep parts.ext) held]
  let y := x.2.takeAll seed 10 [near 24 (32 * ceilDiv t.rows 128) ((tensorForms s t).any fun f => f.fmt == 15),
    near 25 (4 * t.rows * t.k * n) (t.sign1 && t.role == 2)]
  let at_ (i : Nat) : Nat := (x.1 ++ y.1).getD i 0
  ({ tensor := t.tensor, tier := if t.role = 3 then 3 else if far then 2 else if home.isSome then 0 else 1
     dpa := match home with | some c => tileBase + tileBytes * c | none => at_ 0
     bytes := parts.data, raisin := at_ 1, outlier := at_ 2, ext := at_ 3, book := at_ 4, scale := 0, entries := scaleEntries s t, window := none
     rep := rep, err := at_ 5 }, y.2)

/-- Length of a window by the images alone (R309): the tensor's bytes, of one that a recipe governs those of its rows in FP32, which hold
every form (log entry 147). -/
def windowBytes (s : State) (t : TensorEnt) : Nat :=
  if (governor s t.tensor).isSome then t.rows * roundUp 64 (4 * t.k) else t.rows * t.form.stripBytes t.k

/-- Placed tensors in ascending ID, with their entries in the scale region, in the scale order, and the host windows (R301, R309). -/
def planTensors (s : State) (seed : W64) (imgs : List Image) (stages : List StagePl) (a : Alloc) : List TensorPl × Alloc :=
  let ts := sortBy (fun a b => decide (a.tensor ≤ b.tensor)) (imgs.flatMap (·.tensors))
  let region := a.take seed 10 { regions := nearRanges s, align := 64, n := 8 * ts.foldl (fun n t => n + scaleEntries s t) 0, kind := 26, id := 0 }
  let out : List TensorPl × Nat × Nat × Alloc := ts.foldl (fun acc t =>
    let x := planTensor s seed imgs stages t acc.2.2.2
    let win := roundUp (2 ^ 21) acc.2.2.1
    (acc.1 ++ [{ x.1 with scale := region.1 + 8 * acc.2.1, window := if t.hostVisible then some win else none }],
      acc.2.1 + x.1.entries, if t.hostVisible then win + windowBytes s t else acc.2.2.1, x.2)) ([], 0, 0, region.2)
  (out.1, out.2.2.2)

/-- One half of a tick buffer: in the SRAM of the consumer's tiles, else in the near tier of its die (R297); a binding hint on its tensor
decides before. -/
def planHalf (s : State) (seed : W64) (hs : List HintEnt) (tiles : List Nat) (n rep : Nat) (parts : PartBytes) (t id : Nat) (a : Alloc) :
    HalfPl × Alloc :=
  let die := dieRanges s (((tiles.head?).map (· / 80)).getD 0)
  let part (acc : List Nat × Alloc) (x : Nat × Nat) : List Nat × Alloc :=
    let req : Req := { regions := tileRanges tiles, align := 64, n := replicated n rep x.1, kind := 1 + x.2, id := id }
    let req := if hinted hs 1 t then { req with regions := farRanges s acc.2 } else if hinted hs 0 t || acc.2.room req == 0 then { req with regions := die } else req
    let y := acc.2.take seed (if hinted hs 0 t || hinted hs 1 t then 9 else 12) req
    (acc.1 ++ [y.1], y.2)
  let x := [parts.data, parts.raisin, parts.outlier, parts.ext].zipIdx.foldl part ([], a)
  ({ dpa := x.1.getD 0 0, raisin := x.1.getD 1 0, outlier := x.1.getD 2 0, ext := x.1.getD 3 0 }, x.2)

/-- A placed edge. -/
def planEdge (s : State) (seed : W64) (imgs : List Image) (stages : List StagePl) (e : EdgeEnt) (a : Alloc) : EdgePl × Alloc :=
  let hs := imgs.flatMap (·.hints)
  let parts := match (imgs.flatMap (·.tensors)).find? fun t => t.tensor == e.tensor with
    | some t => tensorParts s t | none => { data := 0, raisin := 0, outlier := 0, ext := 0 }
  let n := mostReplicas imgs
  let tiles := allTilesOf stages e.consumer
  let h0 := planHalf s seed hs tiles n parts.rep parts e.tensor (2 * e.edge) a
  let h1 := planHalf s seed hs tiles n parts.rep parts e.tensor (2 * e.edge + 1) h0.2
  ({ edge := e.edge, half0 := h0.1, half1 := h1.1, bytes := roundUp 64 parts.data, rep := parts.rep }, h1.2)

/-- State pages of a row page of Q rows of D elements under a row rule (08 R229). -/
def statePagesOf (s : State) (rule : Option Nat) (q d : Nat) : Nat :=
  match rule with
  | none => 0
  | some id =>
    match ruleCode s id with
    | 9 => ceilDiv (roundUp 64 (4 * q)) 4096
    | 10 => ceilDiv (roundUp 64 (4 * q) + q * roundUp 64 (4 * d)) 4096
    | _ => 0

/-- State of one row under a row rule (08 R229, R298). -/
def stateStride (s : State) (rule : Option Nat) (d : Nat) : Nat :=
  match rule with
  | none => 0
  | some id => match ruleCode s id with | 9 => 4 | 10 => 4 + roundUp 64 (4 * d) | _ => 0

/-- Row pages of a table that this device holds (R299). -/
def ownPages (s : State) (rule : Option Nat) (pages : Nat) : List Nat :=
  (List.range pages).filter fun p => rule.isNone || p % max 1 (deviceCount s) == myDevice s

/-- Rows in a page of a table, its pages, and those held here. -/
def rowsPerPageOf (t : TensorEnt) : Nat := 4096 / max 1 (t.form.stripBytes t.k)
def pagesOf (t : TensorEnt) : Nat := ceilDiv t.rows (rowsPerPageOf t)
def heldPages (s : State) (t : TensorEnt) : List Nat := ownPages s t.rule (pagesOf t)
def accPagesOf (t : TensorEnt) : Nat := ceilDiv (rowsPerPageOf t * roundUp 64 (4 * t.k)) 4096

/-- Embedding tables in ascending ID. -/
def tablesOf (imgs : List Image) : List TensorEnt :=
  sortBy (fun a b => decide (a.tensor ≤ b.tensor)) ((imgs.flatMap (·.tensors)).filter fun t => t.role == 3)

/-- Page groups held here: table, page, place among the table's, in ascending table and page. -/
def groupsOf (s : State) (imgs : List Image) : List (TensorEnt × Nat × Nat) :=
  (tablesOf imgs).flatMap fun t => (heldPages s t).zipIdx.map fun p => (t, p.1, p.2)

/-- Groups by home column, and by far channel (R300). -/
def homeOf (cols : List Nat) (page : Nat) : Nat := cols.getD (page % max 1 cols.length) 0
def channelOf (chs : List Nat) (i : Nat) : Nat := chs.getD (i % max 1 chs.length) 0

/-- Staging logs of a table (07 R193, R298): in each home column and each far channel of its groups, room for one step of their rows.
Units are 0x400 + column and 0x1000 + channel. -/
def planLogs (s : State) (seed : W64) (imgs : List Image) (t : TensorEnt) (a : Alloc) : List (Nat × Nat × Nat) × Alloc :=
  let cols := liveColumns s
  let chs := liveChannels s
  let one := rowsPerPageOf t * (t.form.stripBytes t.k + stateStride s t.rule t.k)
  if t.rule.isNone then ([], a)
  else
    let gs := (groupsOf s imgs).zipIdx.filter fun g => g.1.1.tensor == t.tensor
    let add (m : SMap Nat) (u : Nat) : SMap Nat := SMap.alter m u 0 fun n => n + one
    let units := gs.foldl (fun m g => add (add m (0x400 + homeOf cols g.1.2.1)) (0x1000 + channelOf chs g.2)) []
    units.foldl (fun acc u =>
      if u.1 < 0x1000 then
        let x := acc.2.take seed 10 { regions := unitRanges (2 ^ 29) [u.1 - 0x400], align := 64, n := u.2, kind := 50, id := t.tensor * 8192 + u.1 }
        (acc.1 ++ [(u.1, x.1, u.2)], x.2)
      else
        let x := acc.2.take seed 11 { regions := channelRanges acc.2 (u.1 - 0x1000), align := 1, n := ceilDiv u.2 4096, kind := 50, id := t.tensor * 8192 + u.1 }
        (acc.1 ++ [(u.1, farPage x.1, u.2)], x.2)) ([], a)

/-- A placed table but for its quota (R180, R229, R298). -/
def planTable (s : State) (seed : W64) (imgs : List Image) (t : TensorEnt) (id : Nat) (a : Alloc) : TablePl × Alloc :=
  let rc := recipeAt s (t.recipe.getD s.prc.defaultRecipe.toNat)
  let groups := ceilDiv (t.rows * t.k) 4096
  let near (kind n : Nat) : Req := { regions := nearRanges s, align := 64, n := n, kind := kind, id := t.tensor }
  let x := a.takeAll seed 10 [near 45 (16 * pagesOf t), near 46 (if escapable t.form.fmt.toNat then groups * slotBytes t.form.cap else 0), near 47 (pagesOf t)]
  let logs := planLogs s seed imgs t x.2
  ({ table := t.tensor, rowsPerPage := rowsPerPageOf t, accPages := accPagesOf t, statePages := statePagesOf s t.rule (rowsPerPageOf t) t.k
     pages := pagesOf t, quota := 0
     logBytes := (heldPages s t).length * rowsPerPageOf t * (t.form.stripBytes t.k + stateStride s t.rule t.k), logs := logs.1
     level2 := x.1.getD 0 0, statsId := id, raisin := x.1.getD 1 0, far := x.1.getD 2 0, l0 := max 4 (min 10 (Recipe.precBits rc + 1)) }, logs.2)

/-- Free group slots F (R300): what the near items leave of each column, its groups' accumulation pages and pinned groups set aside, in
slots of the largest group. -/
def freeGroups (s : State) (imgs : List Image) (tabs : List TablePl) (a : Alloc) : Nat :=
  let cols := liveColumns s
  let hs := imgs.flatMap (·.hints)
  let sp (t : Nat) : Nat := ((tabs.find? fun x => x.table == t).map (·.statePages)).getD 0
  let size := tabs.foldl (fun m t => if hinted hs 0 t.table then m else max m (1 + t.statePages)) 1
  let used := (groupsOf s imgs).foldl (fun (m : SMap Nat) g =>
    SMap.alter m (homeOf cols g.2.1) 0 fun n => n + accPagesOf g.1 + if hinted hs 0 g.1.tensor then 1 + sp g.1.tensor else 0) []
  cols.foldl (fun f c =>
    let free := (freeRanges a.taken [(c * 2 ^ 29, 2 ^ 29)]).foldl (fun n g => n + g.2 / 4096) 0
    f + (free - SMap.get used c 0) / size) 0

/-- Quotas of the tables (R300). -/
def planQuotas (s : State) (imgs : List Image) (tabs : List TablePl) (a : Alloc) : List TablePl :=
  let hs := imgs.flatMap (·.hints)
  let held (t : Nat) : Nat := match (tablesOf imgs).find? fun e => e.tensor == t with | some e => (heldPages s e).length | none => 0
  let total := tabs.foldl (fun n t => if hinted hs 0 t.table then n else n + held t.table) 0
  if tabs.isEmpty then []
  else
    let f := freeGroups s imgs tabs a
    tabs.map fun t =>
      { t with quota := if hinted hs 0 t.table then held t.table else if total = 0 then 0 else f * held t.table / total }

/-- Placed tables in ascending ID (R298). -/
def planTables (s : State) (seed : W64) (imgs : List Image) (a : Alloc) : List TablePl × Alloc :=
  let out : List TablePl × List Nat × Alloc := (tablesOf imgs).foldl (fun acc t =>
    let id := ((List.range 65536).find? fun i => !acc.2.1.contains i).getD 65534
    let x := planTable s seed imgs t id acc.2.2
    (acc.1 ++ [x.1], id :: acc.2.1, x.2)) ([], 0xFFFF :: (imgs.flatMap (·.layers)).map (·.layer), a)
  (planQuotas s imgs out.1 out.2.2, out.2.2)

/-- Place one page group (07 R181, R300): near with all its pages in a row, or its accumulation pages in the home column alone. -/
def planGroup (seed : W64) (hs : List HintEnt) (t : TablePl) (page home ch : Nat) (near : Bool) (a : Alloc) : DirEnt × Alloc :=
  let key := dirKey t.table page
  let req (n : Nat) : Req := { regions := unitRanges (2 ^ 29) [home], align := 4096, n := 4096 * n, kind := 48, id := key }
  let run := 1 + t.statePages
  let pin := hinted hs 0 t.table
  let near := near && (pin || decide (0 < a.room (req (run + t.accPages))))
  let x := a.take seed (if pin then 9 else 10) (req (if near then run + t.accPages else t.accPages))
  let f := x.2.take seed 11 { regions := channelRanges x.2 ch, align := 1, n := run, kind := 49, id := key }
  ({ far := !near, pinned := pin || hinted hs 1 t.table, tries := 0, hold := 0, page := if near then x.1 else farPage f.1, home := home
     acc := if near then x.1 + 4096 * run else x.1, farSlot := farPage f.1, nearSlot := if near then x.1 else 0 }, f.2)

/-- The row directory of a placement (R300, Table 10.9): groups that start far first, so that every group has its accumulation pages. -/
def planDir (s : State) (seed : W64) (imgs : List Image) (tabs : List TablePl) (a : Alloc) : SMap DirEnt × Alloc :=
  let cols := liveColumns s
  let chs := liveChannels s
  let hs := imgs.flatMap (·.hints)
  let starts (g : TensorEnt × Nat × Nat) (t : TablePl) : Bool := hinted hs 0 t.table || (!hinted hs 1 t.table && hinted hs 2 t.table && decide (g.2.2 < t.quota))
  let place (near : Bool) (acc : SMap DirEnt × Alloc) (g : (TensorEnt × Nat × Nat) × Nat) : SMap DirEnt × Alloc :=
    match tabs.find? fun x => x.table == g.1.1.tensor with
    | some t =>
      if starts g.1 t = near then
        let x := planGroup seed hs t g.1.2.1 (homeOf cols g.1.2.1) (channelOf chs g.2) near acc.2
        (SMap.put acc.1 (dirKey t.table g.1.2.1) x.1, x.2)
      else acc
    | none => acc
  let gs := (groupsOf s imgs).zipIdx
  gs.foldl (place true) (gs.foldl (place false) ([], a))

/-- UNIT codes (05 Table 5.5) with a LAYER_STATS record of a layer, ascending: the units that can convert for it, and its summary. -/
def layerUnits (s : State) (stages : List StagePl) (l : LayerEnt) (lues : List Nat) : List Nat :=
  let nbes := match stages.find? fun e => e.stage == l.stage with | some e => (liveColumns s).take e.nbes | none => []
  (allTilesOf stages l.stage ++ nbes.map (0x400 + ·) ++ lues.map (0x800 + ·) ++ [0xFFF]).foldl (fun m u => insertNat u m) []

/-- Those of a table: the tiles of the embedding stages, which convert rows that no engine holds, its home columns, the SRUs of its far
channels, and the summary. -/
def tableUnits (s : State) (imgs : List Image) (stages : List StagePl) (t : TablePl) : List Nat :=
  let gs := (groupsOf s imgs).zipIdx.filter fun g => g.1.1.tensor == t.table
  let emb := ((imgs.flatMap (·.stages)).filter fun e => e.kind == 2).flatMap fun e => allTilesOf stages e.stage
  (emb ++ (gs.map fun (g : (TensorEnt × Nat × Nat) × Nat) => 0x400 + homeOf (liveColumns s) g.1.2.1) ++
    (gs.map fun (g : (TensorEnt × Nat × Nat) × Nat) => 0x900 + channelOf (liveChannels s) g.2 / 4) ++
    [0xFFF]).foldl (fun m u => insertNat u m) []

/-- The record of every LAYER_STATS slot, by statistics key: in ascending layer or stats ID, then UNIT, then role (R298). -/
def statSlots (s : State) (imgs : List Image) (stages : List StagePl) (tabs : List TablePl) (ls : List (LayerEnt × LayerPl)) : List Nat :=
  let all := (ls.map fun l => (l.1.layer, layerUnits s stages l.1 l.2.lues)) ++ tabs.map fun t => (t.statsId, tableUnits s imgs stages t)
  (sortBy (fun a b => decide (a.1 ≤ b.1)) all).flatMap fun x => x.2.flatMap fun u => (List.range 3).map fun role => statKey x.1 role u

/-- The layers with their first slots. -/
def slotBases (slots : List Nat) (ls : List (LayerEnt × LayerPl)) : List (LayerEnt × LayerPl) :=
  ls.map fun l => (l.1, { l.2 with statsBase := slots.findIdx fun k => k / 16384 == l.1.layer })

/-- Regions of section 8: what COPY may address by DPA (11 R335), replay checkpoint regions in load order first (08 R243, Table 8.11):
masters and state of owned layers, both copies, with their per-element arrays by rule (R473), the page groups, error memory and scale
tables, then the directory, the far hotness table and the scale region; last the summed-gradient regions (11 R335). -/
def planRegions (s : State) (ls : List (LayerEnt × LayerPl)) (tabs : List TablePl) (ts : List TensorPl) (imgs : List Image)
    (dir : SMap DirEnt) : List (Nat × Nat) :=
  let own := ls.filter fun p => p.2.owner == myDevice s
  let layers := own.flatMap fun p =>
    let f := p.1.n * roundUp 64 (4 * p.1.k)
    let two := match p.1.rule with | some id => ruleTwo s id | none => false
    let fac : Nat := if p.2.factors then (ruleBlocks p.1.k p.1.n).foldl (fun n b => n + factorBytes b.2.1 b.2.2.2) 0 else 0
    [p.2.now, p.2.next].flatMap fun x =>
      [(x.hi, f), (x.lo, p.1.n * roundUp 64 p.1.k), (x.s1, f)] ++ (if two then [(x.s2, f)] else []) ++ [(x.rec_, 64)] ++ (if fac = 0 then [] else [(x.fac, fac)])
  let pages := tabs.flatMap fun t => (dir.filter fun e => e.1 / 2 ^ 40 == t.table).flatMap fun e =>
    (groupPages e.2 t.accPages t.statePages).map fun a => (a, 4096)
  let errs := ts.filterMap fun t => match (imgs.flatMap (·.tensors)).find? fun e => e.tensor == t.tensor with
    | some e => if e.sign1 then some (t.err, 4 * e.rows * e.k * mostReplicas imgs) else none
    | none => none
  let scales := ts.filterMap fun t => if t.entries = 0 then none else some (t.scale, 8 * t.entries)
  layers ++ pages ++ errs ++ (ls.map fun p => (p.2.wire, 2 * wireSpan (p.1.k * p.1.n))) ++ (tabs.map fun t => (t.level2, 16 * t.pages)) ++
    (tabs.map fun t => (t.far, t.pages)) ++ scales ++ own.map fun p => (p.2.grad, p.1.n * roundUp 64 (4 * p.1.k))

/-- Bytes of the report (Table 10.11). -/
def reportBytes (p : Placement) : Nat :=
  let ranges (l : LayerEnt) : Nat := (tilesOf p.stages l.stage).length
  let n := (p.images.flatMap fun g => g.2.layers).foldl (fun n l => n + 32 + 16 * ranges l) 0
  64 + 64 * p.stages.length + n + 32 * p.tensors.length + 32 * p.edges.length + 64 * p.tables.length + 16 * p.sram.length +
    ceilDiv p.hints.length 8 + 32 * p.regions.length + 32 * (p.tensors.filter fun t => t.window.isSome).length + 8 * p.lost.length

/-- Bytes of an entry with given contents: the manual gives its length and what it tells, not where each value stands (log entry 37). -/
def reportEntry (sec n : Nat) (xs : List Nat) : List Byte := (List.range n).map (Config.reportByte sec xs)

/-- Tiles as a 320-bit map. -/
def tileMapNat (ts : List Nat) : Nat := (ts.foldl (fun m t => insertNat t m) []).foldl (fun n t => n + 2 ^ t) 0

/-- Tiers as section 4 tells them: 0 tile, 1 near, 2 far. -/
def homeCode (a : Nat) : Nat := match regionOf a with | .tile _ => 0 | .far _ => 2 | _ => 1

/-- Section 2 of the report: a layer, then each tile's column range for PASS 0 and 2 and for PASS 1 (04 R474). -/
def layerReport (p : Placement) (l : LayerEnt) : List Byte :=
  let ts := tilesOf p.stages l.stage
  match p.layers.find? fun x => x.layer == l.layer with
  | none => []
  | some x =>
    let range (cols i : Nat) : List Nat := match (splitOutputs ts.length 1 cols)[i]? with | some y => [y.c0, y.cc] | none => [0, 0]
    reportEntry 2 32 (x.paths ++ [b2n x.exact, x.owner, x.lues.length] ++ x.lues ++ x.rootLues ++ [x.statsBase]) ++
      ts.zipIdx.flatMap fun t => reportEntry 2 16 ([t.1] ++ range l.n t.2 ++ range l.k t.2)

/-- Bits, bit n of them bit n mod 8 of byte n / 8 (00 R6). -/
def hintBytes (bs : List Bool) : List Byte := (chunks 8 bs).map fun c => BitVec.ofNat 8 (c.zipIdx.foldl (fun n p => n + b2n p.1 * 2 ^ p.2) 0)

/-- Sections 1 to 10 of the report (Table 10.11). `stride` is a tensor's strip stride. Section 7 is the hints' bits in hint-table order, an
entry of section 10 a tensor ID in 8 bytes. -/
def reportBody (stride : Nat → Nat) (p : Placement) : List Byte :=
  let layers := sortBy (fun a b => decide (a.layer ≤ b.layer)) (p.images.flatMap fun g => g.2.layers)
  (p.stages.flatMap fun e => reportEntry 1 64
    [tileMapNat e.tiles.flatten, e.nbes, e.planned, e.beat, e.guard, e.reserve, e.spare, b2n (decide (e.beat < e.planned)), e.share, e.fio]) ++
  (layers.flatMap fun l => layerReport p l) ++
  (p.tensors.flatMap fun t => reportEntry 3 32 [t.tensor, t.tier, t.dpa, stride t.tensor, t.bytes, optNat t.window]) ++
  (p.edges.flatMap fun e => reportEntry 4 32 [e.edge, homeCode e.half0.dpa, e.half0.dpa, homeCode e.half1.dpa, e.half1.dpa, e.bytes]) ++
  (p.tables.flatMap fun t => reportEntry 5 64 [t.table, t.rowsPerPage, 1 + t.statePages + t.accPages, t.quota, t.logBytes, t.l0, t.level2, t.statsId]) ++
  (p.sram.flatMap fun x => reportEntry 6 16 [x.tile, x.shadow, x.sets]) ++
  hintBytes p.hints ++
  (p.regions.flatMap fun r => reportEntry 8 32 [r.1, r.2]) ++
  ((p.tensors.filter fun t => t.window.isSome).flatMap fun t => reportEntry 9 32 [t.tensor, optNat t.window, t.bytes]) ++
  (p.lost.flatMap fun t => leBytes 8 t)

/-- Tensors that lay in the SRAM of a tile no longer in service (R308, section 10). -/
def lostTensors (s : State) : List Nat :=
  match s.ple.placement with
  | none => []
  | some p =>
    let gone (a : Nat) : Bool := match regionOf a with | .tile t => !tileOn s t | _ => false
    let off (stage : Nat) : Bool := (allTilesOf p.stages stage).any fun t => !tileOn s t
    let weights := ((allLayers s).filter fun l => off l.stage).map (·.weight)
    let ts := (p.tensors.filter fun t => gone t.dpa || (t.tier == 0 && weights.contains t.tensor)).map (·.tensor)
    let es := (p.edges.filter fun e => gone e.half0.dpa || gone e.half1.dpa).filterMap fun e => (edgeEnt s e.edge).map (·.tensor)
    (ts ++ es).foldl (fun m t => insertNat t m) []

/-- A placement before anything is placed. -/
def emptyPlacement (imgs : SMap Image) : Placement :=
  { id := 0, images := imgs, stages := [], layers := [], tensors := [], edges := [], tables := [], sram := [], hints := [], regions := []
    lost := [], traceMib := 0, taken := [], slots := [] }

/-- Soft and binding hints honoured (R291). -/
def hintHonoured (stages : List StagePl) (tabs : List TablePl) (h : HintEnt) : Bool :=
  match h.kind with
  | 2 => tabs.any fun t => t.table == h.a && decide (0 < t.quota)
  | 3 =>
    let die (x : Nat) : List Nat := (stages.filter fun e => e.stage == x).flatMap fun e => e.tiles.flatten.map (· / 80)
    (die h.a).all fun d => (die h.b).all fun e => d == e
  | _ => true

/-- Layers in ascending ID with their images. -/
def layersOf (gs : List Image) : List (Image × LayerEnt) :=
  sortBy (fun a b => decide (a.2.layer ≤ b.2.layer)) (gs.flatMap fun g => g.layers.map fun l => (g, l))

/-- Placed layers. -/
def planLayers (s : State) (seed : W64) (gs : List Image) (stages : List StagePl) (a : Alloc) : List (LayerEnt × LayerPl) × Alloc :=
  let owners := planOwners s gs
  (layersOf gs).foldl (fun acc e =>
    let x := planLayer s seed owners stages e.1 e.2 0 acc.2
    (acc.1 ++ [(e.2, x.1)], x.2)) ([], a)

/-- Placed edges. -/
def planEdges (s : State) (seed : W64) (gs : List Image) (stages : List StagePl) (a : Alloc) : List EdgePl × Alloc :=
  (gs.flatMap (·.edges)).foldl (fun acc e => let x := planEdge s seed gs stages e acc.2; (acc.1 ++ [x.1], x.2)) ([], a)

/-- The parts of a placement, with the directory of its page groups and what is in use before and after those. -/
structure Plan where
  layers : List (LayerEnt × LayerPl)
  sram : List (Nat × Nat × Nat × Nat)
  tensors : List TensorPl
  edges : List EdgePl
  tables : List TablePl
  before : Alloc
  dir : SMap DirEnt
  after : Alloc

/-- Place everything: owned layers, tile SRAM, tensors, tick buffers, tables and page groups (R297, R299, R300). -/
def planAll (s : State) (seed : W64) (gs : List Image) (stages : List StagePl) : Plan :=
  let ls := planLayers s seed gs stages { taken := driverRanges s, bad := none }
  let sram := stages.flatMap (stageSram s ls.1)
  let ts := planTensors s seed gs stages (takeSram sram ls.2)
  let es := planEdges s seed gs stages ts.2
  let tabs := planTables s seed gs es.2
  let dir := planDir s seed gs tabs.1 tabs.2
  { layers := ls.1, sram := sram, tensors := ts.1, edges := es.1, tables := tabs.1, before := tabs.2, dir := dir.1, after := dir.2 }

/-- The state that a plan reads: the images it places are the ones that IDs name. -/
def planState (s : State) (imgs : SMap Image) : State := { s with ple := { s.ple with placement := some (emptyPlacement imgs) } }

/-- The directory that a placement starts with. -/
def placedDir (s : State) (q : Placement) : SMap DirEnt :=
  let gs := q.images.map (·.2)
  (planDir (planState s q.images) (placeSeed s q.images) gs q.tables { taken := q.taken, bad := none }).1

/-- Strip stride of a tensor in the form that the report tells: of one that a recipe governs, that of its LO_RUNG, since a placement does
not depend on steering (R293; log entry 56). -/
def strideOf (s : State) (t : Nat) : Nat :=
  let f := match governor s t with
    | some (l, role) => if ouvutLayer s l.layer then ouvutForm else roleForm (layerRecipe s l.layer) (Recipe.lo (layerRecipe s l.layer)) role
    | none => entryForm s t
  f.stripBytes (match tensorEnt s t with | some e => e.k | none => 0)

/-- The placement of some images (R292-R300), or the REASON of its failure (Table 10.7). -/
def plan (s : State) (imgs : SMap Image) : Except Nat Placement :=
  let gs := imgs.map (·.2)
  let seed := placeSeed s imgs
  let lost := lostTensors s
  let s := planState s imgs
  if planUnknown gs then .error 3
  else if hintsClash (gs.flatMap (·.hints)) then .error 9
  else
    match planTiles s seed gs with
    | .error c => .error c
    | .ok tiles =>
      let beats := planBeats s gs tiles
      let x := planAll s seed gs beats
      let stages := planFio s seed gs x.tensors x.edges x.dir beats
      let slots := statSlots s gs stages x.tables x.layers
      let bases := slotBases slots x.layers
      match x.after.bad with
      | some c => .error c
      | none =>
        if s.act.statsSize.toNat < slots.length then .error 13
        else
          let p : Placement :=
            { emptyPlacement imgs with
              stages := stages.map fun e => { e with share := mvShare s stages x.layers e.stage }
              layers := bases.map (·.2), tensors := x.tensors, edges := x.edges, tables := x.tables
              sram := x.sram.map fun y => { tile := y.1, shadow := y.2.2.2, sets := y.2.2.1 }
              hints := (gs.flatMap (·.hints)).map (hintHonoured stages x.tables), regions := planRegions s bases x.tables x.tensors gs x.dir
              lost := lost, traceMib := traceMib s, taken := x.before.taken, slots := slots }
          .ok { p with id := BitVec.ofNat 64 (leNat ((sha256 (reportBody (strideOf s) p)).take 8)) }

end Sys2Proof.Machine
end

