-- ==== Sys2Proof/Machine/Graph.lean ====
section
/-!
DEFINITION. Putting a placement into force (10 R288, R292, R307, R308, 03 R471, 07 R202), LOAD_GRAPH, PLACE, REPLACE,
UNLOAD_GRAPH, PIN and MIGRATE, and what the engine does at a tick edge (R304-R306).
-/
namespace Sys2Proof.Machine

/-- The words of a directory entry (Table 10.9). -/
def DirEnt.words (e : DirEnt) : List W64 :=
  [at' 64 63 1 ||| at' 64 62 (b2n e.far) ||| at' 64 61 (b2n e.pinned) ||| at' 64 59 (e.tries % 4) ||| at' 64 52 (e.hold % 128) |||
     at' 64 0 (e.page / 4096 % 2 ^ 36),
   at' 64 54 (e.home % 1024) ||| at' 64 0 (e.acc / 4096 % 2 ^ 36)]

/-- Change a directory entry, with its copy in the directory region (R303). -/
def putDir (table page : Nat) (e : DirEnt) (s : State) : State :=
  let s := { s with ple := { s.ple with dir := SMap.put s.ple.dir (dirKey table page) e } }
  match tablePl s table with
  | some t => devWrite (t.level2 + 16 * page) (wordsBytes e.words) s
  | none => s

/-- Places of the parts of a tensor or half, numbered from `key`. -/
def partItems (key n : Nat) (parts : PartBytes) (h : HalfPl) : List (Nat × Nat × Nat) :=
  [(key, h.dpa, replicated n parts.rep parts.data), (key + 2 ^ 48, h.raisin, replicated n parts.rep parts.raisin),
   (key + 2 * 2 ^ 48, h.outlier, replicated n parts.rep parts.outlier), (key + 3 * 2 ^ 48, h.ext, replicated n parts.rep parts.ext)]

/-- Places of one copy of an owned layer. -/
def copyItems (key : Nat) (x : LayerEnt) (c : LayerAt) (factors : Bool) : List (Nat × Nat × Nat) :=
  let f := x.n * roundUp 64 (4 * x.k)
  let fac := if factors then (ruleBlocks x.k x.n).foldl (fun n b => n + factorBytes b.2.1 b.2.2.2) 0 else 0
  [(key, c.hi, f), (key + 2 ^ 48, c.lo, x.n * roundUp 64 x.k), (key + 2 * 2 ^ 48, c.s1, f), (key + 3 * 2 ^ 48, c.s2, f),
   (key + 4 * 2 ^ 48, c.rec_, 64), (key + 5 * 2 ^ 48, c.fac, fac)]

/-- Places with an identity of their own, as (identity, base, bytes): what a re-placement carries over (R308). `s` is a state whose
placement `p` is. -/
def placedItems (s : State) (p : Placement) : List (Nat × Nat × Nat) :=
  let n := mostReplicas (p.images.map (·.2))
  let key (kind id : Nat) : Nat := kind * 2 ^ 48 + id
  let parts (t : Nat) : PartBytes := match tensorEnt s t with | some e => tensorParts s e | none => { data := 0, raisin := 0, outlier := 0, ext := 0 }
  let ts := (p.tensors.filter fun t => t.tier != 3).flatMap fun t =>
    (if t.tier = 0 then [] else partItems (key 1 t.tensor) n (parts t.tensor) { dpa := t.dpa, raisin := t.raisin, outlier := t.outlier, ext := t.ext }) ++
      match tensorEnt s t.tensor with
      | some e => [(key 5 t.tensor, t.book, 32 * ceilDiv e.rows 128), (key 6 t.tensor, t.err, if e.sign1 then 4 * e.rows * e.k * n else 0)]
      | none => []
  let es := p.edges.flatMap fun e =>
    let t := match edgeEnt s e.edge with | some x => x.tensor | none => 0
    partItems (key 7 e.edge) n (parts t) e.half0 ++ partItems (key 11 e.edge) n (parts t) e.half1
  let ls := p.layers.flatMap fun l =>
    match layerEnt s l.layer with
    | some x =>
      (key 15 l.layer, l.wire, 2 * wireSpan (x.k * x.n)) ::
        (if l.owner = myDevice s then
          (key 16 l.layer, l.grad, x.n * roundUp 64 (4 * x.k)) :: copyItems (key 17 l.layer) x l.now l.factors ++ copyItems (key 23 l.layer) x l.next l.factors
         else [])
    | none => []
  let tabs := p.tables.flatMap fun t =>
    match tensorEnt s t.table with
    | some e => [(key 29 t.table, t.raisin, if escapable e.form.fmt.toNat then ceilDiv (e.rows * e.k) 4096 * slotBytes e.form.cap else 0), (key 30 t.table, t.far, t.pages)]
    | none => []
  (ts ++ es ++ ls ++ tabs).filter fun x => x.2.2 != 0

/-- Move ranges of device memory, as (from, to, bytes), all read before any is written: unreadable lines arrive poisoned, and lines the host
holds are taken back first (12 R355). -/
def devMove (moves : List (Nat × Nat × Nat)) (s0 : State) : State :=
  let moves := moves.filter fun m => m.1 != m.2.1
  let inRange (l a n : Nat) : Bool := decide (a < 64 * l + 64) && decide (64 * l < a + n)
  let s := snoopWhere (fun l => moves.any fun m => inRange l m.1 m.2.2 || inRange l m.2.1 m.2.2) s0
  let inTo (a : Nat) : Bool := moves.any fun m => decide (m.2.1 ≤ a) && decide (a < m.2.1 + m.2.2)
  let src := moves.flatMap fun m => (s.mem.cells.filter fun c => decide (m.1 ≤ c.1) && decide (c.1 < m.1 + m.2.2)).map fun c => (c.1 - m.1 + m.2.1, c.2)
  let bad := moves.flatMap fun m => ((linesOf m.1 m.2.2).filter fun l => s.mem.poison.contains l || isHole s (64 * l)).map fun l =>
    (64 * l - m.1 + m.2.1) / 64
  let poison := bad.foldl (fun p l => insertNat l p) (s.mem.poison.filter fun l => !inTo (64 * l))
  { s with mem := { s.mem with cells := Memory.stores (s.mem.cells.filter fun c => !inTo c.1) src, poison := poison } }

/-- Moves from the placement in force to another: every identity both hold. -/
def placedMoves (s : State) (p q : Placement) : List (Nat × Nat × Nat) :=
  let new := placedItems (planState s q.images) q
  (placedItems s p).filterMap fun x => (new.find? fun y => y.1 == x.1).map fun y => (x.2.1, y.2.1, min x.2.2 y.2.2)

/-- Moves of the page groups that two directories hold. -/
def dirMoves (p q : Placement) (old new : SMap DirEnt) : List (Nat × Nat × Nat) :=
  old.flatMap fun e =>
    let t := e.1 / 2 ^ 40
    match SMap.find new e.1, p.tables.find? (fun x => x.table == t), q.tables.find? (fun x => x.table == t) with
    | some f, some a, some b => (groupPages e.2 a.accPages a.statePages).zip (groupPages f b.accPages b.statePages) |>.map fun m => (m.1, m.2, 4096)
    | _, _, _ => []

/-- Entries of the scale region after a placement (03 R471): s = 1.0 and z = 0, or kept where the storage form is unchanged. -/
def placeScales (s0 : State) (q : Placement) (s : State) : State :=
  q.tensors.foldl (fun s t =>
    let kept : Option (List Byte) :=
      match tensorPl s0 t.tensor with
      | some o => if tensorForm s0 t.tensor = tensorForm s t.tensor ∧ o.entries = t.entries then some (devBytes s0 o.scale (8 * t.entries)) else none
      | none => none
    devWrite t.scale (kept.getD ((List.range t.entries).flatMap fun _ => leBytes 8 (fOne.toNat * 2 ^ 32))) s) s

/-- Address of the root status record of a rule block in a copy of a layer (08 R473). -/
def rootRecord (x : LayerEnt) (c : LayerAt) (i : Nat) : Nat :=
  ((ruleBlocks x.k x.n).take (i + 1)).foldl (fun a b => a + factorBytes b.2.1 b.2.2.2) c.fac - 64

/-- The per-layer record of an owned layer at placement (08 Table 8.3, R473): no update yet, both powers 1.0; and no roots of its blocks, which
a factor region that is new to a placed layer has none of either. -/
def placeRecords (s0 : State) (q : Placement) (s : State) : State :=
  (q.layers.filter fun l => l.owner == myDevice s).foldl (fun s l =>
    let s := if (layerPl s0 l.layer).isSome then s
      else devWrite l.now.rec_ (leBytes 4 0 ++ leBytes 4 fOne.toNat ++ leBytes 4 fOne.toNat ++ List.replicate 52 0) s
    match layerEnt s l.layer with
    | some x => if l.factors && !((layerPl s0 l.layer).elim false (·.factors)) then (List.range (ruleBlocks x.k x.n).length).foldl (fun s i => devWrite (rootRecord x l.now i) (List.replicate 64 0) s) s else s
    | none => s) s

/-- Tensor that a layer's scale table was formed for (09 R270; log entry 46). -/
def wireTensor (s : State) (l : LayerPl) : Nat := leNat (devBytes s (l.wire + 8) 4)

/-- A gradient tensor that is placed anew has no valid scale table, and its error memory is +0 (09 R269, R275). Each of a layer's two tables
is judged by the tensor that it is for. -/
def placeGradients (s0 : State) (q : Placement) (s : State) : State :=
  let s := q.layers.foldl (fun s l =>
    let n := match layerEnt s l.layer with | some x => x.k * x.n | none => 0
    [l.wire, l.wire + wireSpan n].foldl (fun s a =>
      if (layerPl s0 l.layer).isSome && (tensorPl s0 (leNat (devBytes s (a + 8) 4))).isSome then s else devWrite a (List.replicate 64 0) s) s) s
  q.tensors.foldl (fun s t =>
    match tensorEnt s t.tensor with
    | some e => if e.sign1 && (tensorPl s0 t.tensor).isNone then devWrite t.err (List.replicate (4 * e.rows * e.k * mostReplicas (q.images.map (·.2))) 0) s else s
    | none => s) s

/-- Tables new to the device start with the stream exponent of their recipe (07 R202). -/
def placeStreams (q : Placement) (s : State) : State :=
  let keep := s.mem.streams.filter fun p => q.tables.any fun t => t.table == p.1
  let s := { s with mem := { s.mem with streams := keep } }
  q.tables.foldl (fun s t =>
    match SMap.find s.mem.streams t.table, tabOf s t.table with
    | none, some b => { s with mem := { s.mem with streams := SMap.put s.mem.streams t.table (streamOf s b) } }
    | _, _ => s) s

/-- Working weights and tick buffers that lay in retired tiles read as poisoned; those of unloaded layers are gone (R308, R472). -/
def loseTiles (s0 : State) (q : Placement) (s : State) : State :=
  let lost (l : Nat) : Bool :=
    match layerEnt s0 l with
    | some e => (match stagePl s0 e.stage with | some p => p.tiles.flatten.any fun t => !tileOn s t | none => false)
    | none => false
  let layers := (q.images.flatMap fun g => g.2.layers).map (·.layer)
  let ws := (s.tiles.weights.filter fun p => layers.contains p.1).map fun p =>
    (p.1, if lost p.1 then p.2.map fun w => { w with poisoned := true } else p.2)
  let gone (a : Nat) : Bool := match regionOf a with | .tile t => !tileOn s t | _ => false
  let es := (match s0.ple.placement with | some p => p.edges | none => []).flatMap fun e : EdgePl =>
    (if gone e.half0.dpa then [halfKey e.edge 0] else []) ++ (if gone e.half1.dpa then [halfKey e.edge 1] else [])
  { s with tiles := { s.tiles with weights := ws, halves := es.foldl (fun m k => SMap.alter m k noHalf fun h => { h with poisoned := true }) s.tiles.halves } }

/-- Moves that a placement and its directory make from those in force. -/
def installMoves (q : Placement) (dir : SMap DirEnt) (s : State) : List (Nat × Nat × Nat) :=
  match s.ple.placement with
  | some p => placedMoves s p q ++ dirMoves p q s.ple.dir dir
  | none => []

/-- Committed rows of the staging logs are written back. -/
def writeBackAll (s : State) : State := (s.mem.log.filter fun e => e.committed).foldl (fun s e => writeBack e s) s

/-- A tile group holds a placed tile (14 R416). -/
def groupPlaced (s : State) (g : Nat) : Bool :=
  match s.ple.placement with
  | some p => p.stages.any fun x => x.tiles.any fun ts => ts.any fun t => t / 10 == g
  | none => false

/-- A tile group that holds no placed tile is OFF, and its tile SRAM is lost (14 R416): its cells are as if never written. -/
def offGroups (s : State) : State :=
  let lost (a : Nat) : Bool := match regionOf a with | .tile t => !groupPlaced s (t / 10) | _ => false
  { s with mem := { s.mem with cells := s.mem.cells.filter (fun c => !lost c.1), poison := s.mem.poison.filter fun l => !lost (64 * l) } }

/-- Put a placement into force: logs written back, data moved, directory, scales, records and streams (R308),
and the SRAM of the tile groups that are OFF then lost (14 R416). -/
def install (q : Placement) (s : State) : State :=
  let s0 := writeBackAll s
  let dir := placedDir s0 q
  let s := devMove (installMoves q dir s0) s0
  let s := { s with ple := { s.ple with placement := some q, dir := dir, copies := [], retry := [], copySlips := 0 } }
  let s := dir.foldl (fun s e => putDir (e.1 / 2 ^ 40) (e.1 % 2 ^ 40) e.2 s) s
  count (pleCtr 0) 1 (offGroups (loseTiles s0 q (placeStreams q (placeGradients s0 q (placeRecords s0 q (placeScales s0 q s))))))

/-- No image is left to place: no placement is in force. -/
def removePlacement (s : State) : State :=
  offGroups { s with
    ple := { s.ple with placement := none, dir := [], copies := [], retry := [] }, tiles := { s.tiles with weights := [], halves := [] } }

/-- A placement's report (Table 10.11): the header tells MAGIC, VERSION, ID, SIZE, the reset epoch and the entries of each section. -/
def reportOf (s : State) (p : Placement) : List Byte :=
  let counts := [p.stages.length, p.layers.length, p.tensors.length, p.edges.length, p.tables.length, p.sram.length, p.hints.length,
    p.regions.length, (p.tensors.filter fun t => t.window.isSome).length, p.lost.length]
  reportEntry 0 64 ([0x504C4345, 1, p.id.toNat, reportBytes p, s.store.epoch.toNat] ++ counts) ++ reportBody (strideOf (planState s p.images)) p

/-- Images in force by handle. -/
def inForce (s : State) : SMap Image := match s.ple.placement with | some p => p.images | none => []

/-- Condemned units leave the maps at a boundary (15 R449). -/
def retireCondemned (s : State) : State :=
  s.tiles.condemned.foldl (fun s c => retireUnit c.1 c.2.1 c.2.2 s) { s with tiles := { s.tiles with condemned := [] } }

/-- What was asked of the next boundary is taken: unloaded images are gone. -/
def takeAsked (s : State) : State :=
  { s with ple := { s.ple with next := none, replacePending := false, unload := []
                               images := s.ple.images.filter fun p => !s.ple.unload.contains p.1 } }

/-- The report of a re-placement goes to the buffer that the last PLACE or REPLACE gave, if it fits (R307, 15 R449). -/
def resendReport (q : Placement) (s : State) : State :=
  match s.ple.report with
  | some (a, n) => if n < reportBytes q then s else hostWrite s a.toNat (reportOf s q)
  | none => s

/-- Put the placement of some images into force at a boundary (R307); a failure leaves the placement in force (15 R450). -/
def replaceWith (imgs : SMap Image) (resend : Bool) (s : State) : State :=
  if imgs.isEmpty then raise 0x70 0 (removePlacement s)
  else
    match plan s imgs with
    | .error c => placeFail c s
    | .ok q => raise 0x70 q.id (install q (if resend then resendReport q s else s))

/-- Condemned units retire, and the images in force are placed without them (01 R20 item 1, 15 R449). -/
def retireNow (s : State) : State :=
  if s.tiles.condemned.isEmpty then s
  else
    let s := retireCondemned s
    if s.ple.placement.isNone then s else replaceWith (inForce s) true s

/-- The re-placement asked of this step boundary (01 R20 item 2, R307). -/
def replaceAsked (s : State) : State :=
  match s.ple.next with
  | some imgs => let s := takeAsked s; if s.ple.placement.isNone then s else replaceWith imgs false s
  | none => takeAsked s

/-- The re-placements of a step boundary, in the order of 01 R20. -/
def replaceNow (s : State) : State := replaceAsked (retireNow s)

/-- The next boundary re-places `imgs`. -/
def askReplace (imgs : SMap Image) (s : State) : State :=
  { s with ple := { s.ple with next := some imgs, replacePending := true } }

/-- Lowest graph handle that is free. -/
def freeHandle (s : State) : Option Nat := (List.range 16).find? fun h => (SMap.find s.ple.images h).isNone

/-- A host structure is aligned to 64 bytes. -/
def alignedCheck (word : Nat) (_ : State) (_ : Ring) (c : Cmd) : Option Result :=
  if (Desc.word c.desc word).toNat % 64 ≠ 0 then some (descErr 0x07 word) else none

/-- LOAD_GRAPH (R288). -/
def loadGraphBody (_q : Nat) (r : Ring) (c : Cmd) (s : State) : Phase × State :=
  let a := c.desc.w2.toNat
  if !hostOk s r.context.toNat then (.finished (stResult stAccess), s)
  else if !imgWhole s a then (.finished (descErr 0x09 2), placeFail 1 s)
  else
    let g := imageOf s a
    match imageReason g (s.ple.images.map (·.2)) with
    | 0 =>
      match freeHandle s with
      | none => (.finished (descErr 0x07 2), s)
      | some h =>
        (.finished { okResult with detail := BitVec.ofNat 32 h }, { s with ple := { s.ple with images := SMap.put s.ple.images h g } })
    | n => (.finished (descErr 0x09 2), placeFail n s)

def execLoadGraph (ring : Nat) (d : Desc) (s : State) : Host.Outcome State Fault Refusal :=
  .next (runCmd opLoadGraph { check := alignedCheck 2, body := loadGraphBody } ring d s)

/-- Write a report, or say why not: too small a buffer (REASON 0x0E) or a failed host access. -/
def writeReport (r : Ring) (q : Placement) (a : W64) (n : Nat) (s : State) : Option (Phase × State) × State :=
  if n < reportBytes q then (some (.finished (descErr 0x09 3), placeFail 14 s), s)
  else if !hostOk s r.context.toNat then (some (.finished (stResult stAccess), s), s)
  else
    let s := hostWrite s a.toNat (reportOf s q)
    (none, { s with ple := { s.ple with report := some (a, n) } })

/-- The loaded images: one whose UNLOAD_GRAPH waits for the boundary is removed there (R288). -/
def loadedImages (s : State) : SMap Image := s.ple.images.filter fun p => !s.ple.unload.contains p.1

/-- PLACE (R292). -/
def placeBody (_q : Nat) (r : Ring) (c : Cmd) (s : State) : Phase × State :=
  match plan s (loadedImages s) with
  | .error n => (.finished (descErr 0x09 2), placeFail n s)
  | .ok q =>
    match writeReport r q c.desc.w2 (bits c.desc.w3 31 0) s with
    | (some out, _) => out
    | (none, s) => (.finished okResult, if s.ple.placement.isNone then install q s else askReplace (loadedImages s) s)

def execPlace (ring : Nat) (d : Desc) (s : State) : Host.Outcome State Fault Refusal :=
  .next (runCmd opPlace { check := noCheck, body := placeBody } ring d s)

/-- Two images differ only in hints, outlier-channel lists and SEED (R307). -/
def Image.sameBut (g h : Image) : Bool :=
  let bare (x : Image) : Image := { x with seed := 0, hints := [], layers := x.layers.map fun l => { l with channels := [] } }
  bare g == bare h

/-- REPLACE (R307): the placement asked for or in force, with the image of the handle where it places that one; a loaded image that no PLACE
has placed has no effect (R288). -/
def replaceBody (_q : Nat) (r : Ring) (c : Cmd) (s : State) : Phase × State :=
  let d := c.desc
  let h := bits d.w3 35 32
  match s.ple.placement, SMap.find s.ple.images h with
  | some _, some old =>
    let a := d.w2.toNat
    if !hostOk s r.context.toNat then (.finished (stResult stAccess), s)
    else if !imgWhole s a then (.finished (descErr 0x09 2), placeFail 1 s)
    else
      let g := imageOf s a
      match imageReason g ((s.ple.images.filter fun p => p.1 != h).map (·.2)) with
      | 0 =>
        if !g.sameBut old then (.finished (descErr 0x09 2), s)
        else
          let now := s.ple.next.getD (inForce s)
          let set := if (SMap.find now h).isSome then SMap.put now h g else now
          match plan s set with
          | .error n => (.finished (descErr 0x09 2), placeFail n s)
          | .ok q =>
            match writeReport r q d.w4 (bits d.w3 31 0) s with
            | (some out, _) => out
            | (none, s) => (.finished okResult, askReplace set { s with ple := { s.ple with images := SMap.put s.ple.images h g } })
      | n => (.finished (descErr 0x09 2), placeFail n s)
  | _, _ => (.finished (descErr 0x05 3), s)

def execReplace (ring : Nat) (d : Desc) (s : State) : Host.Outcome State Fault Refusal :=
  .next (runCmd opReplace { check := alignedCheck 2, body := replaceBody } ring d s)

/-- A stage of the image has a command in flight (R288). -/
def imageBusy (s : State) (g : Image) : Bool :=
  s.qsu.rings.any fun p => p.2.stageRing && !p.2.cmds.isEmpty && g.stages.any fun e => e.stage == p.2.stage.toNat

/-- UNLOAD_GRAPH (R288, R307). -/
def unloadBody (_q : Nat) (_ : Ring) (c : Cmd) (s : State) : Phase × State :=
  let h := bits c.desc.w2 3 0
  match SMap.find s.ple.images h with
  | none => (.finished (descErr 0x07 2), s)
  | some g =>
    let s := if imageBusy s g then { s with ple := { s.ple with unload := insertNat h s.ple.unload } }
      else { s with ple := { s.ple with images := SMap.del s.ple.images h } }
    let set := s.ple.next.getD (inForce s)
    if (SMap.find set h).isNone then (.finished okResult, s)
    else
      let set := SMap.del set h
      (.finished okResult, askReplace set (match plan s set with | .ok q => resendReport q s | .error _ => s))

def execUnloadGraph (ring : Nat) (d : Desc) (s : State) : Host.Outcome State Fault Refusal :=
  .next (runCmd opUnloadGraph { check := noCheck, body := unloadBody } ring d s)

/-- Checks of PIN. -/
def pinCheck (s : State) (_ : Ring) (c : Cmd) : Option Result :=
  let d := c.desc
  match tablePl s (bits d.w2 63 40) with
  | none => some (descErr 0x05 2)
  | some t => rangeErr (decide (t.pages < bits d.w3 39 0 + bits d.w4 39 0)) 3

/-- PIN (R306): from the next tick edge. -/
def pinBody (_q : Nat) (_ : Ring) (c : Cmd) (s : State) : Phase × State :=
  let d := c.desc
  (.finished okResult, { s with ple := { s.ple with pins := s.ple.pins ++ [(bits d.w2 63 40, bits d.w3 39 0, bits d.w4 39 0, bit d.w2 0)] } })

def execPin (ring : Nat) (d : Desc) (s : State) : Host.Outcome State Fault Refusal :=
  .next (runCmd opPin { check := pinCheck, body := pinBody } ring d s)

/-- MIGRATE (07 R195): the copy of a selected page group is complete. -/
def execMigrate (table page : Nat) (s : State) : Host.Outcome State Fault Refusal :=
  let job := s.ple.copies.find? fun c => c.table == table && c.page == page && !c.complete
  .next (match job, SMap.find s.ple.dir (dirKey table page) with
    | some _, some e =>
      if !alive s then s
      else
        let f (c : CopyJob) : CopyJob := if c.table == table && c.page == page then { c with complete := true } else c
        let s := [e.home, 0x3000, 0x3001].foldl (fun s u => serveBg 2 u s) s
        count (nbeCtr e.home 7) 1 { s with ple := { s.ple with copies := s.ple.copies.map f } }
    | _, _ => s)

/-- Hotness of a page group (R302): the counter of its near page, or its byte of the far hotness table. -/
def groupHeat (s : State) (key : Nat) (e : DirEnt) : Nat :=
  if e.far then (match tablePl s (key / 2 ^ 40) with | some t => (Memory.get s.mem.cells (t.far + key % 2 ^ 40)).toNat | none => 0)
  else SMap.get s.mem.hot (e.page / 4096) 0

/-- Recording or a replay holds back every switch (R306, 08 R242). -/
def noSwitch (s : State) : Bool :=
  s.upd.armed.isSome || match s.upd.step with | some o => o.recording.isSome || o.replaying.isSome | none => false

/-- A group that has a log entry not yet written back counts as dirty (07 R195). -/
def logDirty (s : State) (c : CopyJob) : Bool :=
  match tablePl s c.table with
  | some t => s.mem.log.any fun e => e.table == c.table && e.row / t.rowsPerPage == c.page
  | none => false

/-- Switch a page group to its other place (R305). Requests dispatched before the edge and not yet performed are forwarded and find the same
bits there: how many is free (log entry 64). -/
def switchGroup (table page : Nat) (e : DirEnt) (s : State) : State :=
  let dst : DirEnt := { e with far := !e.far, page := if e.far then e.nearSlot else e.farSlot, tries := 0, hold := 0 }
  let sp := match tablePl s table with | some t => t.statePages | none => 0
  let moves := (groupPages e 0 sp).zip (groupPages dst 0 sp) |>.map fun m => (m.1, m.2, 4096)
  let s := count (pleCtr 6) (Config.migForwarded (ctrAt s (pleCtr 6)) (dirKey table page)) s
  count (pleCtr (if e.far then 1 else 2)) 1 (putDir table page dst (devMove moves s))

/-- MIGRATE record of a copy's outcome (15 Table 15.7): 0 switched, 1 dirty, 2 late, 3 hold started. -/
def traceMigrate (c : CopyJob) (outcome : Nat) (s : State) : State :=
  trace 0x06 0xB00 0 (at' 64 40 c.table ||| BitVec.ofNat 64 c.page) (BitVec.ofNat 64 outcome) s

/-- The outcome of one copy at the edge that ends its tick (R305); `held` tells that no group may be switched at this edge (R306). -/
def endCopy (held : Bool) (c : CopyJob) (s : State) : State :=
  match SMap.find s.ple.dir (dirKey c.table c.page) with
  | none => s
  | some e =>
    let retry (s : State) : State := { s with ple := { s.ple with retry := s.ple.retry ++ [(c.table, c.page)] } }
    if !c.complete || held then retry (traceMigrate c 2 (count (pleCtr 4) 1 s))
    else if c.dirty || logDirty s c then
      let s := count (pleCtr 3) 1 (count (nbeCtr e.home 8) 1 s)
      if 3 ≤ e.tries + 1 then traceMigrate c 3 <| count (pleCtr 5) 1 (putDir c.table c.page { e with tries := 0, hold := 64 } s)
      else retry (traceMigrate c 1 (putDir c.table c.page { e with tries := e.tries + 1 } s))
    else traceMigrate c 0 (switchGroup c.table c.page e s)

/-- HOLD of groups held before this edge decreases (R305). -/
def ageHolds (before : SMap DirEnt) (s : State) : State :=
  (before.filter fun p => p.2.hold != 0).foldl (fun s p =>
    match SMap.find s.ple.dir p.1 with
    | some e => putDir (p.1 / 2 ^ 40) (p.1 % 2 ^ 40) { e with hold := e.hold - 1 } s
    | none => s) s

/-- One PIN or unpin: the pages of its range change; an unpin leaves a page pinned that a hint pins. -/
def applyPin (hinted : Nat → Bool) (s : State) (p : Nat × Nat × Nat × Bool) : State :=
  (s.ple.dir.filter fun e => e.1 / 2 ^ 40 == p.1 && decide (p.2.1 ≤ e.1 % 2 ^ 40) && decide (e.1 % 2 ^ 40 < p.2.1 + p.2.2.1)).foldl (fun s e =>
    putDir p.1 (e.1 % 2 ^ 40) { e.2 with pinned := hinted p.1 || !p.2.2.2 } s) s

/-- PIN and unpin take effect (R306); a binding hint keeps its pages. -/
def applyPins (s : State) : State :=
  let hinted (t : Nat) : Bool := (imagesOf s).any fun g => g.hints.any fun h => (h.kind == 0 || h.kind == 1) && h.a == t
  let s' := s.ple.pins.foldl (applyPin hinted) s
  { s' with ple := { s'.ple with pins := [] } }

/-- Near groups of a table. -/
def nearGroups (s : State) (table : Nat) : Nat := (s.ple.dir.filter fun e => e.1 / 2 ^ 40 == table && !e.2.far).length

/-- What is in use while page groups are chosen: the placement's ranges and the near pages of the groups. -/
def groupAlloc (s : State) : Alloc :=
  match s.ple.placement with
  | some p =>
    let run (e : Nat × DirEnt) : List (Nat × Nat) :=
      match p.tables.find? fun t => t.table == e.1 / 2 ^ 40 with
      | some t => (e.2.acc, 4096 * t.accPages) :: if e.2.far then [] else [(e.2.page, 4096 * (1 + t.statePages))]
      | none => []
    { taken := p.taken ++ s.ple.dir.flatMap run, bad := none }
  | none => { taken := [], bad := none }

/-- Room that a promotion of a group asks of its home column (R304). -/
def promoteReq (s : State) (key : Nat) (e : DirEnt) : Req :=
  let sp := match tablePl s (key / 2 ^ 40) with | some t => t.statePages | none => 0
  { regions := unitRanges (2 ^ 29) [e.home], align := 4096, n := 4096 * (1 + sp), kind := 51, id := key }

/-- Page groups that can be copied in the tick that follows (R304): failed ones first, then demotions and promotions. -/
def selectCopies (s : State) : List (Nat × Nat) :=
  let cfg := s.ple.migCfg
  let free (e : Nat × DirEnt) : Bool := !e.2.pinned && e.2.hold == 0
  let again := s.ple.retry.filter fun r => match SMap.find s.ple.dir (dirKey r.1 r.2) with | some e => free (0, e) | none => false
  let ents := s.ple.dir.filter fun e => free e && !again.contains (e.1 / 2 ^ 40, e.1 % 2 ^ 40)
  let hot (e : Nat × DirEnt) : Nat := groupHeat s e.1 e.2
  let cands := ents.filter fun e => e.2.far && decide (bits cfg 31 24 ≤ hot e)
  let tabs := match s.ple.placement with | some p => p.tables | none => []
  let ups (t : TablePl) : Nat := (again.filter fun r => r.1 == t.table && (SMap.find s.ple.dir (dirKey r.1 r.2)).elim false (·.far)).length
  let room (t : TablePl) : Nat := t.quota - nearGroups s t.table - ups t
  let lack (t : TablePl) : Nat := (cands.filter fun e => e.1 / 2 ^ 40 == t.table).length - room t
  let cold := sortBy (fun a b => decide (hot a < hot b) || (hot a == hot b && decide (a.1 ≤ b.1)))
    (ents.filter fun e => !e.2.far && decide (hot e ≤ bits cfg 23 16))
  let warm := sortBy (fun a b => decide (hot b < hot a) || (hot a == hot b && decide (a.1 ≤ b.1)))
    (cands.filter fun e => decide (0 < (groupAlloc s).room (promoteReq s e.1 e.2)))
  let limit (f : TablePl → Nat) (es : List (Nat × DirEnt)) : List (Nat × DirEnt) :=
    es.filter fun e =>
      match tabs.find? fun t => t.table == e.1 / 2 ^ 40 with
      | some t => decide (((es.takeWhile fun x => x.1 != e.1).filter fun x => x.1 / 2 ^ 40 == t.table).length < f t)
      | none => false
  let pick := again ++ ((limit lack cold ++ limit room warm).map fun e => (e.1 / 2 ^ 40, e.1 % 2 ^ 40))
  pick.take (bits cfg 15 0)

/-- Give a selected group its place in the home column; a promotion that finds none is not started (R304). -/
def startCopy (seed : W64) (acc : Alloc × State) (g : Nat × Nat) : Alloc × State :=
  let s := acc.2
  let key := dirKey g.1 g.2
  match SMap.find s.ple.dir key with
  | none => acc
  | some e =>
    let job : CopyJob := { table := g.1, page := g.2, dirty := false, complete := false }
    if !e.far then (acc.1, { s with ple := { s.ple with copies := s.ple.copies ++ [job] } })
    else if acc.1.room (promoteReq s key e) = 0 then acc
    else
      let x := acc.1.take seed 10 (promoteReq s key e)
      (x.2, { s with ple := { s.ple with dir := SMap.put s.ple.dir key { e with nearSlot := x.1 }, copies := s.ple.copies ++ [job] } })

/-- Start the copies of the tick that follows (R304). -/
def startCopies (s : State) : State :=
  let seed := match s.ple.placement with | some p => placeSeed s p.images | none => 0
  ((selectCopies s).foldl (startCopy seed) (groupAlloc s, s)).2

/-- Groups to copy again, in the order in which they were first selected: those waiting or failed again as they stood, then the ones that
failed for the first time (R304). -/
def retryOrder (old : List (Nat × Nat)) (jobs : List CopyJob) (failed : List (Nat × Nat)) : List (Nat × Nat) :=
  (old.filter fun r => failed.contains r || !(jobs.any fun c => c.table == r.1 && c.page == r.2)) ++ failed.filter fun r => !old.contains r

/-- What the placement engine does at a tick edge, slipped or advancing (R304-R306, R311). -/
def migrateEdge (held : Bool) (s : State) : State :=
  let before := s.ple.dir
  let jobs := s.ple.copies
  let old := s.ple.retry
  let s := jobs.foldl (fun s c => endCopy held c s) { s with ple := { s.ple with copies := [], retry := [] } }
  let s := { s with ple := { s.ple with retry := retryOrder old jobs s.ple.retry } }
  let s := applyPins (ageHolds before s)
  let s := { s with ple := { s.ple with migrateEn := s.ple.migrateNext, migCfg := s.ple.migNext } }
  if s.ple.migrateEn then startCopies s else s

end Sys2Proof.Machine
end

