-- ==== Sys2Proof/Machine/Update.lean ====
section
/-!
DEFINITION. Parameter update (08 R209-R235): the schedule engine, rule descriptors, the layer rules, inverse roots, the row
rules, and the commands that run them.
-/
namespace Sys2Proof.Machine

/-- A 64-byte structure of eight words: word `i` and a field of it (Tables 8.2 and 8.6). -/
def blkF32 (x : BitVec 512) (i : Nat) (high : Bool) : F32 := BitVec.ofNat 32 (if high then Recipe.fld x i 63 32 else Recipe.fld x i 31 0)

/-- FP32 constants of the rules. -/
def fHalf : F32 := 0x3F000000#32
def fTwo : F32 := 0x40000000#32
def fTen : F32 := 0x41200000#32
def fMinNormal : F32 := 0x00800000#32

/-- Fields of a schedule (Table 8.6). -/
def Sched.start (x : BitVec 512) : Nat := (Recipe.word x 0).toNat
def Sched.warm (x : BitVec 512) : Nat := Recipe.fld x 1 63 32
def Sched.decay (x : BitVec 512) : Nat := Recipe.fld x 1 31 0
def Sched.restart (x : BitVec 512) : Nat := Recipe.fld x 2 63 32
def Sched.valid (x : BitVec 512) : Bool := Recipe.fld x 7 7 7 == 1
def Sched.follow (x : BitVec 512) : Bool := Recipe.fld x 7 6 6 == 1
def Sched.warmType (x : BitVec 512) : Nat := Recipe.fld x 7 5 5
def Sched.decayType (x : BitVec 512) : Nat := Recipe.fld x 7 4 2
def Sched.lossScale (x : BitVec 512) : F32 := blkF32 x 5 false

/-- Finite and above zero. -/
def posFinite (x : F32) : Bool := (fv x).finite && flt fZero x

/-- A schedule that SCHEDULE_SET accepts (R235). -/
def schedOk (x : BitVec 512) : Bool :=
  let fps := [blkF32 x 2 false, blkF32 x 3 true, blkF32 x 3 false, blkF32 x 4 true, blkF32 x 4 false, blkF32 x 5 true, blkF32 x 5 false,
    blkF32 x 6 true, blkF32 x 6 false, blkF32 x 7 true]
  fps.all (fun v => (fv v).finite) && decide (Sched.decayType x ≤ 4) &&
    !(Sched.decay x == 0 && Sched.decayType x != 0 && Sched.restart x == 0) &&
    !(Sched.warmType x == 1 && !(flt fZero (blkF32 x 4 true) && !flt fOne (blkF32 x 4 true))) &&
    !(Sched.restart x != 0 && flt (blkF32 x 2 false) fOne) && posFinite (Sched.lossScale x) &&
    !(Sched.follow x && (fv (blkF32 x 3 true)).isZero)

/-- An FP32 value as an unsigned 64-bit integer, rounded to nearest (R234). -/
def f32Int (v : F32) : Nat := if (fv v).finite && decide (rneInt (fv v) < 2 ^ 64) then (rneInt (fv v)).toNat else Config.wideInt v

/-- The cycle that position `p` falls in (R234): the position in it, its length and its peak. -/
def restartCycle (mult pm : F32) : Nat → Nat → Nat → F32 → Nat × Nat × F32
  | 0, p, len, peak => (p, len, peak)
  | fuel + 1, p, len, peak =>
    if p < len then (p, len, peak) else restartCycle mult pm fuel (p - len) (max 1 (f32Int (fmul (fOfNat len) mult))) (fmul peak pm)

/-- lr and mu of step `n` (R234). -/
def schedRate (x : BitVec 512) (n : Nat) : F32 × F32 :=
  let t := n - Sched.start x
  let base := blkF32 x 3 true
  let min_ := blkF32 x 3 false
  let ws := blkF32 x 4 true
  if t < Sched.warm x then
    let f := fdiv (fOfNat t) (fOfNat (Sched.warm x))
    let lr := if Sched.warmType x = 0 then fmul base (fadd ws (fmul (fsub fOne ws) f)) else fmul base (fexp (fmul (flog ws) (fsub fOne f)))
    (lr, fadd (blkF32 x 6 true) (fmul (fsub (blkF32 x 6 false) (blkF32 x 6 true)) f))
  else
    let c := if Sched.restart x = 0 then (t - Sched.warm x, Sched.decay x, base)
      else restartCycle (blkF32 x 2 false) (blkF32 x 4 false) (t - Sched.warm x + 1) (t - Sched.warm x) (Sched.restart x) base
    let q := fdiv (fOfNat c.1) (fOfNat c.2.1)
    let f := fmin fOne q
    let peak := c.2.2
    let lr := match Sched.decayType x with
      | 0 => peak
      | 1 => fadd min_ (fmul (fmul fHalf (fsub peak min_)) (fadd fOne (fcos (fmul 0x40490FDB#32 f))))
      | 2 => fsub peak (fmul (fsub peak min_) f)
      | 3 => fdiv peak (fsqrt (fadd fOne q))
      | _ =>
        let k := c.1 / c.2.1
        fmax (if 255 < k then min_ else iterate (fun v => fmul v (blkF32 x 5 true)) (min k 255) peak) min_
    (lr, blkF32 x 6 false)

/-- The values lr, mu, wd and inv_ls of step `n` (R234), as UPD_SCHED_VALn holds them. -/
def schedValue (x : BitVec 512) (n : Nat) : BitVec 128 :=
  let r := schedRate x n
  let wd := if Sched.follow x then fmul (blkF32 x 7 true) (fdiv r.1 (blkF32 x 3 true)) else blkF32 x 7 true
  r.1 ++ r.2 ++ wd ++ fdiv fOne (Sched.lossScale x)

/-- Schedule values of an index for the open step. -/
structure SchedVal where
  lr : F32
  mu : F32
  wd : F32
  invLs : F32

def schedVals (s : State) (i : Nat) : SchedVal :=
  let v := SMap.get s.upd.schedVal i 0
  { lr := v.extractLsb' 96 32, mu := v.extractLsb' 64 32, wd := v.extractLsb' 32 32, invLs := v.extractLsb' 0 32 }

/-- The schedule engine at a step boundary (R233): pending schedules take effect, and every VALID one gives the values of step `n`
and the LOSS_SCALE that ELEMWISE reads. -/
def runSchedules (n : Nat) (s : State) : State :=
  let live := s.upd.schedNext.filter fun p => Sched.valid p.2
  { s with upd := { s.upd with
      sched := s.upd.schedNext
      schedVal := live.foldl (fun m p => SMap.set m p.1 (schedValue p.2 n) 0) s.upd.schedVal
      schedUsed := s.upd.schedNext.foldl (fun m p => SMap.put m p.1 (Sched.lossScale p.2)) s.upd.schedUsed } }

/-- Check of SCHEDULE_SET: the reserved half of the loss-scale-only word (11 Table 11.10). -/
def scheduleCheck (_ : State) (_ : Ring) (c : Cmd) : Option Result :=
  if bit c.desc.w2 57 && bits c.desc.w3 63 32 != 0 then some (descErr 0x04 3) else none

/-- SCHEDULE_SET (R235): the new values are used from the next step boundary. One whose source read returns poison changes nothing (R218). -/
def scheduleBody (_q : Nat) (r : Ring) (c : Cmd) (s : State) : Phase × State :=
  let i := bits c.desc.w2 63 58
  let old := SMap.get s.upd.schedNext i 0
  let put (x : BitVec 512) : Phase × State := (.finished okResult, { s with upd := { s.upd with schedNext := SMap.set s.upd.schedNext i x 0 } })
  if bit c.desc.w2 57 then
    let v : F32 := c.desc.w3.setWidth 32
    if !posFinite v then (.finished (descErr 0x09 3), s)
    else put (old &&& ~~~ ((0xFFFFFFFF#512) <<< 320) ||| (v.setWidth 512 <<< 320))
  else if !hostOk s r.context.toNat then (.finished (stResult stAccess), s)
  else if Config.hostPoison c.desc.w3.toNat (ctrAt s (qsuCtr 2)) then (.finished (stResult stPoisoned), s)
  else
    let x : BitVec 512 := BitVec.ofNat 512 (leNat (hostRead s c.desc.w3.toNat 64))
    if schedOk x then put x else (.finished (descErr 0x09 3), s)

def execScheduleSet (ring : Nat) (d : Desc) (s : State) : Host.Outcome State Fault Refusal :=
  .next (runCmd opScheduleSet { check := scheduleCheck, body := scheduleBody } ring d s)

/-- Fields of a rule descriptor (Table 8.2). -/
def Rule.code (x : BitVec 512) : Nat := Recipe.fld x 0 7 0
def Rule.flag (x : BitVec 512) (i : Nat) : Bool := Recipe.fld x 0 i i == 1
def Rule.sched (x : BitVec 512) : Nat := Recipe.fld x 0 37 32
def Rule.pRoot (x : BitVec 512) : Nat := Recipe.fld x 0 47 40
def Rule.iters (x : BitVec 512) : Nat := Recipe.fld x 0 55 48
def Rule.beta2 (x : BitVec 512) : F32 := blkF32 x 1 true
def Rule.eps (x : BitVec 512) : F32 := blkF32 x 1 false
def Rule.lrMult (x : BitVec 512) : F32 := blkF32 x 2 true
def Rule.wdMult (x : BitVec 512) : F32 := blkF32 x 2 false
def Rule.clip (x : BitVec 512) : F32 := blkF32 x 3 true
def Rule.factBeta (x : BitVec 512) : F32 := blkF32 x 3 false
def Rule.damp (x : BitVec 512) : F32 := blkF32 x 4 true
def Rule.pivotMin (x : BitVec 512) : F32 := blkF32 x 4 false
def Rule.trMin (x : BitVec 512) : F32 := blkF32 x 5 true
def Rule.trMax (x : BitVec 512) : F32 := blkF32 x 5 false
def Rule.kInterval (x : BitVec 512) : Nat := Recipe.fld x 6 63 48
def Rule.rootLag (x : BitVec 512) : Nat := Recipe.fld x 6 47 32
def Rule.statInterval (x : BitVec 512) : Nat := Recipe.fld x 6 31 16
def Rule.nesterov (x : BitVec 512) : Bool := Rule.flag x 8
def Rule.decoupled (x : BitVec 512) : Bool := Rule.flag x 9
def Rule.biasCorr (x : BitVec 512) : Bool := Rule.flag x 10
def Rule.trAdam (x : BitVec 512) : Bool := Rule.flag x 11
def Rule.srRows (x : BitVec 512) : Bool := Rule.flag x 12

/-- FP32 range checks: finite; at least zero; above zero; in [0, 1). -/
def fin_ (x : F32) : Bool := (fv x).finite
def nonneg (x : F32) : Bool := fin_ x && !flt x fZero
def unitRange (x : F32) : Bool := nonneg x && flt x fOne

/-- A descriptor is valid for a layer or for a table (R218), but for its schedule: fields that the rule does not use are not checked. -/
def Rule.ok (x : BitVec 512) (table : Bool) : Bool :=
  let c := Rule.code x
  let adam := unitRange (Rule.beta2 x) && nonneg (Rule.eps x)
  let use : Bool := match c with
    | 0 => true
    | 1 => adam
    | 2 => nonneg (Rule.trMin x) && fin_ (Rule.trMax x) && !flt (Rule.trMax x) (Rule.trMin x) && (!Rule.trAdam x || adam)
    | 3 => nonneg (Rule.eps x)
    | 4 => adam && unitRange (Rule.factBeta x) && posFinite (Rule.damp x) && posFinite (Rule.pivotMin x) &&
        (Rule.pRoot x == 2 || Rule.pRoot x == 4) && decide (1 ≤ Rule.iters x) && decide (Rule.iters x ≤ 32) &&
        decide (1 ≤ Rule.kInterval x) && decide (1 ≤ Rule.rootLag x) && decide (Rule.rootLag x ≤ Rule.kInterval x) &&
        decide (1 ≤ Rule.statInterval x)
    | 8 => true
    | 9 => nonneg (Rule.eps x)
    | 10 => adam
    | _ => false
  Recipe.fld x 7 63 63 == 1 && use && (if table then decide (8 ≤ c) else decide (c ≤ 4) && fin_ (Rule.clip x)) &&
    fin_ (Rule.lrMult x) && fin_ (Rule.wdMult x)

/-- The snapshot of the rules that loaded layers and tables name, at a step boundary (R217, R218): `none` was poisoned. -/
def snapshotRules (s : State) : State :=
  let ids := ((imagesOf s).flatMap fun g => (g.layers.filterMap (·.rule)) ++ (g.tensors.filter fun t => t.role == 3).filterMap (·.rule))
  let one (m : SMap (Option (BitVec 512))) (id : Nat) : SMap (Option (BitVec 512)) :=
    let a := s.act.ruleBase.toNat + 64 * id
    SMap.put m id (if devPoison s a 64 then none else some (BitVec.ofNat 512 (leNat (devBytes s a 64))))
  { s with upd := { s.upd with rules := ids.foldl one [] } }

/-- Why a rule cannot run (R218, R247): its result, or the descriptor. -/
def ruleFor (s : State) (id : Nat) (table ouvut : Bool) : Except Result (BitVec 512) :=
  match SMap.find s.upd.rules id with
  | none => .error (descErr 0x09 2)
  | some none => .error (stResult stPoisoned)
  | some (some x) =>
    if !Rule.ok x table || !Sched.valid (SMap.get s.upd.sched (Rule.sched x) 0) then .error (descErr 0x09 2)
    else if ouvut && [2, 3, 4, 10].contains (Rule.code x) then .error (descErr 0x09 2)
    else .ok x

/-- Matrices as lists of rows: transpose, product in ascending inner index (R215), and elementwise maps. -/
def matT (cols : Nat) (m : List (List F32)) : List (List F32) := (List.range cols).map fun j => m.map fun r => r.getD j fZero
def dotFma (a b : List F32) : F32 := (a.zip b).foldl (fun acc p => ffma p.1 p.2 acc) fZero
def matMul (cols : Nat) (a b : List (List F32)) : List (List F32) :=
  let bt := matT cols b
  a.map fun r => bt.map fun c => dotFma r c
def matMap (f : F32 → F32) (m : List (List F32)) : List (List F32) := m.map fun r => r.map f
def matZip (f : F32 → F32 → F32) (a b : List (List F32)) : List (List F32) := a.zipWith (fun x y => x.zipWith f y) b
def scaledEye (n : Nat) (v : F32) : List (List F32) :=
  (List.range n).map fun i => (List.range n).map fun j => fmul v (if i = j then fOne else fZero)

/-- Sum of the squares of a block given as columns of K, in the index of R214. -/
def normSq (cols : List (List F32)) : F32 := lsum ((cols.flatten).map fun v => fmul v v)

/-- Pivots of a Cholesky factorisation by columns (R226): `done` holds the finished rows' entries; fails below `lim`. -/
def cholesky (b : List (List F32)) (lim : F32) : Nat → Nat → List (List F32) → Bool
  | 0, _, _ => true
  | fuel + 1, i, rows =>
    let ri := rows.getD i []
    let piv := ri.foldl (fun acc l => ffma (fneg l) l acc) ((b.getD i []).getD i fZero)
    if !(fv piv).finite || flt piv lim then false
    else
      let root := fsqrt piv
      let next := rows.zipIdx.map fun p =>
        if p.2 < i then p.1
        else if p.2 = i then p.1 ++ [root]
        else
          let acc := (p.1.zip ri).foldl (fun acc q => ffma (fneg q.1) q.2 acc) ((b.getD p.2 []).getD i fZero)
          p.1 ++ [fdiv acc root]
      cholesky b lim fuel (i + 1) next

/-- The damped factor that factorises, over eps, 10 eps, 100 eps and 1,000 eps (R226). -/
def dampFactor (a : List (List F32)) (n : Nat) (tr pivotMin : F32) : Nat → F32 → Option (List (List F32))
  | 0, _ => none
  | fuel + 1, eps =>
    let b := matZip fadd a (scaledEye n eps)
    if cholesky b (fmul pivotMin (fadd tr eps)) n 0 (List.replicate n []) then some b else dampFactor a n tr pivotMin fuel (fmul eps fTen)

/-- One Newton iteration of the inverse root (R226). -/
def rootStep (n p : Nat) (xm : List (List F32) × List (List F32)) : List (List F32) × List (List F32) :=
  let t := matMap (fun v => fmul v (frecip (fOfNat p))) (matZip fsub (scaledEye n (fOfNat (p + 1))) xm.2)
  let t2 := matMul n t t
  (matMul n xm.1 t, matMul n (if p = 2 then t2 else matMul n t2 t2) xm.2)

/-- The inverse root of a factor (R226); `none` is FAILED. -/
def inverseRoot (d : BitVec 512) (n : Nat) (a : List (List F32)) : Option (List (List F32)) :=
  let p := Rule.pRoot d
  let tr := fdiv (lsum ((List.range n).map fun i => (a.getD i []).getD i fZero)) (fOfNat n)
  match dampFactor a n tr (Rule.pivotMin d) 4 (fmul (Rule.damp d) (fmax tr fMinNormal)) with
  | none => none
  | some b =>
    let z := fdiv (fOfNat (p + 1)) (fmul fTwo (fsqrt (normSq b)))
    let x := scaledEye n (if p = 2 then fsqrt z else fsqrt (fsqrt z))
    some (iterate (rootStep n p) (Rule.iters d) (x, matMap (fmul z) b)).1

/-- Add an FP32 step to a master (R216); Ouvut masters keep extension 0 (Table 8.12). -/
def masterAdd (ouvut : Bool) (hi : F32) (lo : Byte) (delta : F32) : F32 × Byte :=
  let v := (m40Value hi lo).add (fv delta)
  if ouvut then (rne v, 0) else toM40 v

/-- An element of a layer as a rule takes it: FP32 plane, gradient after the prologue, and the state arrays. -/
structure ElemIn where
  w : F32
  g : F32
  s1 : F32
  s2 : F32
  deriving DecidableEq, Repr

/-- What the rules share: lr, wd, mu, 1 - p1 and 1 - p2 after this update. -/
structure RuleCtx where
  d : BitVec 512
  lr : F32
  wd : F32
  mu : F32
  q1 : F32
  q2 : F32

/-- Momentum direction (R220) of a gradient: new b and u. -/
def momentum (x : RuleCtx) (g b : F32) : F32 × F32 :=
  let b := ffma x.mu b g
  (b, if Rule.nesterov x.d then ffma x.mu b g else b)

/-- Adam direction (R221) of a gradient: new m and v, and u. -/
def adam (x : RuleCtx) (g m v : F32) : F32 × F32 × F32 :=
  let c1 := fsub fOne x.mu
  let c2 := fsub fOne (Rule.beta2 x.d)
  let m := ffma x.mu m (fmul c1 g)
  let v := ffma (Rule.beta2 x.d) v (fmul c2 (fmul g g))
  let mh := if Rule.biasCorr x.d then fdiv m x.q1 else m
  let vh := if Rule.biasCorr x.d then fdiv v x.q2 else v
  (m, v, fdiv mh (fadd (fsqrt vh) (Rule.eps x.d)))

/-- The direction of an element before decay, and its new state arrays. -/
structure ElemDir where
  u : F32
  s1 : F32
  s2 : F32
  deriving DecidableEq, Repr

/-- Rule 1's direction with its coupled decay (R221). -/
def adamDir (x : RuleCtx) (couple : Bool) (e : ElemIn) : ElemDir :=
  let a := adam x (if couple && !Rule.decoupled x.d then ffma x.wd e.w e.g else e.g) e.s1 e.s2
  { u := a.2.2, s1 := a.1, s2 := a.2.1 }

def momDir (x : RuleCtx) (couple : Bool) (e : ElemIn) : ElemDir :=
  let b := momentum x (if couple then ffma x.wd e.w e.g else e.g) e.s1
  { u := b.2, s1 := b.1, s2 := e.s2 }

/-- The final step of an element from its direction, with decoupled decay where the rule has it. -/
def decoupledStep (x : RuleCtx) (e : ElemIn) (u : F32) : F32 :=
  fneg (fmul x.lr (if Rule.decoupled x.d then ffma x.wd e.w u else u))

/-- Columns (along K) of a rule block of a layer's flat list. -/
def blockCols (k : Nat) (b : Nat × Nat × Nat × Nat) (xs : List F32) : List (List F32) :=
  (List.range b.2.2.2).map fun j => ((xs.drop ((b.2.2.1 + j) * k + b.1)).take b.2.1)

/-- Put the columns of every block back into flat order. -/
def fromBlocks (k n : Nat) (parts : List ((Nat × Nat × Nat × Nat) × List (List F32))) : List F32 :=
  (List.range n).flatMap fun j => (List.range k).map fun i =>
    match parts.find? fun p => decide (p.1.1 ≤ i) && decide (i < p.1.1 + p.1.2.1) && decide (p.1.2.2.1 ≤ j) && decide (j < p.1.2.2.1 + p.1.2.2.2) with
    | some p => (p.2.getD (j - p.1.2.2.1) []).getD (i - p.1.1) fZero
    | none => fZero

/-- Rule 3 on one block (R223): the direction sc * X of each element, as columns; `xs` is X as columns. -/
def orthoBlock (d : BitVec 512) (r c : Nat) (xs : List (List F32)) : List (List F32) :=
  let tr := decide (c < r)
  let rows := if tr then c else r
  let cols := if tr then r else c
  let x0 := if tr then xs else matT r xs
  let s := fdiv fOne (fadd (fsqrt (normSq xs)) (Rule.eps d))
  let one (x : List (List F32)) : List (List F32) :=
    let a := matMul rows x (matT cols x)
    matZip (fun p q => ffma 0xBF000000#32 p q) (matMul cols a x) (matMap (fmul 0x3FC00000#32) x)
  let x5 := iterate one 5 (matMap (fun v => fmul v s) x0)
  let sc := fsqrt (fmax fOne (fdiv (fOfNat c) (fOfNat r)))
  matMap (fmul sc) (if tr then x5 else matT cols x5)

/-- Start of each matrix in the factor region of a block (R473): Lf, Rf, Linv, Rinv, root status record. -/
def factorOff (r c i : Nat) : Nat :=
  (if 0 < i then roundUp 64 (4 * r * r) else 0) + (if 1 < i then roundUp 64 (4 * c * c) else 0) +
    (if 2 < i then roundUp 64 (4 * r * r) else 0) + (if 3 < i then roundUp 64 (4 * c * c) else 0)

/-- Start of a block's factor region. -/
def blockFac (base k n i : Nat) : Nat := ((ruleBlocks k n).take i).foldl (fun a b => a + factorBytes b.2.1 b.2.2.2) base

/-- FP32 words of memory as a list, and back. -/
def devWords (s : State) (a n : Nat) : List F32 := (chunks 4 (devBytes s a (4 * n))).map fun b => BitVec.ofNat 32 (leNat b)
def wordBytes (xs : List F32) : List Byte := xs.flatMap fun v => leBytes 4 v.toNat

/-- A region of N strips of K FP32 elements in flat order (R473), its poison, and writing it. -/
def stripWords (s : State) (a k n : Nat) : List F32 := (List.range n).flatMap fun j => devWords s (a + j * roundUp 64 (4 * k)) k
def stripPoison (s : State) (a k n : Nat) : Bool := devPoison s a (n * roundUp 64 (4 * k))
def putStrips (a k : Nat) (xs : List F32) (s : State) : State :=
  (chunks k xs).zipIdx.foldl (fun s p => devWrite (a + p.2 * roundUp 64 (4 * k)) (wordBytes p.1 ++ List.replicate (roundUp 64 (4 * k) - 4 * p.1.length) 0) s) s
def stripExts (s : State) (a k n : Nat) : List Byte := (List.range n).flatMap fun j => devBytes s (a + j * roundUp 64 k) k
def putExts (a k : Nat) (bs : List Byte) (s : State) : State :=
  (chunks k bs).zipIdx.foldl (fun s p => devWrite (a + p.2 * roundUp 64 k) (p.1 ++ List.replicate (roundUp 64 k - p.1.length) 0) s) s

/-- Number that a root status record carries for the root computations of its block (R473; log entry 119). -/
def rootToken (s : State) (x : LayerEnt) (c : LayerAt) (i : Nat) : Nat := leNat (devBytes s (rootRecord x c i + 8) 8)

/-- The root computations of a block that are not used up, oldest first. -/
def blockRoots (s : State) (x : LayerEnt) (c : LayerAt) (i : Nat) : List Root := SMap.get s.upd.roots (rootToken s x c i) []

/-- The roots of a block that take effect in update `j` (R225): those started after update j - ROOT_LAG. -/
def rootsFor (s : State) (d : BitVec 512) (x : LayerEnt) (c : LayerAt) (block j : Nat) : List Root :=
  (blockRoots s x c block).filter fun r => r.after + Rule.rootLag d == j

/-- Rule 4 on one block: factors changed, the direction of each element as columns, and the factors that FAILED (R224-R227). -/
structure KronOut where
  factors : List (Nat × List F32)
  dir : List (List F32)
  failed : List Nat

/-- A block's roots hold values (R224). -/
def rootsValid (s : State) (x : LayerEnt) (c : LayerAt) (i : Nat) : Bool := (devBytes s (rootRecord x c i) 1).headD 0 != 0

def kronBlock (s : State) (d : BitVec 512) (x : LayerEnt) (at_ : LayerAt) (i j : Nat) (b : Nat × Nat × Nat × Nat) (g a : List (List F32)) : KronOut :=
  let r := b.2.1
  let c := b.2.2.2
  let base := blockFac at_.fac x.k x.n i
  let read (f side : Nat) : List (List F32) := chunks side (devWords s (base + factorOff r c f) (side * side))
  let gm := matT r g
  let stat : List (Nat × List F32) :=
    if j % Rule.statInterval d = 0 then
      let cf := fsub fOne (Rule.factBeta d)
      let l := matZip (fun o p => ffma (Rule.factBeta d) o (fmul cf p)) (read 0 r) (matMul r gm g)
      let rf := matZip (fun o p => ffma (Rule.factBeta d) o (fmul cf p)) (read 1 c) (matMul c g gm)
      [(4 * i, l.flatten), (4 * i + 1, rf.flatten)]
    else []
  let due := rootsFor s d x at_ i j
  let failed := (due.filter fun x => x.result == some none).map (·.factor)
  let fresh (f : Nat) : Option (List F32) := (due.find? fun x => x.factor == f).bind fun x => match x.result with | some (some m) => some m | _ => none
  let new := if failed.isEmpty then match fresh 0, fresh 1 with | some l, some m => some (l, m) | _, _ => none else none
  let roots : Option (List (List F32) × List (List F32)) :=
    match new with
    | some (l, m) => some (chunks r l, chunks c m)
    | none => if rootsValid s x at_ i then some (read 2 r, read 3 c) else none
  let changed := match new with | some (l, m) => [(4 * i + 2, l), (4 * i + 3, m)] | none => []
  let dir : List (List F32) :=
    if !failed.isEmpty then a
    else
      match roots with
      | none => a
      | some (li, ri) =>
        let u := matT c (matMul c (matMul c li gm) ri)
        let na := fsqrt (normSq a)
        let nu := fsqrt (normSq u)
        if flt fZero nu then matMap (fun v => fmul v (fdiv na nu)) u else a
  { factors := stat ++ changed, dir := dir, failed := failed }

/-- What an update of a layer computes: masters, state arrays, record, the matrices of RULE 4 that change, by 4 * block + matrix, and the
(block, factor) pairs whose root FAILED. -/
structure LayerState where
  hi : List F32
  lo : List Byte
  s1 : List F32
  s2 : List F32
  count : W32
  p1 : F32
  p2 : F32
  factors : SMap (List F32)
  failed : List (Nat × Nat)

/-- What an UPDATE_LAYER computes from the active copy (R219-R224). -/
def updateLayer (s : State) (d : BitVec 512) (ouvut : Bool) (l : LayerEnt) (p : LayerPl) : LayerState :=
  let sv := schedVals s (Rule.sched d)
  let hi := stripWords s p.now.hi l.k l.n
  let lo := stripExts s p.now.lo l.k l.n
  let count : W32 := BitVec.ofNat 32 (leNat (devBytes s p.now.rec_ 4))
  let p1 := devF32 s (p.now.rec_ + 4)
  let p2 := devF32 s (p.now.rec_ + 8)
  let code := Rule.code d
  let isAdam := code == 1 || code == 4 || (code == 2 && Rule.trAdam d)
  let p1' := if isAdam then fmul p1 sv.mu else p1
  let p2' := if isAdam then fmul p2 (Rule.beta2 d) else p2
  let x : RuleCtx := { d := d, lr := fmul sv.lr (Rule.lrMult d), wd := fmul sv.wd (Rule.wdMult d), mu := sv.mu,
                       q1 := fsub fOne p1', q2 := fsub fOne p2' }
  let g0 := (stripWords s p.grad l.k l.n).map fun v => fmul v sv.invLs
  let nrm := fsqrt (lsum (g0.map fun v => fmul v v))
  let g := if flt fZero (Rule.clip d) && flt (Rule.clip d) nrm then g0.map fun v => fmul v (fdiv (Rule.clip d) nrm) else g0
  let es : List ElemIn := (hi.zip (g.zip ((stripWords s p.now.s1 l.k l.n).zip (stripWords s p.now.s2 l.k l.n)))).map fun q =>
    { w := q.1, g := q.2.1, s1 := q.2.2.1, s2 := q.2.2.2 }
  let blocks := ruleBlocks l.k l.n
  let dirs : List ElemDir := match code with
    | 0 => es.map (momDir x true)
    | 1 => es.map (adamDir x true)
    | 2 => es.map (if Rule.trAdam d then adamDir x false else momDir x false)
    | 3 => es.map (momDir x false)
    | _ => es.map (adamDir x true)
  let us := dirs.map (·.u)
  let kron := if code = 4 then blocks.zipIdx.map fun b =>
      (b.1, kronBlock s d l p.now b.2 (count.toNat + 1) b.1 (blockCols l.k b.1 g) (blockCols l.k b.1 us)) else []
  let steps : List F32 := match code with
    | 0 => us.map fun u => fneg (fmul x.lr u)
    | 1 => es.zipWith (decoupledStep x) us
    | 2 =>
      let u2 := es.zipWith (fun e u => ffma x.wd e.w u) us
      let nw := fsqrt (lsum (hi.map fun w => fmul w w))
      let nu := fsqrt (lsum (u2.map fun u => fmul u u))
      let t := if flt fZero nw && flt fZero nu then fmin (fmax (fdiv nw nu) (Rule.trMin d)) (Rule.trMax d) else fOne
      u2.map fun u => fneg (fmul (fmul x.lr t) u)
    | 3 =>
      let o := fromBlocks l.k l.n (blocks.map fun b => (b, orthoBlock d b.2.1 b.2.2.2 (blockCols l.k b us)))
      es.zipWith (fun e v => fneg (fmul x.lr (ffma x.wd e.w v))) o
    | _ => es.zipWith (decoupledStep x) (fromBlocks l.k l.n (kron.map fun b => (b.1, b.2.dir)))
  let w := (hi.zip lo).zipWith (fun h v => masterAdd ouvut h.1 h.2 v) steps
  { hi := w.map (·.1), lo := w.map (·.2), s1 := dirs.map (·.s1), s2 := dirs.map (·.s2), count := count + 1, p1 := p1', p2 := p2'
    factors := (kron.flatMap fun b => b.2.factors).foldl (fun m f => SMap.put m f.1 f.2) []
    failed := kron.zipIdx.flatMap fun b => b.1.2.failed.map fun f => (b.2, f) }

/-- The gradient or a staged value of an update is not finite (Table 8.8). -/
def LayerState.nonfinite (x : LayerState) : Bool := anyBad x.hi || anyBad x.s1 || anyBad x.s2 || x.factors.any fun f => anyBad f.2

/-- A root that update `j` needs is not complete (R225). -/
def rootsPending (s : State) (d : BitVec 512) (x : LayerEnt) (c : LayerAt) (j : Nat) : Bool :=
  (List.range (ruleBlocks x.k x.n).length).any fun i => (rootsFor s d x c i j).any fun r => r.result.isNone

/-- A LUE of the layer is condemned or retired (15 R449). -/
def luesGone (s : State) (p : LayerPl) : Bool := p.lues.any fun u => isCondemned s 4 u || !s.upd.lueMap.getLsbD u

/-- A fallback update's event, flag bit and status (R227, Table 8.4). -/
def raiseFallback (layer : Nat) (s : State) (f : Nat × Nat) : State :=
  let pay : W64 := at' 64 48 layer ||| at' 64 36 (f.1 % 4096) ||| at' 64 35 f.2 ||| (stepNo s).setWidth 64
  raise 0x30 pay { s with upd := { s.upd with precondFallback := true } }

/-- The command runs inside a step (R218): from the boundary edge of a step on, before its STEP_COMMIT completes, be it as aborted. -/
def insideStep (s : State) : Bool := match theStep s with | some o => !o.aborted | none => false

/-- Checks of UPDATE_LAYER (R218, R219). -/
def updateCheck (s : State) (_ : Ring) (c : Cmd) : Option Result :=
  let layer := bits c.desc.w2 63 48
  match layerEnt s layer, layerPl s layer with
  | some l, some p =>
    if !insideStep s || l.rule.isNone || p.owner ≠ myDevice s || !s.upd.gradGot.contains layer then some (descErr 0x09 2)
    else match ruleFor s (l.rule.getD 0) false (ouvutLayer s layer) with
      | .error e => some e
      | .ok d => if Rule.code d = 4 ∧ !p.factors then some (descErr 0x09 2) else none
  | _, _ => some (descErr 0x05 2)

/-- Bytes of a root status record (R473; log entry 119): whether the roots are valid, whether this update fell back, and the number of the
block's computations. -/
def rootStatus (valid fell : Bool) (token : Nat) : List Byte :=
  [BitVec.ofNat 8 (b2n valid), BitVec.ofNat 8 (b2n fell)] ++ List.replicate 6 0 ++ leBytes 8 token ++ List.replicate 48 0

/-- The factors, roots and root status of one block go into the staging copy (R236, R473), changed or as they were. -/
def putBlock (l : LayerEnt) (p : LayerPl) (x : LayerState) (s : State) (b : (Nat × Nat × Nat × Nat) × Nat) : State :=
  let r := b.1.2.1
  let c := b.1.2.2.2
  let old := blockFac p.now.fac l.k l.n b.2
  let new := blockFac p.next.fac l.k l.n b.2
  let valid := (SMap.find x.factors (4 * b.2 + 3)).isSome || rootsValid s l p.now b.2
  let record := rootStatus valid (x.failed.any fun f => f.1 == b.2) (rootToken s l p.now b.2)
  let s := [0, 1, 2, 3].foldl (fun s f =>
    let n := if f % 2 = 0 then r else c
    let bs := match SMap.find x.factors (4 * b.2 + f) with | some m => wordBytes m | none => devBytes s (old + factorOff r c f) (4 * n * n)
    devWrite (new + factorOff r c f) (padTo 64 bs) s) s
  devWrite (new + factorOff r c 4) record s

/-- Write an update into the layer's staging copy (R236). -/
def putLayer (l : LayerEnt) (p : LayerPl) (x : LayerState) (s : State) : State :=
  let s := putStrips p.next.s2 l.k x.s2 (putStrips p.next.s1 l.k x.s1 (putExts p.next.lo l.k x.lo (putStrips p.next.hi l.k x.hi s)))
  let s := devWrite p.next.rec_ (leBytes 4 x.count.toNat ++ wordBytes [x.p1, x.p2] ++ List.replicate 52 0) s
  if p.factors then (ruleBlocks l.k l.n).zipIdx.foldl (putBlock l p x) s else s

/-- A layer's update runs: its results are staged, its fallbacks raised, its digest kept, its vote taken (R219, R225, R236, R242,
Table 8.8). -/
def stageUpdate (r : Ring) (c : Cmd) (layer : Nat) (d : BitVec 512) (l : LayerEnt) (p : LayerPl) (s : State) : Phase × State :=
  let x := updateLayer s d (ouvutLayer s layer) l p
  let bad := x.nonfinite || anyBad (stripWords s p.grad l.k l.n)
  let s := putLayer l p x s
  let s := x.failed.foldl (raiseFallback layer) { s with upd := { s.upd with staged := insertNat layer s.upd.staged } }
  let s := formDigest 1 layer (Desc.micro c.desc) (cmdBeat s r c) (wordBytes x.hi) x.hi.length s
  let s := if bad then voteNonfinite (SMap.get s.upd.slotOf layer 0) s else s
  (.finished (mkResult stOk (if x.failed.isEmpty then 0 else flPrecond) 0 0), s)

/-- Poison in what an UPDATE_LAYER reads: gradient, active copy, and the factors of RULE 4 (07 R177). -/
def layerPoison (s : State) (d : BitVec 512) (l : LayerEnt) (p : LayerPl) : Bool :=
  stripPoison s p.grad l.k l.n || stripPoison s p.now.hi l.k l.n || devPoison s p.now.lo (l.n * roundUp 64 l.k) ||
    stripPoison s p.now.s1 l.k l.n || stripPoison s p.now.s2 l.k l.n || devPoison s p.now.rec_ 64 ||
    (Rule.code d == 4 && devPoison s p.now.fac ((ruleBlocks l.k l.n).foldl (fun n b => n + factorBytes b.2.1 b.2.2.2) 0))

/-- UPDATE_LAYER (R219, R236): the new masters and state are staged. -/
def updateBody (_q : Nat) (r : Ring) (c : Cmd) (s : State) : Phase × State :=
  let layer := bits c.desc.w2 63 48
  match layerEnt s layer, layerPl s layer with
  | some l, some p =>
    match ruleFor s (l.rule.getD 0) false (ouvutLayer s layer) with
    | .error e => (.finished e, s)
    | .ok d =>
      if luesGone s p then (.finished (stResult stFault), s)
      else if layerPoison s d l p then (.finished (stResult stPoisoned), s)
      else if Rule.code d = 4 ∧ rootsPending s d l p.now (leNat (devBytes s p.now.rec_ 4) + 1) then (.waiting, s)
      else stageUpdate r c layer d l p s
  | _, _ => (.finished okResult, s)

def execUpdateLayer (ring : Nat) (d : Desc) (s : State) : Host.Outcome State Fault Refusal :=
  .next (runCmd opUpdateLayer { check := updateCheck, body := updateBody } ring d s)

/-- The two copies of a committed layer exchange roles (R236). -/
def commitLayer (layer : Nat) (s : State) : State :=
  let swap (x : LayerPl) : LayerPl := if x.layer = layer then { x with now := x.next, next := x.now } else x
  { s with ple := { s.ple with placement := s.ple.placement.map fun p => { p with layers := p.layers.map swap } } }

/-- A number for root computations that no record carries. -/
def freshToken (s : State) : Nat := s.upd.roots.foldl (fun m p => max m (p.1 + 1)) 1

/-- The computations of one block that a commit of update `j` starts: at each K_INTERVAL, and after a fallback (R225, R227; log entry
70). Those used up go. -/
def startRoots (d : BitVec 512) (l : LayerEnt) (p : LayerPl) (j : Nat) (s : State) (b : (Nat × Nat × Nat × Nat) × Nat) : State :=
  let fell := (devBytes s (rootRecord l p.now b.2 + 1) 1).headD 0 != 0
  if !s.upd.rootsEn || !(j % Rule.kInterval d == 0 || fell) then s
  else
    let new : List Root := [0, 1].map fun f =>
      let n := if f = 0 then b.1.2.1 else b.1.2.2.2
      { factor := f, after := j, n := n, started := false, result := none
        input := devWords s (blockFac p.now.fac l.k l.n b.2 + factorOff b.1.2.1 b.1.2.2.2 f) (n * n) }
    let left := (blockRoots s l p.now b.2).filter fun r => decide (j < r.after + Rule.rootLag d)
    let t := freshToken s
    devWrite (rootRecord l p.now b.2 + 8) (leBytes 8 t) { s with upd := { s.upd with roots := SMap.put s.upd.roots t (left ++ new) } }

/-- The root computations that the commit of a layer's update starts (R225, R227). -/
def commitRoots (layer : Nat) (s : State) : State :=
  match layerEnt s layer, layerPl s layer with
  | some l, some p =>
    match ruleFor s (l.rule.getD 0) false (ouvutLayer s layer) with
    | .error _ => s
    | .ok d =>
      if Rule.code d ≠ 4 ∨ !p.factors then s
      else (ruleBlocks l.k l.n).zipIdx.foldl (startRoots d l p (leNat (devBytes s p.now.rec_ 4))) s
  | _, _ => s

/-- The root computation that a command names, with its block's number: the oldest one of its factor without a result. -/
def rootAt (s : State) (layer block factor : Nat) : Option (Nat × Root) :=
  match layerEnt s layer, layerPl s layer with
  | some l, some p =>
    if p.factors && decide (block < (ruleBlocks l.k l.n).length) then
      ((blockRoots s l p.now block).find? fun r => r.factor == factor && r.result.isNone).map fun r => (rootToken s l p.now block, r)
    else none
  | _, _ => none

/-- Change the root computations of a number. -/
def setRoots (t : Nat) (f : List Root → List Root) (s : State) : State :=
  { s with upd := { s.upd with roots := SMap.put s.upd.roots t (f (SMap.get s.upd.roots t [])) } }

/-- ROOT_COMPUTE_START (R225): the LUE takes up the computation that a commit made due; with ROOTS_EN 0 it does not start. -/
def execRootComputeStart (layer block factor : Nat) (s : State) : Host.Outcome State Fault Refusal :=
  .next (match rootAt s layer block factor with
    | none => s
    | some (t, r) =>
      if !alive s || r.started then s
      else if s.upd.rootsEn then setRoots t (fun l => l.map fun x => if x == r then { x with started := true } else x) s
      else setRoots t (fun l => l.filter fun x => !(x == r)) s)

/-- The rule a layer names, by the last snapshot. -/
def layerRule (s : State) (layer : Nat) : Option (BitVec 512) :=
  (layerEnt s layer).bind fun l => l.rule.bind fun rid => (SMap.find s.upd.rules rid).bind fun x => x

/-- ROOT_COMPUTE_DONE (R226, R227). -/
def execRootComputeDone (layer block factor : Nat) (s : State) : Host.Outcome State Fault Refusal :=
  .next (match rootAt s layer block factor, layerRule s layer with
    | some (t, r), some d =>
      if !alive s || !r.started then s
      else
        let res := (inverseRoot d r.n (chunks r.n r.input)).map List.flatten
        setRoots t (fun l => l.map fun x => if x == r then { x with result := some res } else x) s
    | _, _ => s)

/-- Byte `x` of the state area of a row's page group (R181, R229). -/
def stateAddr (e : DirEnt) (x : Nat) : Nat := e.page + (1 + x / 4096) * (if e.far then 0x40000 else 0x1000) + x % 4096

/-- Lines of a row's first moment in the state area (R229). -/
def momentLines (b : Tab) (e : DirEnt) (r : Nat) : List Nat :=
  let off := roundUp 64 (4 * b.pl.rowsPerPage) + b.place r * b.accStride
  (List.range (b.accStride / 64)).map fun i => stateAddr e (off + 64 * i)

/-- What a row rule gives (R230): new row, scalar and first moment. -/
def rowRule (d : BitVec 512) (sv : SchedVal) (w acc m : List F32) (scalar : F32) : List F32 × F32 × List F32 :=
  let lr := fmul sv.lr (Rule.lrMult d)
  let wd := fmul sv.wd (Rule.wdMult d)
  let a := (acc.zip w).map fun p => ffma wd p.2 (fmul p.1 sv.invLs)
  let mean := fdiv (lsum (a.map fun v => fmul v v)) (fOfNat w.length)
  match Rule.code d with
  | 8 => ((a.zip w).map fun p => ffma (fneg lr) p.1 p.2, scalar, m)
  | 9 =>
    let g := fadd scalar mean
    let s := fdiv lr (fadd (fsqrt g) (Rule.eps d))
    ((a.zip w).map fun p => ffma (fneg s) p.1 p.2, g, m)
  | _ =>
    let m := (m.zip a).map fun p => ffma sv.mu p.1 (fmul (fsub fOne sv.mu) p.2)
    let v := ffma (Rule.beta2 d) scalar (fmul (fsub fOne (Rule.beta2 d)) mean)
    let s := fdiv lr (fadd (fsqrt v) (Rule.eps d))
    ((m.zip w).map fun p => ffma (fneg s) p.1 p.2, v, m)

/-- Rounding of a new row's elements (R232). -/
def rowRnd (s : State) (b : Tab) (sr ouvut : Bool) (row k : Nat) : Rnd :=
  if sr && !ouvut then .stoch ((sprinkle (seedNow s) b.id (row * b.d + k) (stepNo s).toNat 0 0 0).toNat % 65536) else .near

/-- A new row in the table's form (R232): its strip, its raisin slots with their addresses, and its elements for counting. A slot that reads
as poisoned holds other rows' raisins too: a write of this row's part leaves it so (07 R177). -/
def rowConvert (s : State) (b : Tab) (sr ouvut : Bool) (row : Nat) (xs : List F32) : EncRow × List (Nat × List Byte) :=
  let sz := (tabSource s b).sz row
  let e := encodeRow b.form (Recipe.ieee (recipeAt s b.recipe) || ouvut) sz.1 sz.2 (rowRnd s b sr ouvut row) ((fvs xs).map some)
  let e := if ouvut && b.form.fmt = 1 then e.flush else e
  let esc := escapesOf b.d [] [(row, e)]
  let lo := row * b.d
  let hi := lo + b.d
  let gs := if escapable b.form.fmt.toNat && 0 < b.d then (List.range ((hi - 1) / 4096 + 1 - lo / 4096)).map fun i => lo / 4096 + i else []
  let n := slotBytes b.form.cap
  let fill := (gs.filter fun g => !(viewBytes s (fun _ => true) (b.pl.raisin + g * n) n).2).map fun g =>
    (g, fillSlot b.form.cap g lo hi (viewBytes s (fun _ => true) (b.pl.raisin + g * n) n).1 (esc.filter fun p => p.1 / 4096 == g))
  let lost := fill.flatMap fun p => p.2.1
  ({ e with elems := e.elems.zipIdx.map fun q => if lost.contains (lo + q.2) then surplusEnc b.form (b.form.scaler sz.1 sz.2) q.1 else q.1 },
   fill.map fun p => (b.pl.raisin + p.1 * n, p.2.2))

/-- Repeats of a row's conversion that overflows its raisins at a rung: each converts the same values into the weight format of the next
wider rung, which overflows in turn where a group has more escapes than that format keeps (05 R149; log entry 67). -/
def rowRepeats (s : State) (b : Tab) (sr ouvut : Bool) (row : Nat) (xs : List F32) : Nat → Nat → Nat
  | 0, _ => 0
  | fuel + 1, rung =>
    if 4 ≤ rung then 0
    else
      let f := roleForm (recipeAt s b.recipe) (rung + 1) 1
      let e := encodeRow f (Recipe.ieee (recipeAt s b.recipe)) fOne 0 (rowRnd s b sr ouvut row) ((fvs xs).map some)
      let esc := escapesOf b.d [] [(row, e)]
      1 + if esc.any fun p => decide (f.cap < (esc.filter fun q => q.1 / 4096 == p.1 / 4096).length) then
          rowRepeats s b sr ouvut row xs fuel (rung + 1) else 0

/-- The records, event and flags of the repeats of a row's conversion in a unit (05 R150). -/
def noteRepeats (b : Tab) (unit rung n : Nat) (s : State) : State :=
  (List.range n).foldl (fun s i =>
    let pay := repeatPayload b.pl.statsId b.recipe 0x1FF (rung + i) (rung + i + 1) 4 0
    raise 0x21 pay (updStat (statKey b.pl.statsId 1 unit) b.recipe rung (StatRec.repeat (rung + i + 1 == 4)) s)) s

/-- A table's rows as a conversion writes them, for the scale adaptation (05 R143, R144). -/
def Tab.loc (b : Tab) : Loc :=
  { tensor := b.id, form := b.form, k := b.d, dpa := 0, raisin := b.pl.raisin, outlier := 0, ext := 0, book := 0, stride := 0
    rpp := 0, scale := 0, entries := 0, sliceRows := 0, key := 0 }

/-- Count a row's conversion as the unit's own and observe it for its scale (R232, 05 R131, R144). -/
def countRow (s0 : State) (b : Tab) (unit row : Nat) (e : EncRow) (s : State) : State :=
  let sz := (tabSource s0 b).sz row
  let key := statKey b.pl.statsId 1 unit
  let rung := (steerOf s0 b.recipe).rung.toNat
  e.elems.zipIdx.foldl (fun s q =>
    let s := updStat key b.recipe rung (StatRec.elem q.1 (refExp b.form e sz q.2)) s
    let s := observe b.loc 0 q.1.x s
    if q.1.flag || encNonfinite b.form e.scales q.2 q.1 then updStat key b.recipe rung (StatRec.flag 0) s else s) s

/-- The unit that updates a row, as LAYER_STATS numbers it, and as the report's staging logs do (R193, 05 R131; 10 R298). -/
def rowUnit (e : DirEnt) : Nat := if e.far then 0x900 + (e.page - farBase) / 4096 % 64 / 4 else 0x400 + e.home
def logUnit (e : DirEnt) : Nat := if e.far then 0x1000 + (e.page - farBase) / 4096 % 64 else 0x400 + e.home

/-- What a row's update met: poison, a value that is not finite, and the repeats of its conversion. -/
structure RowOut where
  poisoned : Bool
  nonfinite : Bool
  repeats : Nat

/-- One row of a ROW_UPDATE (R193, R194, R230); the rule takes 4 slots of the exact lane for an element, 16 elements in a cycle (07 Table 7.5,
R208). DESIGN CHOICE: of the pages of its group an entry counts for the row page's hotness alone, as other entries do (07 R186; log entry
149). -/
def updateRow (d : BitVec 512) (ouvut : Bool) (b : Tab) (e : DirEnt) (row : Nat) (s : State) : RowOut × State :=
  let s := heatRow b false row (writeBackRow b.id row s)
  let a := e.page + b.place row * b.form.stripBytes b.d
  let acc := e.acc + b.place row * b.accStride
  let scal := stateAddr e (4 * b.place row)
  let lines := if Rule.code d = 10 then momentLines b e row else []
  let s := lines.foldl (fun s l => touch l 64 s) (touch acc (4 * b.d) (touch a (b.form.stripBytes b.d) s))
  let s := if Rule.code d = 8 then s else touch scal 4 s
  let w := tabRow s b row
  let bad := w.2 || devPoison s acc (4 * b.d) || (Rule.code d != 8 && devPoison s scal 4) || lines.any fun l => devPoison s l 64
  let clear (s : State) : State := devWrite acc (List.replicate b.accStride 0) s
  if bad then ({ poisoned := true, nonfinite := false, repeats := 0 }, clear s)
  else
    let accv := devWords s acc b.d
    let m := ((lines.flatMap fun l => devWords s l 16).take b.d)
    let out := rowRule d (schedVals s (Rule.sched d)) w.1 accv m (devF32 s scal)
    let c := rowConvert s b (Rule.srRows d) ouvut row out.1
    let rung := (steerOf s b.recipe).rung.toNat
    let n := if c.1.elems.any fun x => x.out == .surplus then rowRepeats s b (Rule.srRows d) ouvut row out.1 4 rung else 0
    let mb := chunks 64 (padTo 64 (wordBytes out.2.2))
    let writes := [(a, packStrip b.form c.1.scales (c.1.elems.map (·.code)))] ++ c.2 ++
      (if Rule.code d = 8 then [] else [(scal, leBytes 4 out.2.1.toNat)]) ++ lines.zip mb
    let ent : LogEntry := { table := b.id, row := row, unit := logUnit e, writes := writes, slot := b.slot, committed := false }
    let log := (s.mem.log.filter fun x => !(x.table == b.id && x.row == row && !x.committed)) ++ [ent]
    let nf := anyBad accv || anyBad out.1 || anyBad out.2.2 || (Rule.code d != 8 && anyBad [out.2.1])
    let s := if e.far then s else count (nbeCtr e.home 3) (4 * b.d) s
    let s1 := countRow s b (rowUnit e) row c.1 (count (if e.far then farCtr ((e.page - farBase) / 4096 % 64 / 4) 3 else nbeCtr e.home 5) 1 s)
    let s1 := noteRepeats b (rowUnit e) rung n s1
    ({ poisoned := false, nonfinite := nf, repeats := n }, clear { s1 with mem := { s1.mem with log := log } })

/-- Checks of ROW_UPDATE (R218, R247). -/
def rowCheck (s : State) (r : Ring) (c : Cmd) : Option Result :=
  let d := c.desc
  match operandCheck s d [3] [] [] with
  | some e => some e
  | none =>
    match tabOf s (bits d.w2 63 40) with
    | none => some (descErr 0x05 2)
    | some b =>
      if !insideStep s then some (descErr 0x09 2)
      else if ouvutStage s r.stage.toNat && decide (1 < b.form.fmt.toNat) then some (descErr 0x09 2)
      else if !plainOperand s (operand d.w3) (cmdBeat s r c) 0 then some (descErr 0x09 3)
      else
        match b.rule with
        | none => some (descErr 0x09 2)
        | some id => match ruleFor s id true (ouvutStage s r.stage.toNat) with
          | .error e => some e
          | .ok _ => none

/-- Distinct rows of a list that this device owns, in the order of their first entries (R231). -/
def ownRows (s : State) (b : Tab) (items : List ListItem) : List Nat :=
  items.foldl (fun m i => match i.row with | some r => if m.contains r || (b.dir s r).isNone then m else m ++ [r] | none => m) []

/-- A staging log of a table has no room for its rows among some (R193): what it holds of other rows, and these. -/
def logFull (s : State) (b : Tab) (rows : List Nat) : Bool :=
  let one := b.form.stripBytes b.d + stateStride s b.rule b.d
  let units := rows.filterMap fun r => (b.dir s r).map logUnit
  b.pl.logs.any fun l =>
    let held := s.mem.log.filter fun e => e.table == b.id && e.unit == l.1 && !rows.contains e.row
    let new := units.filter fun u => u == l.1
    !new.isEmpty && decide (l.2.2 < (held.length + new.length) * one)

/-- One row of a ROW_UPDATE. -/
def rowStep (d : BitVec 512) (ouvut : Bool) (b : Tab) (acc : RowOut × State) (row : Nat) : RowOut × State :=
  match b.dir acc.2 row with
  | none => acc
  | some e =>
    let u := updateRow d ouvut b e row acc.2
    ({ poisoned := acc.1.poisoned || u.1.poisoned, nonfinite := acc.1.nonfinite || u.1.nonfinite, repeats := acc.1.repeats + u.1.repeats }, u.2)

/-- The rows of a ROW_UPDATE are updated into the staging logs, digested and voted on (R193, R231, R242, Table 8.8); `items` holds the list
of each replica. -/
def rowRun (r : Ring) (c : Cmd) (d : BitVec 512) (b : Tab) (items : List (List ListItem)) (s : State) : Phase × State :=
  let rows := ownRows s b items.flatten
  let out := rows.foldl (rowStep d (ouvutStage s r.stage.toNat) b) ({ poisoned := false, nonfinite := false, repeats := 0 }, s)
  let s := items.zipIdx.foldl (fun s p => countBad r.stage.toNat p.2 p.1 s) out.2
  let mine := s.mem.log.filter fun e => e.table == b.id && !e.committed && rows.contains e.row
  let s := formDigest 1 b.id (Desc.micro c.desc) (cmdBeat s r c) (mine.flatMap fun e => e.writes.flatMap (·.2)) (mine.length * b.d) s
  let s := if out.1.nonfinite then voteNonfinite b.slot s else s
  (.finished (mkResult (if out.1.poisoned then stPoisoned else stOk) (if items.any fun l => l.any (·.bad) then flBadIndex else 0) out.1.repeats 0), s)

/-- The row list of a ROW_UPDATE on a replica: a row list of one bag whose every entry counts (R231). -/
def rowItems (s : State) (r : Ring) (c : Cmd) (b : Tab) (rep : Nat) : List ListItem :=
  readList s (operand c.desc.w3) none (cmdBeat s r c) rep b.rows (listLength s (operand c.desc.w3) + 1)

/-- ROW_UPDATE (R193, R231). -/
def rowBody (_q : Nat) (r : Ring) (c : Cmd) (s : State) : Phase × State :=
  let dsc := c.desc
  let beat := cmdBeat s r c
  let list := operand dsc.w3
  match tabOf s (bits dsc.w2 63 40) with
  | none => (.finished okResult, s)
  | some b =>
    match ruleFor s (b.rule.getD 0) true (ouvutStage s r.stage.toNat) with
    | .error e => (.finished e, s)
    | .ok d =>
      let reps := List.range (stageReplicas s r.stage.toNat)
      let items := reps.map (rowItems s r c b)
      if unitsGone s r.stage.toNat [list] beat then (.finished (stResult stFault), s)
      else if reps.any fun rep => listPoison s list 8 beat rep (listLength s list) then (.finished (stResult stPoisoned), s)
      else if logFull s b (ownRows s b items.flatten) then (.waiting, s)
      else rowRun r c d b items (reps.foldl (fun s rep => touchList list 8 beat rep (listLength s list) s) s)

def execRowUpdate (ring : Nat) (d : Desc) (s : State) : Host.Outcome State Fault Refusal :=
  .next (runCmd opRowUpdate { check := rowCheck, body := rowBody } ring d s)

end Sys2Proof.Machine
end

