-- ==== Sys2Proof/Machine/Steps.lean ====
section
/-!
DEFINITION. The life of a training step (01 R20-R28, 08 R236-R245, 09 R282-R284): the step boundary, the device's vote frame and
its combination, STEP_BEGIN, VOTE, STEP_COMMIT and the commit edge, RECORD_STEP and REPLAY.
-/
namespace Sys2Proof.Machine

/-- Stream exponent from the mean of a window (07 R202): the least k with 1 / m at most 2^k is ceil(log2(1 / m)). -/
def streamExp (p : Nat) (x : StreamState) : Nat :=
  let k := ((List.range 11).find? fun k => decide (x.closedN * 2 ^ 300 ≤ x.closedSum * 2 ^ k)).getD 11
  max 4 (min 10 (p + k))

/-- Stream lengths adapt at a step boundary (07 R202, 01 R20 item 4); a window serves once. -/
def adaptStreams (s : State) : State :=
  let one (t : Nat) (x : StreamState) : StreamState :=
    if x.closedN = 0 then { x with closedSum := 0 }
    else
      let p := match tabOf s t with | some b => Recipe.precBits (recipeAt s b.recipe) | none => 0
      { x with
        l := if s.act.streamAdapt && x.closedSum != 0 then streamExp p x else x.l
        last := fdiv (rne (.fin false x.closedSum (-300))) (fOfNat x.closedN), closedSum := 0, closedN := 0 }
  { s with mem := { s.mem with streams := s.mem.streams.map fun p => (p.1, one p.1 p.2) } }

/-- Agreement groups whose safe point is a step boundary (12 Table 12.8). DESIGN CHOICE: no rule orders them among each other or against the
items of 01 R20; the model applies them before item 1, in ascending group (log entry 139). -/
def boundaryGroups (s : State) : State :=
  [2, 3, 4, 6].foldl (fun s g => if groupPending s g then applyGroup g s else s) s

/-- The step boundary of step `n` (01 R20): a pending recipe goes before a decision on it (05 R130). A replayed step keeps the schedule values of its record (08 R244). -/
def boundary (n : W64) (s : State) : State :=
  let s := replaceNow (boundaryGroups s)
  let s := adaptScales (applyShadow (applyDecisions (applyRecipes (some (n.setWidth 32)) s)))
  let s := adaptStreams { s with upd := { s.upd with passed := true } }
  let vals := s.upd.schedVal
  let s := runSchedules n.toNat s
  let s := if s.upd.replay.isSome then { s with upd := { s.upd with schedVal := vals } } else s
  snapshotRules s

/-- The step number that UPD_LAST_STEP reads while no step has run (01 R22). -/
def noStep : W64 := 0xFFFFFFFFFFFFFFFF#64

/-- A STEP_BEGIN may name step `n` now (01 R21, R22); after REPLAY only the recorded step (08 R244). -/
def stepNumberOk (s : State) (n : W64) : Bool :=
  if s.upd.lastStep = noStep && s.upd.replay.isNone then n != noStep else n == s.upd.lastStep + 1

/-- The STEP_BEGIN whose boundary falls at the edge that starts beat `b`: the first one fetched for that beat (01 R20). -/
def boundaryDue (s : State) (b : Nat) : Option Cmd :=
  let cs := s.qsu.rings.flatMap fun p =>
    if p.2.stageRing && ringRuns p.2 then
      p.2.cmds.filter fun c => Desc.opcode c.desc == opStepBegin && c.phase == .waiting && c.beat == b &&
        (headerCheck p.2.stageRing p.2.context.toNat p.2.stage.toNat c.desc).isNone
    else []
  if s.upd.step.isSome then none
  else (sortBy (fun a b => decide (a.order ≤ b.order)) cs).find? fun c => stepNumberOk s c.desc.w2

/-- Bytes of the recipe table and of the rule table (05 R127, 08 R217). -/
def recipeTable (s : State) : List Byte := (List.range 16384).flatMap fun i => leBytes 64 (recipeAt s i).toNat
def ruleTable (s : State) : List Byte := devBytes s s.act.ruleBase.toNat (16384 * 64)

/-- The codes of a layer's scale table where it is valid (09 R270; log entry 46). -/
def wireCodes (s : State) (p : LayerPl) : List Byte :=
  match layerEnt s p.layer with
  | some x => if Memory.get s.mem.cells (p.wire + 4) = 1 then devBytes s (p.wire + 64) (ceilDiv (x.k * x.n) 32) else []
  | none => []

/-- CRC-32C of the valid WIRE8 scale tables, in ascending layer. -/
def wireCrc (s : State) : W32 :=
  crc32c ((match s.ple.placement with | some p => p.layers | none => []).flatMap (wireCodes s))

/-- Placed tensors in scale order (10 R301). -/
def scaleOrder (s : State) : List TensorPl :=
  let ts := match s.ple.placement with | some p => p.tensors | none => []
  (sortBy (fun a b => decide (a.scale ≤ b.scale)) ts).filter fun t => [3, 4].contains (tensorForm s t.tensor).mode

/-- Tensors with an amax history, in scale order. -/
def amaxOrder (s : State) : List TensorPl := ((scaleOrder s).filter fun t => (tensorForm s t.tensor).mode == 3).take 2048

/-- Entries of the scale region that a tensor has. -/
def scaleCount (t : TensorPl) : Nat := t.entries

/-- Position of each stage ring at the start of a step in beat `b` (08 Table 8.9). -/
def ringSection (s : State) (b : Nat) : List W64 :=
  let rs := s.qsu.rings.filter fun p => p.2.stageRing && ringRuns p.2
  (rs.take 4096).flatMap fun p =>
    let first : W32 := match p.2.cmds.find? fun c => decide (b ≤ c.beat) with | some c => c.index | none => p.2.head
    [at' 64 44 p.1 ||| at' 64 32 p.2.stage.toNat ||| first.setWidth 64, p.2.baseBeat]

/-- The last sixteen values of an amax history, oldest first, filled up in front with zeros. -/
def amaxBytes (s : State) (t : Nat) : List Byte :=
  let h := SMap.get s.prc.amax t []
  wordBytes (List.replicate (16 - h.length) fZero ++ h.drop (h.length - 16))

/-- The tables of a placement in ascending ID. -/
def placedTables (s : State) : List TablePl := match s.ple.placement with | some p => p.tables | none => []

/-- The schedule value section: 16 bytes for each schedule, as UPD_SCHED_VALn (08 Table 8.9). -/
def schedBytes (s : State) : List Byte := (List.range 64).flatMap fun i => leBytes 16 (SMap.get s.upd.schedVal i 0).toNat

/-- The scale table section. -/
def scaleBytes (s : State) : List Byte := (scaleOrder s).flatMap fun t => devBytes s t.scale (8 * scaleCount t)

/-- The seed that the next STEP_BEGIN latches (03 R94, 08 R244). -/
def nextSeed (s : State) : W64 := if s.upd.replay.isSome then s.upd.replaySeed else s.act.seed

/-- The replay record header as it stands at the start of step `n` (08 Table 8.10). -/
def recordHeader (s : State) (n : W64) : List W64 :=
  let words (bs : List Byte) : List W64 := (chunks 8 bs).map fun b => BitVec.ofNat 64 (leNat b)
  let w14 : W64 := at' 64 48 (s.upd.positions.length / 2) ||| at' 64 32 (placedTables s).length ||| at' 64 16 (amaxOrder s).length
  [0x5354455000010000#64, n, match s.ple.placement with | some p => p.id | none => 0, nextSeed s,
    at' 64 32 s.store.epoch.toNat ||| s.glb.fwVersion.setWidth 64] ++ words (sha256 (recipeTable s)) ++ words (sha256 (ruleTable s)) ++
    [(wireCrc s).setWidth 64, w14, at' 64 32 ((scaleBytes s).length / 8) ||| at' 64 9 (b2n (s.act.votePolicy == 1))] ++
    List.replicate 496 0

/-- The start sections of a replay record (08 R242, Table 8.9). -/
def recordStart (a : Nat) (n : W64) (s : State) : State :=
  let s := hostWrite s a (List.replicate (2 ^ 20) 0)
  let s := hostWrite s a (wordsBytes (recordHeader s n))
  let s := hostWrite s (a + 0x1000) (wordsBytes s.upd.positions)
  let s := hostWrite s (a + 0x11000) (wordsBytes ((List.range 16384).map fun i => steerWord (steerOf s i)))
  let s := hostWrite s (a + 0x39000) (schedBytes s)
  let s := hostWrite s (a + 0x3A000) (wordsBytes (((placedTables s).take 4096).map fun t => streamWord s t.table))
  let s := hostWrite s (a + 0x42000) ((amaxOrder s).flatMap fun t => amaxBytes s t.tensor)
  hostWrite s (a + 0x62000) ((scaleBytes s).take 0x80000)

/-- A boundary with the ring positions of its step, which starts in beat `b`. -/
def boundaryIn (b : Nat) (n : W64) (s : State) : State :=
  let s := boundary n s
  { s with upd := { s.upd with positions := ringSection s b } }

/-- A step that a command opens (01 R21): nothing has voted yet but for a unit retired after the last frame was frozen (01 R28). -/
def newStep (r : Ring) (c : Cmd) (s : State) : OpenStep :=
  { num := c.desc.w2, graph := (graphOfStage s r.stage.toNat).getD 0, votePending := false, frozen := false
    stepBit := s.upd.nextFault, slotBits := 0, skipped := false, precision := false, fixed := false, decided := false
    recording := s.upd.recStart.or s.upd.armed, replaying := s.upd.replay, mismatch := false, digests := [], errCrc := 0xFFFFFFFF#32
    layersSeen := [], slotsSeen := [], aborted := false }

/-- The ring that holds a command. -/
def ringHolding (s : State) (c : Cmd) : Ring :=
  match s.qsu.rings.find? fun p => p.2.cmds.any fun x => x.order == c.order with | some p => p.2 | none => resetRing

/-- The step boundary at the edge that starts beat `b`, if a STEP_BEGIN has been fetched for it; a recorded step writes its start
sections (08 R242). -/
def boundaryAt (b : Nat) (s : State) : State :=
  match boundaryDue s b with
  | some c =>
    let s := boundaryIn b c.desc.w2 s
    let s := { s with upd := { s.upd with boundary := some c.order, recStart := s.upd.armed, armed := none } }
    let s := { s with upd := { s.upd with opening := some (newStep (ringHolding s c) c s) } }
    match s.upd.recStart with
    | some a => recordStart a.toNat c.desc.w2 s
    | none => s
  | none => s

/-- LAST_ACTION of a recipe as the coming boundary leaves it: a pending SET_RECIPE goes before a decision (05 R130). -/
def decisionCode (s : State) (i : Nat) : BitVec 4 :=
  let act := match SMap.find s.prc.decided i with | some d => d.action | none => (steerOf s i).action
  if (SMap.find s.prc.recipeNext i).isNone then act
  else if (SMap.find s.prc.decided i).isSome && decide (1 ≤ act.toNat) && decide (act.toNat ≤ 3) then 5 else 4

/-- The result sections, the header's last (08 R242). DESIGN CHOICE: they hold the decisions as the commit finds them; a SET_RECIPE that
completes after the commit edge overrides one at the boundary, and its record keeps the code written here (05 R130; log entry 142). -/
def recordEnd (a : Nat) (o : OpenStep) (f : VoteFrame) (discarded : Bool) (slots : BitVec 16384) (s : State) : State :=
  let dec (i : Nat) : List Byte :=
    let act := decisionCode s i
    leBytes 2 (512 * b2n (f.promote.getLsbD i) + 256 * b2n (f.clean.getLsbD i && f.active.getLsbD i) + act.toNat)
  let s := hostWrite s (a + 0x31000) ((List.range 16384).flatMap dec)
  let s := hostWrite s (a + 0xE2000) (o.digests.take 3840).flatten
  let s := hostWrite s (a + 8 * 13 + 4) (leBytes 4 (o.errCrc ^^^ 0xFFFFFFFF#32).toNat)
  let s := hostWrite s (a + 8 * 14) (leBytes 2 (min 3840 o.digests.length))
  let s := hostWrite s (a + 8 * 15 + 1) (leBytes 1 (2 * b2n (s.act.votePolicy == 1) + b2n f.stepBit))
  let s := hostWrite s (a + 8 * 16) (leBytes 2048 f.slots.toNat)
  hostWrite s a (leBytes 1 (4 * b2n (slots != 0) + 2 * b2n discarded + 1))

/-- A step that is recorded writes the start sections where its boundary has not, and the seed it latches (08 R242). -/
def openRecord (o : OpenStep) (s : State) : State :=
  match s.upd.recStart, o.recording with
  | some a, _ => hostWrite s (a.toNat + 24) (leBytes 8 (nextSeed s).toNat)
  | none, some a => recordStart a.toNat o.num s
  | none, none => s

/-- A step that is replayed compares its wire scales (08 R244). -/
def openReplay (o : OpenStep) (s : State) : State :=
  match o.replaying with
  | some a => if hostNat s (a.toNat + 8 * 13) 4 ≠ (wireCrc s).toNat then replayDiffers 5 0 s else s
  | none => s

/-- STEP_BEGIN opens its step (01 R21, R22, 03 R94): the seed is latched, recording or a replay starts. What commands of the step have given
since its boundary edge stands. -/
def openStep (r : Ring) (c : Cmd) (s : State) : State :=
  let o := match (if s.upd.boundary = some c.order then s.upd.opening else none) with
    | some o => { o with recording := s.upd.recStart.or s.upd.armed, replaying := s.upd.replay }
    | none => newStep r c s
  let status : W64 := if s.upd.replay.isSome then at' 64 32 (c.desc.w2.toNat % 2 ^ 32) else s.upd.replayStatus
  let s := openRecord o s
  openReplay o { s with upd := { s.upd with
      step := some o, nextFault := false, seed := some (nextSeed s), stepCount := c.desc.w2, armed := none, recStart := none, replay := none
      boundary := none, opening := none, replayStatus := status } }

/-- Check of STEP_BEGIN (01 R21): it waits while a step is open. -/
def stepBeginCheck (s : State) (_ : Ring) (c : Cmd) : Option Result :=
  if s.upd.step.isNone && !stepNumberOk s c.desc.w2 then some (descErr 0x09 2) else none

/-- STEP_BEGIN (01 R20-R22); its boundary has been applied at the edge, or is applied now. -/
def stepBeginBody (_q : Nat) (r : Ring) (c : Cmd) (s : State) : Phase × State :=
  if s.upd.step.isSome then (.waiting, s)
  else
    let s := if s.upd.boundary = some c.order then s else boundaryIn c.beat c.desc.w2 s
    (.finished okResult, openStep r c s)

def execStepBegin (ring : Nat) (d : Desc) (s : State) : Host.Outcome State Fault Refusal :=
  .next (runCmd opStepBegin { check := stepBeginCheck, body := stepBeginBody } ring d s)

/-- Lattice dimensions that the domain spans (09 R257, R258, 02 R43). -/
def domainDims (s : State) : List Nat := ([0, 1, 2].filter fun k => decide (1 < latSize s k)).take s.act.tick.dims.toNat

/-- Coordinates of the peers in a dimension. -/
def peersIn (s : State) (k : Nat) : List Nat := (List.range (latSize s k)).filter fun y => y != latCoord s k

/-- Combine two vote frames (09 R283, Table 9.8). -/
def combineFrames (a b : VoteFrame) : VoteFrame :=
  { step := if a.step.toNat ≤ b.step.toNat then a.step else b.step, domainId := a.domainId
    mismatch := a.mismatch || b.mismatch || a.step != b.step || a.domainId != b.domainId
    policyAnd := a.policyAnd && b.policyAnd, policyOr := a.policyOr || b.policyOr, stepBit := a.stepBit || b.stepBit
    promote := a.promote ||| b.promote, clean := a.clean &&& b.clean, active := a.active ||| b.active, slots := a.slots ||| b.slots }

/-- Frames received in a dimension. -/
def framesIn (s : State) (k : Nat) : List VoteFrame := (s.fab.frames.filter fun f => f.1 == k).map fun f => f.2.2

/-- The device's frame combined over the first `n` rounds (09 R283). -/
def combinedFrame (s : State) (own : VoteFrame) (n : Nat) : VoteFrame :=
  ((domainDims s).take n).foldl (fun f k => (framesIn s k).foldl combineFrames f) own

/-- The bytes of 16,384 bits, bit i in bit i mod 8 of byte floor(i / 8). -/
def bitBytes (x : BitVec 16384) : List Byte := leBytes 2048 x.toNat

/-- The body of a vote frame (09 Table 9.8). -/
def frameBody (f : VoteFrame) : List Byte :=
  leBytes 64 (b2n f.stepBit + 2 * b2n f.policyOr + 4 * b2n f.policyAnd + 8 * b2n f.mismatch + 2 ^ 16 * f.domainId.toNat) ++
    bitBytes f.promote ++ bitBytes f.clean ++ bitBytes f.active ++ bitBytes f.slots

/-- A vote frame as a message of KIND 4 on VC0 (09 R282, Table 9.5). -/
def frameMessage (s : State) (k y : Nat) (f : VoteFrame) (cmd : W32) : Message :=
  { ownMessage s 4 noGroup (peerDevice s k y) 0 0 cmd 0 0 (frameBody f) with step := f.step.setWidth 32 }

/-- Send a frame to every peer of a dimension: a message each, with the CMD of the step's vote (09 R282, R283, Table 9.5). -/
def sendFrame (k : Nat) (f : VoteFrame) (s : State) : State :=
  (peersIn s k).foldl (fun s y =>
    let o := takeOrder s
    sendPeer o.1 k y (frameMessage s k y f s.fab.frameCmd) o.2) s

/-- The step bit counts as set in a final frame (09 R283, 08 R239). -/
def finalBit (f : VoteFrame) : Bool := f.stepBit || f.mismatch || f.policyAnd != f.policyOr

/-- The combined result is present: mismatches are shown (09 R283, 08 R239). -/
def takeFinal (f : VoteFrame) (s : State) : State :=
  { s with fab := { s.fab with final := some f, voteMismatch := s.fab.voteMismatch || f.mismatch }
           upd := { s.upd with policyMismatch := s.upd.policyMismatch || f.policyAnd != f.policyOr } }

/-- Steering takes the result once it is present and fixed (05 R137, 09 R284). -/
def settleVote (s : State) : State :=
  match s.upd.step, s.fab.final with
  | some o, some f =>
    if o.fixed && !o.decided then
      let s := { s with upd := { s.upd with step := some { o with decided := true } } }
      fixDecisions f s
    else s
  | _, _ => s

/-- Start every round whose frames are all here (09 R283). -/
def advanceVote : Nat → State → State
  | 0, s => s
  | fuel + 1, s =>
    match s.fab.frame with
    | none => s
    | some own =>
      if s.fab.final.isSome then s
      else
        match (domainDims s).drop s.fab.round with
        | [] => settleVote (takeFinal (combinedFrame s own s.fab.round) s)
        | k :: rest =>
          if (peersIn s k).all fun y => s.fab.frames.any fun f => f.1 == k && f.2.1 == y then
            let s := { s with fab := { s.fab with round := s.fab.round + 1 } }
            let s := match rest with | k' :: _ => sendFrame k' (combinedFrame s own s.fab.round) s | [] => s
            advanceVote fuel s
          else s

/-- A statistics key belongs to a graph: its layer is a layer of the image, or the statistics ID of one of its tables. -/
def inGraph (s : State) (g : Nat) (key : Nat) : Bool :=
  let id := key / 16384
  match s.ple.placement.bind fun p => SMap.find p.images g with
  | some im => (im.layers.any fun l => l.layer == id) ||
      (placedTables s).any fun t => t.statsId == id && im.tensors.any fun x => x.tensor == t.table
  | none => false

/-- The device's frame is frozen at the guard band (01 R23, 05 R133, 09 R282, 08 Table 8.8). -/
def freezeFrame (o : OpenStep) (s : State) : State :=
  let s := closeWindow o.num s
  let b := precisionBits s
  let perLayer := s.act.votePolicy == 1
  let nonfinite := !perLayer && s.prc.closing.any fun p => p.2.flags.getLsbD 0 && inGraph s o.graph p.1
  let f : VoteFrame :=
    { step := o.num, domainId := s.act.tick.domainId, mismatch := false, policyAnd := perLayer, policyOr := perLayer
      stepBit := o.stepBit || nonfinite, promote := b.1, clean := b.2.1, active := b.2.2, slots := if perLayer then o.slotBits else 0 }
  let s := { s with upd := { s.upd with step := some { o with frozen := true, votePending := false } }
                    fab := { s.fab with frame := some f, round := 0, final := none } }
  let n := nextCmd s
  let s := { n.2 with fab := { n.2.fab with frameCmd := n.1 } }
  let s := match domainDims s with | k :: _ => sendFrame k f s | [] => s
  advanceVote 4 s

/-- Every started VOTE of the step has contributed and completes (01 R23, 11 R345). -/
def finishVotes (n : W64) (s : State) : State :=
  (s.qsu.rings.map (·.1)).foldl (fun s q =>
    let vs := (ringOf s q).cmds.filter fun c =>
      Desc.opcode c.desc == opVote && c.desc.w2 == n && (match c.phase with | .started _ => true | _ => false)
    if vs.isEmpty then s else drainRing q 64 (vs.foldl (fun s c => finish q c okResult s) s)) s

/-- A frozen frame whose result is not fixed is sent again (09 R282). -/
def resendFrame (s : State) : State :=
  match s.fab.frame, domainDims s with
  | some f, k :: _ => sendFrame k f s
  | _, _ => s

/-- What the device contributes at a guard band (09 R282): a frame is frozen once and sent again at each later report. -/
def contribute (s : State) : State :=
  match s.upd.step with
  | some o =>
    if o.votePending && !o.frozen then finishVotes o.num (freezeFrame o s)
    else if o.frozen && !o.fixed then resendFrame s
    else s
  | none => s

/-- A frame of a step that is over. -/
def lateFrame (s : State) (f : VoteFrame) : Bool :=
  f.step == s.upd.lastStep && s.upd.lastStep != noStep && (match s.upd.step with | some o => o.num != f.step | none => true)

/-- A frame that has come already, or is of a step that is over: a copy with the CMD and index of one taken (R264). -/
def frameCopy (s : State) (dim peer : Nat) (f : VoteFrame) : Bool :=
  (s.fab.frames.any fun x => x.1 == dim && x.2.1 == peer) || lateFrame s f

/-- VOTE_FRAME_RECEIVE (09 R283): its slots are freed (R254); a frame of a peer is kept once, and a later copy is discarded and counted
(R264). -/
def voteFrameReceive (dim peer : Nat) (f : VoteFrame) (s : State) : State :=
  if !alive s then s
  else
    let from_ := portFrom s dim peer
    let s := oweArrived from_ 0 130 s
    if frameCopy s dim peer f then (match from_ with | some x => count (portCtr x.1 8) 1 s | none => s)
    else advanceVote 4 { s with fab := { s.fab with frames := s.fab.frames ++ [(dim, peer, f)] } }

def execVoteFrameReceive (dim peer : Nat) (frame : VoteFrame) (s : State) : Host.Outcome State Fault Refusal :=
  .next (voteFrameReceive dim peer frame s)

/-- An UPDATE_LAYER or ROW_UPDATE that stands before the command in its ring is not complete (01 R23). -/
def updatesBefore (r : Ring) (c : Cmd) : Bool :=
  (earlier r c).any fun e => Desc.opcode e.desc == opUpdateLayer || Desc.opcode e.desc == opRowUpdate

/-- VOTE and STEP_COMMIT name the open step (log entry 40). -/
def openStepCheck (s : State) (_ : Ring) (c : Cmd) : Option Result :=
  match s.upd.step with
  | some o => if o.num = c.desc.w2 then none else some (descErr 0x09 2)
  | none => some (descErr 0x09 2)

/-- A vote waits for the guard band of its beat. -/
def setVotePending (s : State) : State :=
  { s with upd := { s.upd with step := s.upd.step.map fun o => { o with votePending := true } } }

/-- VOTE (01 R23): it completes when it has contributed. -/
def voteBody (_q : Nat) (r : Ring) (c : Cmd) (s : State) : Phase × State :=
  if updatesBefore r c then (.waiting, s)
  else
    match s.upd.step with
    | some o => if o.frozen then (.finished okResult, s) else (.started (now s), setVotePending s)
    | none => (.finished okResult, s)

def execVote (ring : Nat) (d : Desc) (s : State) : Host.Outcome State Fault Refusal :=
  .next (runCmd opVote { check := openStepCheck, body := voteBody } ring d s)

/-- STEP_COMMIT (01 R24, R25): it takes effect at the advancing edge that ends its beat, and votes where no VOTE has executed. -/
def stepCommitBody (_q : Nat) (r : Ring) (c : Cmd) (s : State) : Phase × State :=
  if updatesBefore r c then (.waiting, s)
  else
    match s.upd.step with
    | some o =>
      if o.fixed then (.committing okResult, s)
      else (.started (now s), if o.frozen then s else setVotePending s)
    | none => (.finished okResult, s)

def execStepCommit (ring : Nat) (d : Desc) (s : State) : Host.Outcome State Fault Refusal :=
  .next (runCmd opStepCommit { check := openStepCheck, body := stepCommitBody } ring d s)

/-- A staged update of a slot is kept: the step is committed and the slot's bit is clear (01 R24, 08 R238). -/
def slotKept (discarded : Bool) (slots : BitVec 16384) (slot : Nat) : Bool := !discarded && !slots.getLsbD slot

/-- A staged element of the SIGN1 error memory becomes active (09 R275, R276). -/
def commitErr (s : State) (p : Nat × F32) : State :=
  match tensorPl s (p.1 / 2 ^ 40) with
  | some t => devWrite (t.err + 4 * (p.1 % 2 ^ 40)) (leBytes 4 p.2.toNat) s
  | none => s

/-- The staged updates become active or are dropped (08 R236, R238, 09 R276). -/
def settleUpdates (discarded : Bool) (slots : BitVec 16384) (s : State) : State :=
  let kept (layer : Nat) : Bool := slotKept discarded slots (SMap.get s.upd.slotOf layer 0)
  let s := (s.upd.staged.filter kept).foldl (fun s l => commitRoots l (commitLayer l s)) s
  let log := (s.mem.log.filter fun e => e.committed || slotKept discarded slots e.slot).map fun e => { e with committed := true }
  let err := s.fab.errStage.filter fun p => slotKept discarded slots (SMap.get s.fab.errSlot p.1 0)
  let s := err.foldl commitErr { s with mem := { s.mem with log := log } }
  { s with fab := { s.fab with errStage := [], errSlot := [] } }

/-- Differences of the domain's vote bits from those of a record (08 R244): the first recipe or slot that differs. -/
def compareVote (a : Nat) (f : VoteFrame) (s : State) : State :=
  let bits2 (i : Nat) : Nat := 2 * b2n (f.promote.getLsbD i) + b2n (f.clean.getLsbD i && f.active.getLsbD i)
  let s := match (List.range 16384).find? fun i => hostNat s (a + 0x31000 + 2 * i) 2 / 256 % 4 != bits2 i with
    | some i => replayDiffers 3 i s
    | none => s
  let s := if hostNat s (a + 8 * 15 + 1) 1 % 2 ≠ b2n f.stepBit then replayDiffers 3 0 s else s
  match (List.range 16384).find? fun i => (hostNat s (a + 128 + i / 8) 1).testBit (i % 8) != f.slots.getLsbD i with
  | some i => replayDiffers 3 i s
  | none => s

/-- A replayed step compares its vote and its error digest with the record (08 R244). -/
def replayCheck (o : OpenStep) (f : VoteFrame) (s : State) : State :=
  match o.replaying with
  | some a =>
    let s := compareVote a.toNat f s
    if hostNat s (a.toNat + 8 * 13 + 4) 4 ≠ (o.errCrc ^^^ 0xFFFFFFFF#32).toNat then replayDiffers 4 0 s else s
  | none => s

/-- A recorded step ends its record (08 R242). -/
def recordClose (o : OpenStep) (f : VoteFrame) (discarded : Bool) (slots : BitVec 16384) (s : State) : State :=
  match o.recording with
  | some a => recordEnd a.toNat o f discarded slots s
  | none => s

/-- STEP_COMMIT takes effect (01 R24, R25, 08 R236, R238, R242, R244). -/
def commitStep (q : Nat) (c : Cmd) (s : State) : State :=
  match s.upd.step, s.fab.final with
  | some o, some f =>
    let discarded := finalBit f
    let slots := if !discarded && f.policyAnd then f.slots else 0
    let s := recordClose o f discarded slots (replayCheck o f s)
    let differs := match s.upd.step with | some o => o.mismatch | none => false
    let s := closeStep o.num discarded slots (settleUpdates discarded slots s)
    let flags := (if slots = 0 then 0 else flSkip) ||| (if o.precision then flPrecision else 0) |||
      (if o.recording.isSome then flRecorded else 0) ||| (if differs then flMismatch else 0)
    finish q c (mkResult (if discarded then stDiscarded else stOk) flags 0 0) s
  | _, _ => s

/-- The STEP_COMMITs that the advancing edge applies (01 R24, R48): those of the open step, once its result is present. -/
def commitDue (s : State) : Option (Nat × Cmd) :=
  let here (c : Cmd) : Bool := Desc.opcode c.desc == opStepCommit &&
    (match c.phase with | .started _ => true | .committing _ => true | _ => false)
  match s.qsu.rings.find? fun p => p.2.cmds.any here with
  | some p => (p.2.cmds.find? here).map fun c => (p.1, c)
  | none => none

/-- A started STEP_COMMIT of a ring waits for its edge from now on (11 R345). -/
def holdCommits (q : Nat) (s : State) : State :=
  (ringOf s q).cmds.foldl (fun s c =>
    match c.phase with
    | .started _ => if Desc.opcode c.desc = opStepCommit then setCmd q c.index (fun x => { x with phase := .committing okResult }) s else s
    | _ => s) s

/-- The vote result is fixed at the edge that ends its beat, and the closing records become the closed ones (01 R23, 05 R133). -/
def fixVote (s : State) : State :=
  match s.upd.step with
  | some o =>
    if o.frozen && !o.fixed then
      (s.qsu.rings.map (·.1)).foldl (fun s q => holdCommits q s)
        (closeRecords (o.num.setWidth 32) { s with upd := { s.upd with step := some { o with fixed := true } } })
    else s
  | none => s

/-- A step whose STEP_COMMIT was aborted ends once its vote is fixed (11 R345, 14 R420). -/
def endAborted (s : State) : State :=
  match s.upd.step with
  | some o => if o.aborted && o.fixed then closeStep o.num true 0 (dropStaged s) else s
  | none => s

/-- The advancing edge that ends a beat, for the open step (01 R23-R25, 05 R133, R137): the vote result is fixed, the closing
records become the closed ones, steering decides if the result is present, and a STEP_COMMIT applies it. -/
def stepEdge (s : State) : State :=
  let s := settleVote (fixVote s)
  match commitDue s with
  | some (q, c) => commitStep q c s
  | none => endAborted s

/-- RECORD_STEP (08 R242): a failed host access ends it at once. -/
def recordBody (_q : Nat) (r : Ring) (c : Cmd) (s : State) : Phase × State :=
  if hostOk s r.context.toNat then (.finished okResult, { s with upd := { s.upd with armed := some c.desc.w2 } })
  else (.finished (stResult stAccess), s)

/-- Check of RECORD_STEP: 4 KiB aligned (11 Table 11.11). -/
def recordCheck (_ : State) (_ : Ring) (c : Cmd) : Option Result := rangeErr (c.desc.w2.toNat % 4096 != 0) 2

def execRecordStep (ring : Nat) (d : Desc) (s : State) : Host.Outcome State Fault Refusal :=
  .next (runCmd opRecordStep { check := recordCheck, body := recordBody } ring d s)

/-- A directory entry from its two words (10 Table 10.9). -/
def DirEnt.load (e : DirEnt) (w0 w1 : W64) : DirEnt :=
  let page := 4096 * bits w0 35 0
  { far := bit w0 62, pinned := bit w0 61, tries := bits w0 60 59, hold := bits w0 58 52, page := page
    home := bits w1 63 54, acc := 4096 * bits w1 35 0, farSlot := if bit w0 62 then page else e.farSlot
    nearSlot := if bit w0 62 then e.nearSlot else page }

/-- Start of a table's part in a directory image: the level-2 regions follow each other in ascending table ID (10 R303; log entry 41). -/
def imageBase (s : State) (a table : Nat) : Nat :=
  ((placedTables s).filter fun t => decide (t.table < table)).foldl (fun n t => n + 16 * t.pages) a

/-- Load a directory image: the entry of row page p of a table lies 16 p past the start of the table's part (10 R303). -/
def loadDirectory (a : Nat) (s : State) : State :=
  (s.ple.dir.map (·.1)).foldl (fun s k =>
    let at_ := imageBase s a (k / 2 ^ 40) + 16 * (k % 2 ^ 40)
    match SMap.find s.ple.dir k with
    | some e => putDir (k / 2 ^ 40) (k % 2 ^ 40) (e.load (hostW64 s at_) (hostW64 s (at_ + 8))) s
    | none => s) s

/-- A steering state from its word (05 Table 5.6). -/
def steerLoad (w : W64) : Steer :=
  { lastChange := BitVec.ofNat 32 (bits w 63 32), clean := BitVec.ofNat 8 (bits w 23 16), rung := BitVec.ofNat 3 (bits w 10 8)
    action := BitVec.ofNat 4 (bits w 3 0) }

/-- Load the start sections of a record (08 R244): no decision, window or pending value may change them at the boundary. -/
def loadStart (a : Nat) (s : State) : State :=
  let steer := (List.range 16384).foldl (fun m i => SMap.set m i (steerLoad (hostW64 s (a + 0x11000 + 8 * i))) resetSteer) []
  let vals := (List.range 64).foldl (fun m i => SMap.set m i (BitVec.ofNat 128 (hostNat s (a + 0x39000 + 16 * i) 16)) 0) []
  let streams := ((placedTables s).take 4096).zipIdx.foldl (fun m t =>
    let w := hostW64 s (a + 0x3A000 + 8 * t.2)
    match SMap.find m t.1.table with
    | some x => SMap.put m t.1.table { x with l := bits w 35 32, last := w.setWidth 32, closedSum := 0, closedN := 0 }
    | none => m) s.mem.streams
  let amax := (amaxOrder s).zipIdx.foldl (fun m t =>
    SMap.set m t.1.tensor ((chunks 4 (hostRead s (a + 0x42000 + 64 * t.2) 64)).map fun b => BitVec.ofNat 32 (leNat b)) []) s.prc.amax
  let order := scaleOrder s
  let s' := order.zipIdx.foldl (fun t p =>
    let at0 := (order.take p.2).foldl (fun n x => n + 8 * scaleCount x) 0
    devWrite p.1.scale (hostRead s (a + 0x62000 + at0) (8 * scaleCount p.1)) t) s
  { s' with prc := { s'.prc with steer := steer, decided := [], amax := amax, windowClosed := false }
            mem := { s'.mem with streams := streams }, upd := { s'.upd with schedVal := vals } }

/-- REPLAY (08 R244). -/
def replayBody (_q : Nat) (r : Ring) (c : Cmd) (s : State) : Phase × State :=
  let a := c.desc.w2.toNat
  let id := match s.ple.placement with | some p => p.id | none => 0
  if !hostOk s r.context.toNat then (.finished (stResult stAccess), s)
  else if hostNat s (a + 2) 2 ≠ 1 ∨ hostNat s (a + 4) 4 ≠ 0x53544550 ∨ hostW64 s (a + 16) ≠ id ∨ s.ple.placement.isNone then
    (.finished (descErr 0x09 2), s)
  else
    let s := loadStart a (loadDirectory c.desc.w3.toNat s)
    (.finished okResult, { s with upd := { s.upd with
      replay := some c.desc.w2, replaySeed := hostW64 s (a + 24), lastStep := hostW64 s (a + 8) - 1 } })

def execReplay (ring : Nat) (d : Desc) (s : State) : Host.Outcome State Fault Refusal :=
  .next (runCmd opReplay { check := noCheck, body := replayBody } ring d s)

end Sys2Proof.Machine
end

