-- ==== Sys2Proof/Machine/Reduce.lean ====
section
/-!
DEFINITION. Gradient reduction on the lattice (09 R266-R278): groups, shard maps (08 R210, R211), the wire formats, the scale tables,
one-bit thinning, and the phases of REDUCE_SCATTER.
-/
namespace Sys2Proof.Machine

/-- A group table entry and its box (R266, Table 9.10). -/
def groupWord (s : State) (g : Nat) : W64 := SMap.get s.act.groups g 0
def groupVc (w : W64) : Nat := bits w 58 56
def groupLo (w : W64) (k : Nat) : Nat := bits w (12 * k + 5) (12 * k)
def groupN (w : W64) (k : Nat) : Nat := bits w (12 * k + 11) (12 * k + 6)

/-- A device lies in the box of a group. -/
def inBox (s : State) (w : W64) (dev : Nat) : Bool :=
  [0, 1, 2].all fun k => decide (groupLo w k ≤ coordOf s dev k) && decide (coordOf s dev k < groupLo w k + groupN w k)

/-- A collective may name the group (R266). -/
def groupOk (s : State) (g : Nat) : Bool :=
  let w := groupWord s g
  bit w 63 && groupVc w != 0 && ([0, 1, 2].all fun k => decide (1 ≤ groupN w k) && decide (groupLo w k + groupN w k ≤ latSize s k)) &&
    inBox s w (myDevice s)

/-- Members of a group in order of device ID. -/
def groupMembers (s : State) (g : Nat) : List Nat := (List.range (deviceCount s)).filter fun d => inBox s (groupWord s g) d

/-- Dimensions of a group's phases, ascending (R277). -/
def groupDims (s : State) (g : Nat) : List Nat := [0, 1, 2].filter fun k => decide (2 ≤ groupN (groupWord s g) k)

/-- Coordinates of a group's box in a dimension. -/
def boxCoords (s : State) (g k : Nat) : List Nat := (List.range (groupN (groupWord s g) k)).map fun i => groupLo (groupWord s g) k + i

/-- Fields of REDUCE_SCATTER (11 Table 11.10). -/
def Desc.entries (d : Desc) : Nat := bits d.w4 63 48
def Desc.group (d : Desc) : Nat := bits d.w4 47 42

/-- The shard map of a REDUCE_SCATTER (08 Table 8.1). -/
def shardMap (s : State) (a n : Nat) : List Shard :=
  ((List.range n).foldl (fun (acc : List Shard × Nat) i =>
    let w0 := hostW64 s (a + 16 * i)
    let w1 := hostW64 s (a + 16 * i + 8)
    let e : Shard := { layer := bits w0 63 48, slot := bits w0 47 34, owner := bits w0 23 14, base := acc.2, count := bits w1 39 0 }
    (acc.1 ++ [e], acc.2 + e.count)) ([], 0)).1

/-- A list holds some number twice. -/
def hasRepeat : List Nat → Bool
  | [] => false
  | a :: t => t.contains a || hasRepeat t

/-- Elements of the gradient buffer: the operand's rows from FIRST on. -/
def bufferLen (s : State) (o : Operand) : Nat := (operandRows s o - o.first) * tensorK s (operandTensor s o)

/-- A shard map that R211 refuses. -/
def shardsBad (s : State) (g len : Nat) (xs : List Shard) : Bool :=
  let seen := match theStep s with | some o => (o.layersSeen, o.slotsSeen) | none => ([], [])
  (xs.foldl (fun n x => n + x.count) 0 != len) ||
    (xs.any fun x =>
      (match layerEnt s x.layer with | some l => l.k * l.n != x.count | none => false) || !decide (x.owner < deviceCount s) ||
        !inBox s (groupWord s g) x.owner || seen.1.contains x.layer || seen.2.contains x.slot) ||
    hasRepeat (xs.map (·.layer)) || hasRepeat (xs.map (·.slot))

/-- Checks of REDUCE_SCATTER (08 R211, R247, 09 R266, 11 R336). -/
def reduceCheck (s : State) (r : Ring) (c : Cmd) : Option Result :=
  let d := c.desc
  let o := operand d.w2
  match operandCheck s d [2] [] [] with
  | some e => some e
  | none =>
    if operandRows s o < o.first then some (descErr 0x07 2)
    else if d.w3.toNat % 16 ≠ 0 then some (descErr 0x07 3)
    else if ouvutStage s r.stage.toNat && (match locate s o (cmdBeat s r c) 0 none with | some l => decide (1 < l.form.fmt.toNat) | none => false) then
      some (descErr 0x09 2)
    else if !groupOk s (Desc.group d) then some (descErr 0x09 4)
    else if !hostOk s r.context.toNat then none
    else
      let xs := shardMap s d.w3.toNat (Desc.entries d)
      if xs.any fun x => (layerEnt s x.layer).isNone then some (descErr 0x05 3)
      else if shardsBad s (Desc.group d) (bufferLen s o) xs then some (descErr 0x09 3) else none

/-- A table nothing has formed. -/
def noScales : ScaleTable := { gen := 0, tensor := none, codes := [] }

/-- The scale table at an address: generation, a valid byte, the tensor it was formed for, and from byte 64 on the codes of `n` elements
(R270; log entry 46). -/
def tableAt (s : State) (a n : Nat) : ScaleTable :=
  { gen := BitVec.ofNat 32 (leNat (devBytes s a 4)), tensor := if Memory.get s.mem.cells (a + 4) = 1 then some (leNat (devBytes s (a + 8) 4)) else none
    codes := devBytes s (a + 64) (ceilDiv n 32) }

/-- Write a scale table. -/
def putTable (a : Nat) (t : ScaleTable) (s : State) : State :=
  devWrite a (leBytes 4 t.gen.toNat ++ leBytes 4 (b2n t.tensor.isSome) ++ leBytes 4 (t.tensor.getD 0) ++ List.replicate 52 0 ++ t.codes) s

/-- The table that reductions of a layer use, and the one its owner has formed (R270). -/
def layerScales (s : State) (layer : Nat) (formed : Bool) : ScaleTable :=
  match layerEnt s layer, layerPl s layer with
  | some l, some p => tableAt s (p.wire + if formed then wireSpan (l.k * l.n) else 0) (l.k * l.n)
  | _, _ => noScales
def scalesOf (s : State) (layer : Nat) : ScaleTable := layerScales s layer false

/-- A line of the table that a layer's reductions use is poisoned (07 R177). -/
def scalesPoison (s : State) (layer : Nat) : Bool :=
  match layerEnt s layer, layerPl s layer with | some l, some p => devPoison s p.wire (wireSpan (l.k * l.n)) | _, _ => false

/-- The wire format (R269): 0 WIRE8, 1 BF16 bootstrap, 2 SIGN1. -/
def wireKind (s : State) (tensor : Nat) (xs : List Shard) : Nat :=
  let thin := match tensorEnt s tensor with | some e => e.sign1 | none => false
  if xs.any fun x => ouvutLayer s x.layer then 1
  else if thin then 2
  else if xs.any fun x => (scalesOf s x.layer).tensor != some tensor || s.prc.bootstrap.contains (layerRecipeId s x.layer) then 1
  else 0

/-- Shard of an element of the buffer. -/
def Reduction.shard (r : Reduction) (j : Nat) : Shard :=
  (r.shards.find? fun x => decide (x.base ≤ j) && decide (j < x.base + x.count)).getD
    { layer := noLayer, slot := 0, owner := 0, base := 0, count := 0 }

/-- Exponent of an element's block in the table in force (R271). -/
def Reduction.exp (s : State) (r : Reduction) (j : Nat) : Int :=
  let x := r.shard j
  (((scalesOf s x.layer).codes.getD ((j - x.base) / 32) 0).toNat : Int) - 127

/-- Hop number of the encodings sent in a phase (R269). -/
def waveHop (p : Nat) : Nat := if p ≤ 1 then 0 else p

/-- How an element's encoding rounds (R269, R246), with the seed the reduction started with (03 R94). -/
def Reduction.rnd (s : State) (r : Reduction) (j : Nat) : Rnd :=
  if r.ouvut then .near
  else .stoch ((sprinkle r.seed r.tensor (r.first + j) r.step.toNat (myDevice s) (waveHop r.phase) 0).toNat % 65536)

/-- A value beyond BF16's or FP16's range on the wire becomes infinite with ieee_overflow (03 R97, R246). -/
def Reduction.ieee (s : State) (r : Reduction) (j : Nat) : Bool := r.ouvut || Recipe.ieee (layerRecipe s (r.shard j).layer)

/-- Encode one element for the wire (R272, R274). -/
def encodeWire (s : State) (r : Reduction) (j : Nat) (y : F32) : Contribution :=
  let rnd := r.rnd s j
  if r.kind = 0 then
    match fv y with
    | .fin neg m x =>
      let q := signedM neg (roundAt rnd m (x - r.exp s j) 0)
      if -127 ≤ q ∧ q ≤ 127 then .code q else .value y
    | _ => .value y
  else
    let c := (encodeElem 1 false (r.ieee s j) rnd .one (fv y)).code
    .value (rne (bf16.decode (if r.ouvut then flushBf16 c else c)))

/-- Sum of one element's contributions in ascending coordinate (R272, R274, R275). -/
def sumWire (e : Int) (cs : List Contribution) : F32 :=
  let acc := cs.foldl (fun (a : Int × F32 × Bool) c => match c with
    | .code q => (a.1 + q, a.2.1, a.2.2)
    | .value v => (a.1, fadd a.2.1 v, true)) (0, fZero, false)
  let y := rne (Fv.ofInt acc.1 e)
  if acc.2.2 then (if cs.all fun c => (match c with | .value _ => true | .code _ => false) then acc.2.1 else fadd y acc.2.1) else y

/-- Key of a contribution. -/
def gotKey (phase coord j : Nat) : Nat := phase * 2 ^ 52 + coord * 2 ^ 40 + j

/-- The dimension of a phase of a reduction (R277). -/
def Reduction.dim (r : Reduction) (p : Nat) : Nat := r.dims.getD (p - 1) 0

/-- Two reductions are one command's on one replica. -/
def Reduction.same (r x : Reduction) : Bool := x.ring == r.ring && x.index == r.index && x.rep == r.rep

/-- Replace a reduction, or take it away. -/
def putReduction (r : Reduction) (s : State) : State :=
  { s with fab := { s.fab with reductions := s.fab.reductions.map fun x => if Reduction.same r x then r else x } }
def dropReduction (r : Reduction) (s : State) : State :=
  { s with fab := { s.fab with reductions := s.fab.reductions.filter fun x => !Reduction.same r x } }

/-- Cut a run of encoded elements into messages: at most 16,384 elements and 2,048 escapes each (R267). -/
def packWave (xs : List (Nat × Contribution)) : List (List (Nat × Contribution)) :=
  let esc (x : Nat × Contribution) : Nat := match x.2 with | .value _ => 1 | .code _ => 0
  let out := xs.foldl (fun (a : List (List (Nat × Contribution)) × List (Nat × Contribution) × Nat) x =>
    if a.2.1.length = 16384 ∨ 2048 < a.2.2 + esc x then (a.1 ++ [a.2.1], [x], esc x) else (a.1, a.2.1 ++ [x], a.2.2 + esc x)) ([], [], 0)
  if out.2.1.isEmpty then out.1 else out.1 ++ [out.2.1]

/-- Cut a run of BF16 elements into messages. -/
def packPlain (xs : List (Nat × Contribution)) : List (List (Nat × Contribution)) := chunks 16384 xs

/-- SCALE_GEN of a message about an element (Table 9.5). -/
def Reduction.gen (s : State) (r : Reduction) (j : Nat) : W32 :=
  if r.kind = 0 then (scalesOf s (r.shard j).layer).gen else 0xFFFFFFFF#32

/-- A message of a reduction (Tables 9.5 and 9.6). -/
def waveMessage (s : State) (r : Reduction) (dst : Nat) (xs : List (Nat × Contribution)) : Message :=
  let j0 := match xs.head? with | some x => x.1 | none => 0
  let body : List Byte := xs.flatMap fun x =>
    match x.2 with
    | .code q => leBytes 1 (twos 8 q)
    | .value v => if r.kind = 0 then leBytes 1 0x80 else leBytes 2 (bf16.narrow (fv v))
  let escapes : List Escape := if r.kind = 0 then xs.filterMap fun x => (match x.2 with | .value v => some { offset := x.1 - j0, value := v } | .code _ => none) else []
  { kind := r.kind, hop := waveHop r.phase, group := r.group, src := myDevice s, dst := dst, tensor := r.tensor, first := r.first + j0
    step := r.step, scaleGen := r.gen s j0, cmd := r.seq, msgIndex := BitVec.ofNat 32 r.msgs, vc := r.vc, count := xs.length, body := body
    escapes := escapes }

/-- Send one message of a reduction to the peer at (k, y). -/
def sendWave (k y : Nat) (xs : List (Nat × Contribution)) (a : Reduction × State) : Reduction × State :=
  let m := waveMessage a.2 a.1 (peerDevice a.2 k y) xs
  ({ a.1 with msgs := a.1.msgs + 1, sent := a.1.sent + xs.length, escapes := a.1.escapes + m.escapes.length }, sendPeer a.1.order k y m a.2)

/-- Some elements enter a phase (R278): they are encoded, and those of other coordinates leave, shard by shard. -/
def enterPhase (p : Nat) (xs : List (Nat × F32)) (r : Reduction) (s : State) : Reduction × State :=
  let r : Reduction := { r with phase := p, todo := r.todo.zipIdx.map fun n => if n.2 + 1 = p then n.1 - xs.length else n.1 }
  let k := r.dim p
  let me := latCoord s k
  let enc : List (Nat × Contribution) := xs.map fun x => (x.1, encodeWire s r x.1 x.2)
  let mine := enc.filter fun x => coordOf s (r.shard x.1).owner k == me
  let r : Reduction := { r with got := mine.foldl (fun (m : SMap Contribution) (x : Nat × Contribution) => SMap.put m (gotKey p me x.1) x.2) r.got }
  r.shards.foldl (fun a x =>
    let y := coordOf s x.owner k
    if y = me then a
    else
      let run := enc.filter fun e => decide (x.base ≤ e.1) && decide (e.1 < x.base + x.count)
      (if r.kind = 0 then packWave run else packPlain run).foldl (fun a xs => sendWave k y xs a) a) (r, s)

/-- Magnitude a block takes its exponent from, and that exponent's code (R270). -/
def blockCode (old : Byte) (ys : List F32) : Byte :=
  let top := (finiteMags (ys.map fv)).foldl (fun (a : Nat × Int) p => if magLe p.1 p.2 a.1 a.2 then a else p) (0, 0)
  if top.1 = 0 then old
  else
    let f := flog2 top.1 top.2 - 6
    let e := if magLe top.1 top.2 127 f then f else f + 1
    BitVec.ofNat 8 (127 + max (-127) (min 110 (e + 1))).toNat

/-- The owner's new scale table of a shard (R270, R274, R277). -/
def newTable (s : State) (r : Reduction) (x : Shard) (ys : List F32) : ScaleTable :=
  let was := layerScales s x.layer true
  { gen := r.step, tensor := some r.tensor
    codes := (chunks 32 ys).zipIdx.map fun p => blockCode (if was.tensor = some r.tensor then was.codes.getD p.2 0 else 0) p.1 }

/-- Write an owned shard (11 R335): the layer's summed-gradient region and its new scale table; a shard of the present step's REDUCE_SCATTER is
what its UPDATE_LAYER asks for (08 R219). -/
def writeShard (r : Reduction) (x : Shard) (s : State) : State :=
  match layerEnt s x.layer, layerPl s x.layer with
  | some l, some p =>
    let ys := (List.range x.count).map fun i => SMap.get r.held (x.base + i) fZero
    let t := newTable s r x ys
    let s := putStrips p.grad l.k ys s
    let s := if r.poisoned then devPoisonRange p.grad (l.n * roundUp 64 (4 * l.k)) s else s
    let s := putTable (p.wire + wireSpan (l.k * l.n)) t s
    if r.inStep.isSome && r.inStep == (theStep s).map (·.num) then { s with upd := { s.upd with gradGot := insertNat x.layer s.upd.gradGot } }
    else s
  | _, _ => s

/-- Too many escapes for the wire scale (09 R271, R274): FAB_SCALE_MISFIT. -/
def raiseMisfit (r : Reduction) (s : State) : State :=
  let payload : W64 := at' 64 40 r.tensor ||| r.step.setWidth 64
  raise 0x40 payload { s with fab := { s.fab with scaleMisfit := true } }

/-- The command that a ring holds under an index is finished. -/
def finishIndex (q : Nat) (i : W32) (res : Result) (s : State) : State :=
  match (ringOf s q).cmds.find? fun c => c.index == i with
  | some c => finish q c res s
  | none => s

/-- What replicas of a locked set gave for one command: the highest status, the OR of the flags, the sums of the counters (02 R52). -/
def Result.join (a b : Result) : Result :=
  { mkResult (stMax a.status b.status) (a.flags ||| b.flags) (a.repeats.toNat + b.repeats.toNat) (a.retries.toNat + b.retries.toNat) with
    detail := a.detail }
def joinDone (a : Option Result) (b : Result) : Result := match a with | some x => Result.join x b | none => b

/-- The reduction is complete on its replica: the command is finished with the last of its replicas (02 R52). -/
def closeReduction (r : Reduction) (res : Result) (s : State) : State :=
  let s := dropReduction r s
  let all := joinDone r.done res
  match s.fab.reductions.find? fun x => x.ring == r.ring && x.index == r.index with
  | some x => putReduction { x with done := some (joinDone x.done all) } s
  | none => finishIndex r.ring r.index all s

/-- The reduction is complete (R268, R273): shards are written, a misfit is reported. -/
def endReduction (r : Reduction) (s : State) : State :=
  let s := (r.shards.filter fun x => x.owner == myDevice s).foldl (fun s x => writeShard r x s) s
  let misfit := decide (r.sent < 64 * r.escapes)
  let s := if misfit then raiseMisfit r s else s
  let base := if r.rejected then stFault else if r.poisoned then stPoisoned else stOk
  closeReduction r (mkResult base (if misfit then flMisfit else 0) 0 0) s

/-- Every contribution of a SIGN1 tensor to the own shards has come (R275). -/
def thinReady (s : State) (r : Reduction) : Bool :=
  r.shards.all fun x => x.owner != myDevice s || (List.range x.count).all fun i =>
    (groupMembers s r.group).all fun d => (SMap.find r.got (gotKey 1 d (x.base + i))).isSome

/-- A contribution, NaN where none came. -/
def Reduction.gotAt (r : Reduction) (p y j : Nat) : Contribution := (SMap.find r.got (gotKey p y j)).getD (.value fNan)

/-- The sums of a SIGN1 tensor's own shards (R275). -/
def thinSums (s : State) (r : Reduction) : SMap F32 :=
  (r.shards.filter fun x => x.owner == myDevice s).foldl (fun (m : SMap F32) x =>
    (List.range x.count).foldl (fun m i =>
      let j := x.base + i
      SMap.put m j (sumWire 0 ((groupMembers s r.group).map fun d => r.gotAt 1 d j))) m) []

/-- The elements of which every contribution of a phase has come here (R272). -/
def summed (s : State) (r : Reduction) (p : Nat) : List Nat :=
  let k := r.dim p
  ((r.got.filter fun e => e.1 / 2 ^ 40 == p * 2 ^ 12 + latCoord s k).map fun e => e.1 % 2 ^ 40).filter fun j =>
    (boxCoords s r.group k).all fun y => (SMap.find r.got (gotKey p y j)).isSome

/-- Sum what is complete in a phase, and send it on in the next at once, or keep it as final (R272, R278). -/
def advancePhase (a : Reduction × State) (p : Nat) : Reduction × State :=
  let r := a.1
  let s := a.2
  let js := summed s r p
  if js.isEmpty then a
  else
    let xs := js.map fun j => (j, sumWire (r.exp s j) ((boxCoords s r.group (r.dim p)).map fun y => r.gotAt p y j))
    let got := r.got.filter fun e => !(e.1 / 2 ^ 52 == p && js.contains (e.1 % 2 ^ 40))
    let r : Reduction := { r with got := got }
    if p < r.dims.length then enterPhase (p + 1) xs r s
    else
      ({ r with held := xs.foldl (fun (m : SMap F32) x => SMap.put m x.1 x.2) r.held
                todo := r.todo.zipIdx.map fun n => if n.2 = p then n.1 - xs.length else n.1 }, s)

/-- Go on with what has come (R278): the phases in order, since a sum can complete the next one's. -/
def advanceReduction (r : Reduction) (s : State) : State :=
  if r.kind = 2 then (if thinReady s r then endReduction { r with held := thinSums s r } s else putReduction r s)
  else
    let a := ((List.range r.dims.length).map (· + 1)).foldl advancePhase (r, s)
    if a.1.todo.all (· == 0) then endReduction a.1 a.2 else putReduction a.1 a.2

/-- One block of one-bit thinning (R275): the sign bits, the scale's code, what each element sends, and the new error memory. -/
structure Thin where
  signs : List Bool
  h : Nat
  sent : List F32
  err : List F32

/-- Index of an element of the buffer in the tensor's error memory: each replica has its own (02 R51). -/
def errIndex (s : State) (r : Reduction) (j : Nat) : Nat :=
  (match tensorEnt s r.tensor with | some e => r.rep * e.rows * e.k | none => 0) + r.first + j

/-- The error memory of an element (R275). -/
def errAt (s : State) (r : Reduction) (j : Nat) : F32 :=
  match tensorPl s r.tensor with | some p => BitVec.ofNat 32 (leNat (devBytes s (p.err + 4 * errIndex s r j) 4)) | none => fZero

/-- The error memory that a reduction reads is poisoned (07 R177). -/
def errPoison (s : State) (r : Reduction) : Bool :=
  match tensorPl s r.tensor with | some p => devPoison s (p.err + 4 * errIndex s r 0) (4 * r.held.length) | none => false

/-- Thin a block: `xs` are its elements of the buffer with their gradients. -/
def thinBlock (s : State) (r : Reduction) (xs : List (Nat × F32)) : Thin :=
  let gp := xs.map fun x => fadd x.2 (errAt s r x.1)
  let sum := gp.foldl (fun a g => fadd a (g &&& 0x7FFFFFFF#32)) fZero
  let j0 := match xs.head? with | some x => x.1 | none => 0
  let h := (encodeElem 2 false (r.ieee s j0) (.stoch ((sprinkle r.seed r.tensor (r.first + j0) r.step.toNat (myDevice s) 0 0).toNat % 65536)) .one
    (fv (fdiv sum (fOfNat gp.length)))).code
  let hv := rne (fp16.decode h)
  let signs := gp.map fun g => g.getLsbD 31 && !(fv g).isNan
  let sent := signs.map fun b => if b then fneg hv else hv
  { signs := signs, h := h, sent := sent, err := gp.zipWith fsub sent }

/-- Bytes of a block on the wire (R267). -/
def Thin.bytes (t : Thin) : List Byte :=
  leBytes 4 (t.signs.zipIdx.foldl (fun n p => if p.1 then n + 2 ^ p.2 else n) 0) ++ leBytes 2 t.h

/-- Stage the new error memory of a block, and run the record's CRC over the elements read (R276, 08 R242). -/
def stageThin (r : Reduction) (x : Shard) (xs : List (Nat × F32)) (t : Thin) (s : State) : State :=
  (xs.zip t.err).foldl (fun s p =>
    let k := r.tensor * 2 ^ 40 + errIndex s r p.1.1
    let was := errAt s r p.1.1
    let s := onStep (fun o => { o with errCrc := (leBytes 4 was.toNat).foldl crcByte o.errCrc }) s
    { s with fab := { s.fab with errStage := SMap.put s.fab.errStage k p.2, errSlot := SMap.put s.fab.errSlot k x.slot } }) s

/-- One-bit thinning of a shard (R275, R280): its blocks go straight to the owner. -/
def thinShard (x : Shard) (a : Reduction × State) : Reduction × State :=
  let run := a.1.held.filter fun p => decide (x.base ≤ p.1) && decide (p.1 < x.base + x.count)
  (chunks 16384 run).foldl (fun a xs =>
    let ts := (chunks 32 xs).map fun b => (b, thinBlock a.2 a.1 b)
    let s := ts.foldl (fun s t => stageThin a.1 x t.1 t.2 s) a.2
    let r := a.1
    if x.owner = myDevice s then
      let own := (xs.map (·.1)).zip (ts.flatMap fun t => t.2.sent)
      ({ r with got := own.foldl (fun (m : SMap Contribution) p => SMap.put m (gotKey 1 (myDevice s) p.1) (.value p.2)) r.got }, s)
    else
      let j0 := match xs.head? with | some p => p.1 | none => 0
      let m : Message :=
        { kind := 2, hop := 0, group := r.group, src := myDevice s, dst := x.owner, tensor := r.tensor, first := r.first + j0, step := r.step
          scaleGen := 0xFFFFFFFF#32, cmd := r.seq, msgIndex := BitVec.ofNat 32 r.msgs, vc := r.vc, count := xs.length
          body := ts.flatMap fun t => Thin.bytes t.2, escapes := [] }
      ({ r with msgs := r.msgs + 1, sent := r.sent + xs.length }, sendAs r.order x.owner m s)) a

/-- The shard map's slots hold for the step, and its layers and slots are seen (08 R210, R211). -/
def noteShards (xs : List Shard) (s : State) : State :=
  let slots := xs.foldl (fun (m : SMap Nat) x => SMap.put m x.layer x.slot) s.upd.slotOf
  let s := onStep (fun o => { o with layersSeen := o.layersSeen ++ xs.map (·.layer), slotsSeen := o.slotsSeen ++ xs.map (·.slot) }) s
  { s with upd := { s.upd with slotOf := slots } }

/-- The access to the rows that a reduction reads on a replica. -/
def touchSource (s0 : State) (o : Operand) (beat rep n : Nat) (s : State) : State :=
  match locate s0 o beat rep none with | some l => touchRows l o.first n s | none => s

/-- The first messages of a reduction (09 R269, R275). -/
def startReduction (xs : List Shard) (red : Reduction) (s : State) : Reduction × State :=
  if red.dims.isEmpty then (red, s) else if red.kind = 2 then xs.foldl (fun a x => thinShard x a) (red, s)
  else enterPhase 1 red.held { red with held := [] } s

/-- The elements of a buffer that enter a phase here, and last those that end here: their owners agree with this device in the dimensions
of the phases before (R278). -/
def phaseCounts (s : State) (dims : List Nat) (xs : List Shard) : List Nat :=
  (List.range (dims.length + 1)).map fun i =>
    (xs.filter fun x => (dims.take i).all fun k => coordOf s x.owner k == latCoord s k).foldl (fun n x => n + x.count) 0

/-- A REDUCE_SCATTER as it starts on a replica: the source's values are what this device holds. -/
def newReduction (q : Nat) (c : Cmd) (xs : List Shard) (seq : W32) (n beat rep : Nat) (s : State) : Reduction :=
  let d := c.desc
  let o := operand d.w2
  let t := operandTensor s o
  let vals := (operandVals s o beat rep n).flatten
  let kind := wireKind s t xs
  let r : Reduction :=
    { ring := q, index := c.index, group := Desc.group d, vc := groupVc (groupWord s (Desc.group d)), seq := seq, tensor := t
      first := o.first * tensorK s t, step := stepNo s, kind := kind, ouvut := xs.any fun x => ouvutLayer s x.layer
      dims := groupDims s (Desc.group d), phase := 1, todo := phaseCounts s (groupDims s (Desc.group d)) xs, shards := xs, held := vals.zipIdx.map fun p => (p.2, p.1), got := []
      rejected := false, poisoned := false, escapes := 0, sent := 0, msgs := 0, seed := seedNow s, order := s.fab.started, rep := rep
      inStep := (theStep s).map (·.num), done := none }
  let side := !r.dims.isEmpty && ((kind == 0 && xs.any fun x => scalesPoison s x.layer) || (kind == 2 && errPoison s r))
  { r with poisoned := operandPoison s o beat rep n || side }

/-- A REDUCE_SCATTER starts on one replica (R277, R278, 02 R51); a group without phases writes the own gradient unchanged. -/
def reduceStart (q : Nat) (c : Cmd) (xs : List Shard) (n beat : Nat) (s : State) (rep : Nat) : State :=
  let seq := nextSeq (Desc.group c.desc) s
  let red := newReduction q c xs seq.1 n beat rep s
  let a := startReduction xs red (touchSource s (operand c.desc.w2) beat rep n (takeOrder seq.2).2)
  { a.2 with fab := { a.2.fab with reductions := a.2.fab.reductions ++ [a.1] } }

/-- REDUCE_SCATTER (R277, R278): every replica of a locked set executes it (02 R51). -/
def reduceBody (q : Nat) (r : Ring) (c : Cmd) (s : State) : Phase × State :=
  let d := c.desc
  let o := operand d.w2
  let beat := cmdBeat s r c
  let n := operandRows s o - o.first
  let reps := List.range (stageReplicas s r.stage.toNat)
  if !hostOk s r.context.toNat then (.finished (stResult stAccess), s)
  else if reps.any fun rep => lostOperand s o beat rep then (.finished (stResult stFault), s)
  else
    let xs := shardMap s d.w3.toNat (Desc.entries d)
    (.started (now s), reps.foldl (reduceStart q c xs n beat) (noteShards xs s))

/-- Finish what can be finished of one reduction. -/
def settleReduction (r : Reduction) (s : State) : State := if r.dims.isEmpty then endReduction r s else advanceReduction r s

/-- Decode the contribution of a message (R267, R271). -/
def messageValues (kind : Nat) (m : Message) : List Contribution :=
  if kind = 0 then
    (m.body.take m.count).zipIdx.map fun (p : Byte × Nat) =>
      if p.1 = 0x80#8 then .value (match m.escapes.find? fun e => e.offset == p.2 with | some e => e.value | none => fNan)
      else .code p.1.toInt
  else if kind = 1 then (chunks 2 (m.body.take (2 * m.count))).map fun b => .value (rne (bf16.decode (leNat b)))
  else
    ((chunks 6 m.body).flatMap fun b =>
      let w := leNat (b.take 4)
      let h := rne (fp16.decode (leNat (b.drop 4)))
      (List.range 32).map fun i => (Contribution.value (if w.testBit i then fneg h else h))).take m.count

/-- A message of a collective (R268, R272): one that differs from the receiver's view of the step is rejected, and its contribution
taken as NaN. `p` is the port it came by. -/
def takeWave (p : Nat) (m : Message) (r : Reduction) (s : State) : Reduction × State :=
  if m.first < r.first then (r, s)
  else
    let j0 := m.first - r.first
    let ok := m.step == r.step && m.kind == r.kind && m.scaleGen == r.gen s j0
    let s := if ok then s else count (portCtr p 9) 1 s
    let vals := if ok then messageValues r.kind m else List.replicate m.count (Contribution.value fNan)
    let phase := if r.kind = 2 ∨ m.hop = 0 then 1 else m.hop
    let coord := if r.kind = 2 then m.src else coordOf s m.src (r.dims.getD (phase - 1) 0)
    let got := vals.zipIdx.foldl (fun (g : SMap Contribution) v => SMap.put g (gotKey phase coord (j0 + v.2)) v.1) r.got
    ({ r with got := got, rejected := r.rejected || !ok }, s)

/-- Hand a message of a collective to its command; `none` when that has not started (R268). -/
def reductionMessage (p : Nat) (m : Message) (s : State) : Option State :=
  match s.fab.reductions.find? fun r => r.group == m.group && r.seq == m.cmd with
  | some r =>
    let a := takeWave p m r s
    some (settleReduction a.1 a.2)
  | none => none

end Sys2Proof.Machine
end

