-- ==== Sys2Proof/Machine/Transfer.lean ====
section
/-!
DEFINITION. Data between devices and memories (09 R264, R279, R280, 11 R335): COPY, SEND, RECV, ALL_TO_ALL, GATHER_PARAMS, and
MESSAGE_RECEIVE. What management messages hold is the model's (log entry 47).
-/
namespace Sys2Proof.Machine

/-- Send bytes as raw messages of at most 16,384 (R267) for the command at place `n` of the order: the first has index `idx` and byte
offset `first`. -/
def sendRaw (n group dst tensor first : Nat) (cmd : W32) (idx vc : Nat) (data : List Byte) (s : State) : State :=
  (chunks 16384 data).zipIdx.foldl (fun s p => sendAs n dst (ownMessage s 3 group dst tensor (first + 16384 * p.2) cmd (idx + p.2) vc p.1) s) s

/-- Number of messages that carry `n` bytes. -/
def rawCount (n : Nat) : Nat := ceilDiv n 16384

/-- The parts of a range that read as poisoned, as offsets: lines whose committed log entries do not stand for them (R335, 07 R193). -/
def spansOf (s : State) (a n : Nat) : List (Nat × Nat) :=
  ((linesOf a n).filter fun l => viewPoison s (max (64 * l) a) (min (64 * l + 64) (a + n) - max (64 * l) a)).map fun l =>
    (max (64 * l) a - a, min (64 * l + 64) (a + n) - a)

/-- Ranges of poisoned parts, as many as one management message carries (R267: a body holds at most 16,384 bytes). -/
def spanChunks (xs : List (Nat × Nat)) : List (List (Nat × Nat)) := if xs.isEmpty then [[]] else chunks 1000 xs

/-- Send the poisoned parts of data in management messages from index `idx` on: some words, whether the message is the last, the parts. -/
def sendSpans (n dst type : Nat) (head : List Nat) (spans : List (Nat × Nat)) (cmd : W32) (idx vc : Nat) (s : State) : State :=
  let cs := spanChunks spans
  cs.zipIdx.foldl (fun s p =>
    let ws := head ++ [b2n (p.2 + 1 == cs.length)] ++ p.1.flatMap fun x => [x.1, x.2]
    sendAs n dst (ownMessage s 5 noGroup dst 0 0 cmd (idx + p.2) vc (mgmt type ws)) s) s

/-- Write the bytes at offset `off` of a transfer to address `a`, and poison every line that receives a byte of a poisoned part. -/
def writeSpans (a off : Nat) (bs : List Byte) (spans : List (Nat × Nat)) (s : State) : State :=
  spans.foldl (fun s p =>
    let lo := max p.1 off
    let hi := min p.2 (off + bs.length)
    if lo < hi then devPoisonRange (a + lo - off) (hi - lo) s else s) (devWrite a bs s)

/-- Device pieces of a byte range of an embedding table: row pages, without their unused tails (07 R180; log entry 48). -/
def tablePieces (s : State) (b : Tab) : Nat → Nat → Nat → List (Nat × Nat)
  | 0, _, _ => []
  | fuel + 1, off, n =>
    if n = 0 then []
    else
      let pb := b.pl.rowsPerPage * b.form.stripBytes b.d
      let k := min n (pb - off % pb)
      let base := match SMap.find s.ple.dir (dirKey b.id (off / max 1 pb)) with | some e => e.page | none => nearSize
      (base + off % pb, k) :: tablePieces s b fuel (off + k) (n - k)

/-- Device pieces of a range in space 1: tensor and byte offset, of a replica of a locked set (02 R51). -/
def tensorPieces (s : State) (t off n rep : Nat) : List (Nat × Nat) :=
  match tabOf s t with
  | some b => tablePieces s b (n / 64 + 2) off n
  | none => match tensorPl s t with | some p => [(p.dpa + rep * p.rep + off, n)] | none => []

/-- An access to some pieces reaches a hole (07 R174). -/
def noteHoles (ps : List (Nat × Nat)) (s : State) : State :=
  if ps.any fun p => (linesOf p.1 p.2).any fun l => isHole s (64 * l) then badAddr s else s

/-- Read pieces: the bytes, where a committed log entry stands for its row (07 R193), and their poisoned parts. -/
def readPieces (s : State) (ps : List (Nat × Nat)) : List Byte × List (Nat × Nat) :=
  ps.foldl (fun (a : List Byte × List (Nat × Nat)) p =>
    (a.1 ++ devView s p.1 p.2, a.2 ++ (spansOf s p.1 p.2).map fun x => (x.1 + a.1.length, x.2 + a.1.length))) ([], [])

/-- The record in half `h` of a LAYER_STATS slot: the current copy, then the closed one (05 R133, Table 5.7; log entry 14). -/
def slotBytes2 (s : State) (slot h : Nat) : Option (List Byte) :=
  (match s.ple.placement with | some p => p.slots[slot]? | none => none).map fun k =>
    let m := if h = 0 then slotRecords s s.prc.cur else s.prc.closed
    match SMap.find m k with | some r => statBytes k r | none => List.replicate 256 0

/-- The bytes of the near tier that hold the tables of the device: recipes and steering states (05 R127, Table 5.6), LAYER_STATS records
(R134), ring contexts (11 R313) and context entries (R316). The state keeps these tables by name (log entries 13 and 14). -/
def tableByte (s : State) (a : Nat) : Option Byte :=
  let rec_ := s.act.recipeBase.toNat
  let ring := s.act.ringBase.toNat
  let ctx := s.act.ctxBase.toNat
  let within (b n : Nat) : Bool := decide (b ≤ a) && decide (a < b + n)
  if within rec_ (2 ^ 20) then some (BitVec.ofNat 8 ((SMap.get s.prc.recipes ((a - rec_) / 64) 0).toNat / 256 ^ ((a - rec_) % 64)))
  else if within (rec_ + 2 ^ 20) (2 ^ 17) then
    some (BitVec.ofNat 8 ((steerWord (steerOf s ((a - rec_ - 2 ^ 20) / 8))).toNat / 256 ^ ((a - rec_) % 8)))
  else if within s.act.statsBase.toNat (512 * s.act.statsSize.toNat) then
    (slotBytes2 s ((a - s.act.statsBase.toNat) / 512) ((a - s.act.statsBase.toNat) % 512 / 256)).map fun b =>
      b.getD ((a - s.act.statsBase.toNat) % 256) 0
  else if within ring (2 ^ 26) then some ((wordsBytes (ringOf s ((a - ring) / 64)).words).getD ((a - ring) % 64) 0)
  else if within ctx 2621440 then some ((wordsBytes (ctxOf s ((a - ctx) / 64)).words).getD ((a - ctx) % 64) 0)
  else none

/-- Read a range of space 2: the device's tables read as what they hold. -/
def readSpace2 (s : State) (a n : Nat) : List Byte × List (Nat × Nat) :=
  let r := readPieces s [(a, n)]
  (r.1.zipIdx.map fun p => (tableByte s (a + p.2)).getD p.1, r.2)

/-- The part of some pieces from an offset on. -/
def cutPieces (ps : List (Nat × Nat)) (off n : Nat) : List (Nat × Nat) :=
  (ps.foldl (fun (a : Nat × List (Nat × Nat)) p =>
    let lo := max a.1 off
    let hi := min (a.1 + p.2) (off + n)
    (a.1 + p.2, if lo < hi then a.2 ++ [(p.1 + lo - a.1, hi - lo)] else a.2)) (0, [])).2

/-- Write pieces. -/
def writePieces (ps : List (Nat × Nat)) (data : List Byte) (spans : List (Nat × Nat)) (s : State) : State :=
  (ps.foldl (fun (a : Nat × State) p => (a.1 + p.2, writeSpans p.1 a.1 ((data.drop a.1).take p.2) spans a.2)) (0, s)).2

/-- Fields of COPY (11 Table 11.10). -/
def Desc.srcSpace (d : Desc) : Nat := bits d.w4 63 62
def Desc.dstSpace (d : Desc) : Nat := bits d.w4 61 60
def Desc.remote (d : Desc) : Bool := bit d.w4 59
def Desc.copyDevice (d : Desc) : Nat := bits d.w4 58 49
def Desc.copyBytes (d : Desc) : Nat := bits d.w4 39 0
def spaceTensor (w : W64) : Nat := bits w 63 40
def spaceOffset (w : W64) : Nat := bits w 39 0

/-- Byte offset by which a message names a place in a replica's part of a tensor, and what it names (02 R51, R267; log entry 104). -/
def repFirst (s : State) (t off rep : Nat) : Nat :=
  match tabOf s t, tensorPl s t with | none, some p => rep * p.rep + off | _, _ => off
def repOf (s : State) (t first : Nat) : Nat × Nat :=
  match tabOf s t, tensorPl s t with | none, some p => if p.rep = 0 then (0, first) else (first / p.rep, first % p.rep) | _, _ => (0, first)

/-- A range of space 1 is wrong: the tensor is unknown, or ends before it (R335). -/
def spaceBad (s : State) (w : W64) (n i : Nat) : Option Result :=
  match tensorPl s (spaceTensor w) with
  | none => some (descErr 0x05 i)
  | some p => if p.bytes < spaceOffset w + n then some (descErr 0x07 i) else none

/-- A range lies inside a region in section 8 of the placement report (R335), or inside the rule table, which the driver has
no other way to write (08 R217; log entry 55). -/
def inRegion (s : State) (a n : Nat) : Bool :=
  let inside (r : Nat × Nat) : Bool := decide (r.1 ≤ a) && decide (a + n ≤ r.1 + r.2)
  inside (s.act.ruleBase.toNat, 2 ^ 20) || (match s.ple.placement with | some p => p.regions.any inside | none => false)

/-- Checks of COPY (R335, R336); the target of a remote one checks its range. -/
def copyCheck (s : State) (_ : Ring) (c : Cmd) : Option Result :=
  let d := c.desc
  let n := Desc.copyBytes d
  if Desc.srcSpace d = 3 ∨ Desc.dstSpace d = 3 ∨ (Desc.remote d && (Desc.dstSpace d != 1 || !decide (Desc.copyDevice d < deviceCount s))) then
    some (descErr 0x07 4)
  else
    match (if Desc.srcSpace d = 1 then spaceBad s d.w2 n 2 else none) with
    | some e => some e
    | none =>
      if Desc.remote d then none
      else if Desc.dstSpace d = 1 then spaceBad s d.w3 n 3
      else if Desc.dstSpace d = 2 && !inRegion s d.w3.toNat n then some (descErr 0x09 3) else none

/-- A tensor of space 1 lies on a unit that is gone (15 R450). -/
def spaceLost (s : State) (space : Nat) (w : W64) : Bool :=
  space == 1 && (tabOf s (spaceTensor w)).isNone && (match tensorPl s (spaceTensor w) with | some p => isHole s p.dpa | none => false)

/-- Pieces of a device space, of a replica of a locked set. -/
def spacePieces (s : State) (space : Nat) (w : W64) (n rep : Nat) : List (Nat × Nat) :=
  if space = 1 then tensorPieces s (spaceTensor w) (spaceOffset w) n rep else [(w.toNat, n)]

/-- A new transfer of a command. -/
def newTransfer (q : Nat) (c : Cmd) (kind peer vc tag bytes addr : Nat) (cmd : W32) : Transfer :=
  { ring := q, index := c.index, kind := kind, peer := peer, vc := vc, tag := tag, bytes := bytes, addr := addr, pieces := [], cmd := cmd, bound := false
    spans := [], missing := bytes, data := [], head := [], poisoned := false, order := 0, rep := 0, rejected := false, done := none }

/-- Two transfers are one command's on one replica. -/
def Transfer.same (t x : Transfer) : Bool := x.ring == t.ring && x.index == t.index && x.rep == t.rep

def addTransfer (t : Transfer) (s : State) : State := { s with fab := { s.fab with transfers := s.fab.transfers ++ [t] } }
def putTransfer (t : Transfer) (s : State) : State :=
  { s with fab := { s.fab with transfers := s.fab.transfers.map fun x => if Transfer.same t x then t else x } }

/-- A transfer completes on its replica, and its command with the last of its replicas (02 R52). -/
def endTransfer (t : Transfer) (r : Result) (s : State) : State :=
  let s := { s with fab := { s.fab with transfers := s.fab.transfers.filter fun x => !Transfer.same t x } }
  let all := joinDone t.done r
  match s.fab.transfers.find? fun x => x.ring == t.ring && x.index == t.index with
  | some x => putTransfer { x with done := some (joinDone x.done all) } s
  | none => finishIndex t.ring t.index all s

/-- The status of a transfer of data. -/
def dataResult (poisoned : Bool) : Result := stResult (if poisoned then stPoisoned else stOk)

/-- The bytes that COPY reads on a replica, and the runs of them that are poisoned. -/
def copySource (s : State) (d : Desc) (rep : Nat) : List Byte × List (Nat × Nat) :=
  let n := Desc.copyBytes d
  if Desc.srcSpace d = 0 then (hostRead s d.w2.toNat n, [])
  else if Desc.srcSpace d = 2 then readSpace2 s d.w2.toNat n
  else readPieces s (spacePieces s (Desc.srcSpace d) d.w2 n rep)

/-- The pages that COPY reads on a replica are touched; a hole among them sets BAD_ADDR. -/
def copyTouch (s : State) (d : Desc) (rep : Nat) : State :=
  if Desc.srcSpace d = 0 then s
  else
    let ps := spacePieces s (Desc.srcSpace d) d.w2 (Desc.copyBytes d) rep
    ps.foldl (fun s p => touch p.1 p.2 s) (noteHoles ps s)

/-- A COPY to another device, on one replica (02 R51), sends its bytes and then messages that tell where they belong (log entry 47). -/
def copyRemote (q : Nat) (c : Cmd) (s : State) (rep : Nat) : State :=
  let d := c.desc
  let n := Desc.copyBytes d
  let src := copySource s d rep
  let o := takeOrder (copyTouch s d rep)
  let cmd := nextCmd o.2
  let dev := Desc.copyDevice d
  let first := repFirst s (spaceTensor d.w3) (spaceOffset d.w3) rep
  let t := { newTransfer q c 3 dev 6 0 n 0 cmd.1 with poisoned := !src.2.isEmpty, rep := rep }
  let s := sendRaw o.1 noGroup dev (spaceTensor d.w3) first cmd.1 0 6 src.1 cmd.2
  addTransfer t (sendSpans o.1 dev mCopyEnd [spaceTensor d.w3, first, n] src.2 cmd.1 (rawCount n) 6 s)

/-- A COPY into module memory stores its bytes with their poison; one of a tensor from host memory is digested for a record. -/
def copyStore (r : Ring) (c : Cmd) (src : List Byte × List (Nat × Nat)) (rep : Nat) (s : State) : State :=
  let d := c.desc
  let ps := spacePieces s (Desc.dstSpace d) d.w3 (Desc.copyBytes d) rep
  let s := writePieces ps src.1 src.2 (noteHoles ps s)
  let t := spaceTensor d.w3
  let elems := match tensorEnt s t with | some e => e.rows * e.k | none => 0
  if Desc.srcSpace d = 0 ∧ Desc.dstSpace d = 1 ∧ rep = 0 then formDigest 0 t (Desc.micro d) (cmdBeat s r c) src.1 elems s else s

/-- A COPY within this device, on one replica (02 R51): whether it read a poisoned line, and the state. -/
def copyLocal (r : Ring) (c : Cmd) (a : Bool × State) (rep : Nat) : Bool × State :=
  let d := c.desc
  let src := copySource a.2 d rep
  let s := copyTouch a.2 d rep
  (a.1 || !src.2.isEmpty, if Desc.dstSpace d = 0 then hostWrite s d.w3.toNat src.1 else copyStore r c src rep s)

/-- Replicas that a command of a ring runs on, one after the other (02 R51). -/
def ringReplicas (s : State) (r : Ring) : List Nat := if r.stageRing then List.range (stageReplicas s r.stage.toNat) else [0]

/-- COPY (R335): every replica of a locked set executes it (02 R51; log entry 104). -/
def copyBody (q : Nat) (r : Ring) (c : Cmd) (s : State) : Phase × State :=
  let d := c.desc
  let ss := Desc.srcSpace d
  let ds := Desc.dstSpace d
  if (ss = 0 ∨ ds = 0) ∧ !hostOk s r.context.toNat then (.finished (stResult stAccess), s)
  else if spaceLost s ss d.w2 || (!Desc.remote d && spaceLost s ds d.w3) then (.finished (stResult stFault), s)
  else if Desc.remote d then (.started (now s), (ringReplicas s r).foldl (copyRemote q c) s)
  else
    let a := (ringReplicas s r).foldl (copyLocal r c) (false, s)
    (.finished (dataResult a.1), a.2)

/-- Fields of SEND and RECV (11 Table 11.10). -/
def Desc.peerDevice (d : Desc) : Nat := bits d.w3 63 54
def Desc.sendVc (d : Desc) : Nat := bits d.w3 53 51
def Desc.matchTag (d : Desc) : Nat := bits d.w3 31 0
def Desc.sendBytes (d : Desc) : Nat := bits d.w4 39 0

/-- Checks of SEND and RECV. -/
def sendCheck (s : State) (_ : Ring) (c : Cmd) : Option Result :=
  let d := c.desc
  match operandCheck s d [2] [] [] with
  | some e => some e
  | none =>
    if (Desc.sendVc d ≠ 3 ∧ Desc.sendVc d ≠ 4) ∨ deviceCount s ≤ Desc.peerDevice d then some (descErr 0x07 3) else none

/-- Device pieces of `n` bytes of an operand on a replica, and the key of its half. -/
def operandPieces (s : State) (o : Operand) (beat rep n : Nat) : List (Nat × Nat) :=
  match locate s o beat rep none with | some l => l.pieces s o.first n | none => [(nearSize, n)]
def operandHalf (s : State) (o : Operand) (beat rep : Nat) : Nat := match locate s o beat rep none with | some l => l.key | none => 0

/-- A SEND on one replica (R335, 02 R51): it waits for the matching RECV. -/
def sendStart (q : Nat) (c : Cmd) (beat : Nat) (s : State) (rep : Nat) : State :=
  let d := c.desc
  let o := takeOrder s
  let cmd := nextCmd o.2
  let x := operand d.w2
  addTransfer { newTransfer q c 0 (Desc.peerDevice d) (Desc.sendVc d) (Desc.matchTag d) (Desc.sendBytes d) 0 cmd.1 with
    order := o.1, rep := rep, pieces := operandPieces s x beat rep (Desc.sendBytes d), head := [operandHalf s x beat rep] } cmd.2

/-- SEND (R335): every replica of a locked set executes it (02 R51). -/
def sendBody (q : Nat) (r : Ring) (c : Cmd) (s : State) : Phase × State :=
  (.started (now s), (ringReplicas s r).foldl (sendStart q c (cmdBeat s r c)) s)

/-- A RECV on one replica (R335, 02 R51): it tells the peer that it is there. -/
def recvStart (q : Nat) (c : Cmd) (beat : Nat) (s : State) (rep : Nat) : State :=
  let d := c.desc
  let o := operand d.w2
  let ps := operandPieces s o beat rep (Desc.sendBytes d)
  let s := match locate s o beat rep (some (tensorForm s (operandTensor s o))) with
    | some l => setHalf l.key { form := some l.form, poisoned := false } s
    | none => s
  let t := { newTransfer q c 1 (Desc.peerDevice d) (Desc.sendVc d) (Desc.matchTag d) (Desc.sendBytes d) 0 0 with rep := rep, pieces := ps }
  tell (Desc.peerDevice d) mRecvReady [Desc.sendVc d, Desc.matchTag d, Desc.sendBytes d] (addTransfer t s)

/-- RECV (R335): every replica of a locked set executes it (02 R51). -/
def recvBody (q : Nat) (r : Ring) (c : Cmd) (s : State) : Phase × State :=
  let beat := cmdBeat s r c
  let reps := ringReplicas s r
  if reps.any fun rep => lostOperand s (operand c.desc.w2) beat rep then (.finished (stResult stFault), s)
  else (.started (now s), reps.foldl (recvStart q c beat) s)

/-- Fields of ALL_TO_ALL (11 Table 11.10). -/
def Desc.a2aMode (d : Desc) : Nat := bits d.w4 63 48
def Desc.a2aTable (d : Desc) : Nat := bits d.w4 23 0

/-- Checks of ALL_TO_ALL (09 R266, 11 R336). -/
def a2aCheck (s : State) (_ : Ring) (c : Cmd) : Option Result :=
  let d := c.desc
  match operandCheck s d [2, 3] [] [] with
  | some e => some e
  | none =>
    if operandRows s (operand d.w2) < (operand d.w2).first then some (descErr 0x07 2)
    else if tensorK s (operandTensor s (operand d.w2)) ≠ tensorK s (operandTensor s (operand d.w3)) then some (descErr 0x07 3)
    else if 1 < Desc.a2aMode d then some (descErr 0x07 4)
    else if Desc.a2aMode d = 0 ∧ (tabOf s (Desc.a2aTable d)).isNone then some (descErr 0x05 4)
    else if !groupOk s (Desc.group d) then some (descErr 0x09 4) else none

/-- Rows of the source that a member receives (10 R299; log entry 49): mode 0 by the owner of the row's page, mode 1 equal parts in
order of device ID. -/
def a2aRows (s : State) (d : Desc) (rows : Nat) (members : List Nat) (dev : Nat) : List Nat :=
  if Desc.a2aMode d = 0 then
    let rpp := match tablePl s (Desc.a2aTable d) with | some t => max 1 t.rowsPerPage | none => 1
    (List.range rows).filter fun r => r / rpp % max 1 (deviceCount s) == dev
  else
    match members.idxOf? dev with
    | some i =>
      let a := rangeStart rows members.length i
      (List.range (rangeStart rows members.length (i + 1) - a)).map fun j => a + j
    | none => []

/-- Strips of the listed rows of a source. -/
def stripsOf (s : State) (l : Loc) (first : Nat) (rows : List Nat) : List Byte := rows.flatMap fun r => l.bytes s (first + r) 0 l.stride

/-- ALL_TO_ALL starts from `l` to `w` on a replica (R280): every member's part leaves; each member's part lies in DST in order of device
ID (log entry 49). `head` of its transfer holds the step it knows (R268). -/
def a2aStart (q : Nat) (c : Cmd) (l w : Loc) (beat rep : Nat) (s : State) : State :=
  let d := c.desc
  let src := operand d.w2
  let rows := operandRows s src - src.first
  let g := Desc.group d
  let ms := groupMembers s g
  let bad := operandPoison s src beat rep rows
  let part := (a2aRows s d rows ms (myDevice s)).length * l.stride
  let ps := w.pieces s (operand d.w3).first (part * ms.length)
  let o := takeOrder (setHalf w.key { form := some l.form, poisoned := false } (touchRows l src.first rows s))
  let seq := nextSeq g o.2
  let vc := groupVc (groupWord s g)
  let out := ms.foldl (fun (a : Nat × State) dev =>
    let data := stripsOf s l src.first (a2aRows s d rows ms dev)
    if dev = myDevice s then (a.1, writePieces (cutPieces ps (part * (ms.idxOf dev)) data.length) data [] a.2)
    else (a.1 + rawCount data.length, sendRaw o.1 g dev l.tensor 0 seq.1 a.1 vc data a.2)) (0, seq.2)
  let t := { newTransfer q c 2 0 vc g part 0 seq.1 with
    pieces := ps, bound := true, missing := part * (ms.length - 1), head := [(stepNo s).toNat], poisoned := bad, rep := rep }
  addTransfer t out.2

/-- ALL_TO_ALL on one replica (02 R51). -/
def a2aReplica (q : Nat) (c : Cmd) (beat : Nat) (s : State) (rep : Nat) : State :=
  match locate s (operand c.desc.w2) beat rep none with
  | none => s
  | some l =>
    match locate s (operand c.desc.w3) beat rep (some l.form) with
    | none => s
    | some w => a2aStart q c l w beat rep s

/-- The effect of ALL_TO_ALL: every replica of a locked set executes it (02 R51). -/
def a2aBody (q : Nat) (r : Ring) (c : Cmd) (s : State) : Phase × State :=
  let ops := [operand c.desc.w2, operand c.desc.w3]
  let beat := cmdBeat s r c
  let reps := ringReplicas s r
  if reps.any fun rep => ops.any fun o => lostOperand s o beat rep || (locate s o beat rep none).isNone then (.finished (stResult stFault), s)
  else (.started (now s), reps.foldl (a2aReplica q c beat) s)

/-- The masters of a layer, in flat order (08 R214). -/
def masterRows (s : State) (l : LayerEnt) (p : LayerPl) : List (List Fv) :=
  chunks l.k (((stripWords s p.now.hi l.k l.n).zip (stripExts s p.now.lo l.k l.n)).map fun x => m40Value x.1 x.2)

/-- Where the strips of working weights under conversion stand; their raisins start from nothing. -/
def weightLoc (s : State) (l : LayerEnt) (f : Form) : Loc :=
  let p := tensorPl s l.weight
  { tensor := l.weight, form := f, dpa := 0, stride := f.stripBytes l.k, rpp := 0, raisin := 2 ^ 62, outlier := 0, ext := 0, book := 0
    scale := (match p with | some t => t.scale | none => 0), entries := (match p with | some t => t.entries | none => 0), k := l.k
    sliceRows := (match tensorEnt s l.weight with | some e => e.sliceRows | none => 0), key := 0 }

/-- The masters of a layer, or of a scale entry that its conversion reads, are poisoned (07 R177). -/
def mastersPoison (s : State) (l : LayerEnt) (p : LayerPl) (loc : Loc) : Bool :=
  stripPoison s p.now.hi l.k l.n || devPoison s p.now.lo (l.n * roundUp 64 l.k) ||
    (loc.form.mode == 3 && devPoison s loc.scale (8 * loc.entries))

/-- Working weights in a form from converted rows. -/
def weightsOfRows (step : W64) (f : Form) (scale : F32) (side : List F32) (poisoned : Bool) (c : ConvOut) : Weights :=
  { step := step, from_ := 0, form := f, scale := scale, data := c.rows.flatMap fun x => packStrip f x.2.scales (x.2.elems.map (·.code))
    raisins := c.slots.flatMap (·.2), outliers := side, codebook := [], sums := [], poisoned := poisoned, tables := true }

/-- Working weights in CB4: codes and codebook are free values of the masters (log entry 50). -/
def weightsCb4 (step : W64) (f : Form) (l : LayerEnt) (side : List F32) (poisoned : Bool) (rows : List (List Fv)) : Weights :=
  let xs := rows.flatten.map rne
  { step := step, from_ := 0, form := f, scale := fOne, data := (List.range (l.n * f.stripBytes l.k)).map (Config.cb4Weight xs false)
    raisins := [], outliers := side, codebook := (List.range (32 * ceilDiv l.n 128)).map (Config.cb4Weight xs true), sums := []
    poisoned := poisoned, tables := false }

/-- Working weights of a layer from its masters (01 R27, 05 R138, R149): a raisin overflow repeats the conversion at the next wider
rung. All its conversions count under the layer's first LUE, which the manual does not say (DESIGN CHOICE, log entry 50; R131). -/
def gatherWeights (l : LayerEnt) (p : LayerPl) (step : W64) : Nat → Nat → Nat → State → Nat × Weights × State
  | fuel, rung, n, s =>
    let f := weightForm s l.layer rung
    let outs := layerOutliers s l
    let loc := weightLoc s l f
    let unit := 0x800 + p.lues.headD 0
    let rid := layerRecipeId s l.layer
    let cv : Conv :=
      { seed := seedNow s, step := step.toNat % 2 ^ 32, micro := 0, grad := false, ieee := Recipe.ieee (layerRecipe s l.layer)
        ouvut := ouvutLayer s l.layer, owner := some (l.layer, 1, rid, rung), unit := fun _ _ => unit }
    let rows := masterRows s l p
    let side := outs.flatMap fun k => rows.map fun xs => rne (xs.getD k (.fin false 0 0))
    let poisoned := mastersPoison s l p loc
    if f.fmt = 15 then (n, weightsCb4 step f l side poisoned rows, s)
    else
      let scale := if tensorPl s l.weight = none then fOne else (scaleEntry s loc.scale).1
      let c := convertRowsWith outs cv s loc 0 rows
      let s := countConvWith outs cv loc c s
      match fuel with
      | fuel + 1 =>
        if 0 < c.surplus && decide (rung < 4) then
          let s := updStat (statKey l.layer 1 unit) rid rung (StatRec.repeat (rung + 1 == 4)) s
          gatherWeights l p step fuel (rung + 1) (n + 1) (raise 0x21 (repeatPayload l.layer rid 0x1FF rung (rung + 1) 4 0) s)
        else (n, weightsOfRows step f scale side poisoned c, markNonfiniteWith outs cv loc c s)
      | 0 => (n, weightsOfRows step f scale side poisoned c, s)

/-- The owner can serve a request for step `n` (01 R27). -/
def gatherReady (s : State) (n : Nat) : Bool :=
  if s.upd.lastStep = noStep then (match s.upd.step with | some o => decide (n ≤ o.num.toNat) | none => true)
  else decide (n ≤ s.upd.lastStep.toNat + 1)

/-- Words that announce working weights, and their bytes. -/
def weightWords (w : Weights) (repeats : Nat) : List Nat :=
  [b2n w.poisoned, w.form.fmt.toNat, w.form.mode, b2n w.form.b32, b2n w.form.esc, w.form.cap, w.scale.toNat, w.data.length,
    w.raisins.length, w.outliers.length, w.codebook.length, repeats]
def gatherBytes (w : Weights) : List Byte := w.data ++ w.raisins ++ wordBytes w.outliers ++ w.codebook

/-- Words that announce the table an owner has formed, and its codes: tensor, generation and number of codes (09 R270). -/
def tableWords (t : ScaleTable) : List Nat := match t.tensor with | some k => [k, t.gen.toNat, t.codes.length] | none => []
def tableCodes (t : ScaleTable) : List Byte := match t.tensor with | some _ => t.codes | none => []

/-- The rung at which working weights for a step are converted (05 R138): a decision fixed by the vote of step n governs those for later
steps, not those still asked for step n (log entry 153). -/
def gatherRung (s : State) (layer step : Nat) : Nat :=
  let voted := match s.upd.step with | some o => o.num.toNat | none => s.upd.lastStep.toNat
  if step ≤ voted ∧ (s.upd.step.isSome ∨ s.upd.lastStep ≠ noStep) then layerRung s layer else weightRung s layer

/-- A message of an owner's answer (R279, Table 9.5): the step asked for, and the generation of the scale table it brings. -/
def answerMessage (s : State) (kind dst : Nat) (step gen : W32) (cmd : W32) (idx first : Nat) (body : List Byte) : Message :=
  { ownMessage s kind noGroup dst 0 first cmd idx 2 body with step := step, scaleGen := gen }

/-- The owner serves a request (01 R27, 09 R270): what follows, then the bytes as raw messages on VC2, in the phases of an all-gather
(R277, R279). -/
def serveGather (m : Message) (s : State) : State :=
  match mgmtWords m with
  | [_, cmd, layer, only, step] =>
    let got : Nat × Option Weights × State :=
      match (if only = 1 then none else layerEnt s layer), layerPl s layer with
      | some l, some p => let g := gatherWeights l p (BitVec.ofNat 64 step) 4 (gatherRung s layer step) 0 s; (g.1, some g.2.1, g.2.2)
      | _, _ => (0, none, s)
    let o := takeOrder got.2.2
    let t := layerScales o.2 layer true
    let words := [cmd] ++ (match got.2.1 with | some w => weightWords w got.1 | none => List.replicate 12 0) ++ tableWords t
    let c : W32 := BitVec.ofNat 32 cmd ||| answerBit
    let gen : W32 := if t.tensor.isSome then t.gen else 0xFFFFFFFF#32
    let say (idx kind first : Nat) (body : List Byte) (s : State) : State :=
      sendDown o.1 m.src (answerMessage s kind m.src (BitVec.ofNat 32 step) gen c idx first body) s
    let data := (match got.2.1 with | some w => gatherBytes w | none => []) ++ tableCodes t
    (chunks 16384 data).zipIdx.foldl (fun s p => say (1 + p.2) 3 (16384 * p.2) p.1 s) (say 0 5 0 (mgmt mGatherHead words) o.2)
  | _ => s

/-- Cut a list into pieces of given lengths. -/
def cutBy : List Nat → List Byte → List (List Byte)
  | [], _ => []
  | n :: ns, bs => bs.take n :: cutBy ns (bs.drop n)

/-- The working weights that GATHER_PARAMS has fetched for a layer, with their column sums (04 R114). -/
def fetchedWeights (s : State) (layer step : Nat) (head : List Nat) (parts : List (List Byte)) : Weights :=
  let at_ (i : Nat) : Nat := head.getD i 0
  let form : Form := { fmt := BitVec.ofNat 8 (at_ 1), mode := at_ 2, b32 := at_ 3 == 1, esc := at_ 4 == 1, cap := at_ 5 }
  let w : Weights :=
    { step := BitVec.ofNat 64 step, from_ := nextBeat s, form := form, scale := BitVec.ofNat 32 (at_ 6), data := parts.getD 0 []
      raisins := parts.getD 1 [], outliers := (chunks 4 (parts.getD 2 [])).map fun b => BitVec.ofNat 32 (leNat b)
      codebook := parts.getD 3 [], sums := [], poisoned := at_ 0 == 1, tables := at_ 1 != 15 }
  match layerEnt s layer with | some l => Weights.withSums s l w | none => w

/-- GATHER_PARAMS has all its bytes (R270, R279): a new version of the working weights, and the layer's scale table. -/
def endGather (t : Transfer) (s : State) : State :=
  let head := t.head
  let layer := t.tag
  let at_ (i : Nat) : Nat := head.getD i 0
  let parts := cutBy [at_ 7, at_ 8, 4 * at_ 9, at_ 10, at_ 14] (t.data.flatMap (·.2))
  let w := fetchedWeights s layer t.addr head parts
  let s := if t.bytes = 1 then s else addWeights layer { w with poisoned := w.poisoned || t.rejected } s
  let s :=
    match layerPl s layer with
    | some p =>
      if head.length = 15 && !t.rejected then putTable p.wire { gen := BitVec.ofNat 32 (at_ 13), tensor := some (at_ 12), codes := parts.getD 4 [] } s else s
    | none => s
  endTransfer t (mkResult (if t.rejected then stFault else if at_ 0 = 1 then stPoisoned else stOk) 0 (at_ 11) 0) s

/-- Fields of GATHER_PARAMS (11 Table 11.10), and its checks (01 R27). -/
def Desc.gatherLayer (d : Desc) : Nat := bits d.w2 63 48
def gatherCheck (s : State) (_ : Ring) (c : Cmd) : Option Result :=
  match layerEnt s (Desc.gatherLayer c.desc), layerPl s (Desc.gatherLayer c.desc) with
  | some l, some _ => if l.rule.isNone then some (descErr 0x09 2) else none
  | _, _ => some (descErr 0x05 2)

/-- GATHER_PARAMS (01 R27): the owner is asked, be it this device. Of its transfer `tag` is the layer, `bytes` SCALES_ONLY and `addr`
the step. -/
def gatherBody (q : Nat) (_ : Ring) (c : Cmd) (s : State) : Phase × State :=
  let d := c.desc
  let layer := Desc.gatherLayer d
  let stage := match layerEnt s layer with | some l => l.stage | none => 0
  let only := bit d.w2 47
  if !only && condemnedTile s stage then (.finished (stResult stFault), s)
  else
    let owner := match layerPl s layer with | some p => p.owner | none => 0
    let cmd := nextCmd s
    let t := newTransfer q c 4 owner 2 layer (b2n only) d.w3.toNat cmd.1
    let ask := ownMessage cmd.2 5 noGroup owner 0 0 cmd.1 0 2 (mgmt mGatherAsk [cmd.1.toNat, layer, b2n only, d.w3.toNat])
    (.started (now s), sendTo owner ask (addTransfer t cmd.2))

/-- A transfer that the message belongs to. -/
def transferFor (s : State) (f : Transfer → Bool) : Option Transfer := s.fab.transfers.find? f

/-- A RECV has every byte (R335): both ends complete. -/
def endRecv (t : Transfer) (s : State) : State :=
  let bad := !t.spans.isEmpty
  tell t.peer mRecvDone [t.vc, t.tag, b2n bad] (endTransfer t (dataResult bad) s)

/-- A message of an ALL_TO_ALL (R268, R280): it is written by FIRST and SRC. One that differs in STEP, SCALE_GEN or KIND is rejected: the
command completes FAULT, and the lines the message covers are poisoned (log entry 129). -/
def a2aMessage (p : Nat) (m : Message) (t : Transfer) (s : State) : State :=
  let ps := cutPieces t.pieces (t.bytes * (groupMembers s m.group).idxOf m.src + m.first) m.body.length
  let ok := m.kind == 3 && m.step.toNat == t.head.headD 0 && m.scaleGen == 0xFFFFFFFF#32
  let s := if ok then writePieces ps m.body [] s else count (portCtr p 9) 1 (ps.foldl (fun s x => devPoisonRange x.1 x.2 s) s)
  putTransfer { t with missing := t.missing - m.body.length, rejected := t.rejected || !ok } s

/-- A message of an all-gather (R268, R279): one that differs from the own view in STEP, SCALE_GEN or KIND is rejected; the command completes
FAULT, and what it gathered reads as poisoned (log entry 129). -/
def gatherTake (p : Nat) (m : Message) (t : Transfer) (s : State) : State :=
  let gen : Nat := if t.head.length = 15 then t.head.getD 13 0 else 0xFFFFFFFF
  let ok := m.kind == 3 && m.step == BitVec.ofNat 32 t.addr && m.scaleGen.toNat == gen
  let s := if ok then s else count (portCtr p 9) 1 s
  let t := { t with missing := t.missing - m.body.length, data := SMap.put t.data m.first m.body, rejected := t.rejected || !ok }
  if t.missing = 0 then endGather t s else putTransfer t s

/-- Data of a raw message outside collectives (R280); that of a remote COPY is kept until its last message tells where it belongs. -/
def rawMessage (p : Nat) (m : Message) (s : State) : Option State :=
  match transferFor s fun t => t.kind == 1 && t.bound && t.peer == m.src && t.vc == m.vc && t.cmd == m.cmd with
  | some t =>
    let spans := (t.spans.filter fun x => decide (x.1 < m.first + m.body.length) && decide (m.first < x.2)).map fun x =>
      (max x.1 m.first - m.first, min x.2 (m.first + m.body.length) - m.first)
    let s := writePieces (cutPieces t.pieces m.first m.body.length) m.body spans s
    let t := { t with missing := t.missing - m.body.length }
    some (if t.missing = 0 then endRecv t s else putTransfer t s)
  | none =>
    (transferFor s fun t => t.kind == 4 && t.bound && t.peer == m.src && (t.cmd ||| answerBit) == m.cmd && m.vc == 2).map fun t =>
      gatherTake p m t s

/-- A message that carries data (R268): of a collective of its group and CMD, else of a transfer. -/
def dataMessage (p : Nat) (m : Message) (s : State) : Option State :=
  match reductionMessage p m s with
  | some s' => some s'
  | none =>
    match transferFor s fun t => t.kind == 2 && t.tag == m.group && t.cmd == m.cmd with
    | some t => some (a2aMessage p m t s)
    | none => if m.kind = 3 then rawMessage p m s else none

/-- A pair of numbers at a time. -/
def pairs : List Nat → List (Nat × Nat)
  | a :: b :: rest => (a, b) :: pairs rest
  | _ => []

/-- The RECV of a SEND is there (R335): its data leaves, or neither moves data. -/
def startSend (t : Transfer) (bytes : Nat) (s : State) : State :=
  if t.bytes = bytes then
    let got := readPieces s t.pieces
    let src := if (halfAt s (t.head.headD 0)).poisoned then (got.1, [(0, bytes)]) else got
    let s := putTransfer { t with bound := true, poisoned := !src.2.isEmpty } (t.pieces.foldl (fun s p => touch p.1 p.2 s) (noteHoles t.pieces s))
    let s := sendSpans t.order t.peer mSendData [t.tag] src.2 t.cmd 0 t.vc s
    sendRaw t.order noGroup t.peer 0 0 t.cmd (spanChunks src.2).length t.vc src.1 s
  else tell t.peer mSendFault [t.vc, t.tag] (endTransfer t (stResult stFault) s)

/-- A part of what a SEND announces has come: the RECV is bound with the last (R335). -/
def recvBound (m : Message) (last : Bool) (spans : List (Nat × Nat)) (t : Transfer) (s : State) : State :=
  let t := { t with bound := last, cmd := m.cmd, spans := t.spans ++ spans }
  if last && t.missing == 0 then endRecv t s else putTransfer t s

/-- Raw messages of a remote COPY that have come and wait for its end. -/
def copyKept (m : Message) (e : Nat × Message) : Bool :=
  e.2.kind == 3 && e.2.vc == 6 && e.2.group == noGroup && e.2.src == m.src && e.2.cmd == m.cmd

/-- A message that ends a remote COPY at its target (R335): where the range is good, the bytes that have come are written and lines with a
byte of a poisoned line are poisoned; after the last the write is acknowledged, or the COPY refused. -/
def copyArrived (m : Message) (tensor first n : Nat) (last : Bool) (spans : List (Nat × Nat)) (s : State) : State :=
  let at_ := repOf s tensor first
  let verdict : Nat := match tensorPl s tensor with | some p => if at_.2 + n ≤ p.bytes then 1 else 0 | none => 2
  let ps := tensorPieces s tensor at_.2 n at_.1
  let kept := s.fab.early.filter (copyKept m)
  let s := { s with fab := { s.fab with early := s.fab.early.filter fun e => !copyKept m e } }
  let s :=
    if verdict = 1 then
      let s := kept.foldl (fun s e => writePieces (cutPieces ps (e.2.first - first) e.2.body.length) e.2.body [] s) (if kept.isEmpty then s else noteHoles ps s)
      spans.foldl (fun s x => (cutPieces ps x.1 (x.2 - x.1)).foldl (fun s p => devPoisonRange p.1 p.2 s) s) s
    else s
  if last then tell m.src mCopyDone [m.cmd.toNat, verdict] s else s

/-- What is fetched has been announced to a GATHER_PARAMS. -/
def gatherBound (t : Transfer) (head : List Nat) (s : State) : State :=
  let at_ (i : Nat) : Nat := head.getD i 0
  let total := at_ 7 + at_ 8 + 4 * at_ 9 + at_ 10 + at_ 14
  let t := { t with bound := true, head := head, missing := total }
  if total = 0 then endGather t s else putTransfer t s

/-- A peer tells which of its ports are not UP (R263). -/
def peerTells (src : Nat) (ports : Nat) (s : State) : State :=
  let s := { s with fab := { s.fab with peerPorts := SMap.set s.fab.peerPorts src (BitVec.ofNat 32 ports) 0 } }
  reroute (setDetours s)

/-- The transfer that a management message names by its kind, VC and tag. -/
def namedTransfer (s : State) (m : Message) (ws : List Nat) (kind : Nat) (bound : Bool) : Option Transfer :=
  transferFor s fun t => t.kind == kind && t.bound == bound && t.peer == m.src && t.vc == ws.getD 0 0 && t.tag == ws.getD 1 0

/-- A management message (log entry 47); `none` when its command has not started. The bodies of VC0 are those of Table 11.14, which come
by commands of their own. -/
def management (m : Message) (s : State) : Option State :=
  match (if m.vc = 0 then [] else mgmtWords m) with
  | [] => some s
  | type :: ws =>
    let arg (i : Nat) : Nat := ws.getD i 0
    if type = mRecvReady then (namedTransfer s m ws 0 false).map fun t => startSend t (arg 2) s
    else if type = mSendData then
      (transferFor s fun t => t.kind == 1 && !t.bound && t.peer == m.src && t.vc == m.vc && t.tag == arg 0).map fun t =>
        recvBound m (arg 1 == 1) (pairs (ws.drop 2)) t s
    else if type = mSendFault then (namedTransfer s m ws 1 false).map fun t => endTransfer t (stResult stFault) s
    else if type = mRecvDone then (namedTransfer s m ws 0 true).map fun t => endTransfer t (dataResult (arg 2 == 1)) s
    else if type = mCopyEnd then some (copyArrived m (arg 0) (arg 1) (arg 2) (arg 3 == 1) (pairs (ws.drop 4)) s)
    else if type = mCopyDone then
      some (match transferFor s fun t => t.kind == 3 && t.peer == m.src && t.cmd.toNat == arg 0 with
        | some t => endTransfer t (if arg 1 = 1 then dataResult t.poisoned else descErr (if arg 1 = 2 then 0x05 else 0x07) 3) s
        | none => s)
    else if type = mGatherAsk then
      some (if gatherReady s (arg 3) then serveGather m s else { s with fab := { s.fab with requests := s.fab.requests ++ [m] } })
    else if type = mGatherHead then
      (transferFor s fun t => t.kind == 4 && !t.bound && t.peer == m.src && t.cmd.toNat == arg 0).map fun t => gatherBound t (ws.drop 1) s
    else if type = mPorts then some (peerTells m.src (arg 0) s)
    else if type = mLock then some (lockStateMessage (arg 0 == 1) s)
    else some s

/-- Hand a message that has arrived to its command; `none` when that has not started. Vote frames come by
VOTE_FRAME_RECEIVE. -/
def handleMessage (p : Nat) (m : Message) (s : State) : Option State :=
  if m.kind ≤ 3 then dataMessage p m s
  else if m.kind = 5 then management m s
  else some s

/-- A message for this device: taken, or kept until its command starts. -/
def takeMessage (p : Nat) (m : Message) (s : State) : State :=
  match handleMessage p m s with
  | some s' => s'
  | none => { s with fab := { s.fab with early := s.fab.early ++ [(p, m)] } }

/-- Messages of this device to itself. -/
def settleLoop : Nat → State → State
  | 0, s => s
  | fuel + 1, s =>
    match s.fab.loop with
    | [] => s
    | m :: rest => settleLoop fuel (takeMessage 32 m { s with fab := { s.fab with loop := rest } })

/-- Messages that came before their command are looked at again. -/
def retryEarly (s : State) : State := s.fab.early.foldl (fun s e => takeMessage e.1 e.2 s) { s with fab := { s.fab with early := [] } }

/-- Requests whose commit has come are served (01 R27). -/
def serveRequests (s : State) : State :=
  s.fab.requests.foldl (fun s m =>
    if gatherReady s ((mgmtWords m).getD 4 0) then serveGather m s else { s with fab := { s.fab with requests := s.fab.requests ++ [m] } })
    { s with fab := { s.fab with requests := [] } }

/-- ALL_TO_ALL completes once every part has come (R280). -/
def settleA2a (s : State) : State :=
  (s.fab.transfers.filter fun t => t.kind == 2 && t.missing == 0).foldl (fun s t =>
    let n := (groupMembers s t.tag).length
    endTransfer t (if t.rejected then stResult stFault else dataResult t.poisoned)
      (if t.poisoned then (cutPieces t.pieces 0 (t.bytes * n)).foldl (fun s p => devPoisonRange p.1 p.2 s) s else s)) s

/-- Whatever can go on after a command or a message does. -/
def settleFab (s : State) : State :=
  let s := serveRequests (retryEarly s)
  let s := s.fab.reductions.foldl (fun s r => settleReduction r s) s
  flushPorts (settleA2a (settleLoop 1048576 s))

/-- Key of a message's duplicate mark (R264). -/
def markKey (m : Message) : Nat := dupKey m.src m.vc m.group m.cmd

/-- A message for this device: marked, its arrival traced, and handed to its command (R264, 15 R443). -/
def messageHere (p : Nat) (m : Message) (s : State) : State :=
  let s := { s with fab := { s.fab with marks := SMap.put s.fab.marks (markKey m) (m.msgIndex.toNat + 1) } }
  let s := if m.msgIndex = 0 then trace 0x09 (0xA00 + p) 0 (tpWord2 m.src m.dst m.vc p) (m.cmd.setWidth 64) s else s
  settleFab (takeMessage p m s)

/-- MESSAGE_RECEIVE (R263, R264, R268, R272): its slots are freed; a message for another device goes on; a copy of one already taken is
discarded. -/
def messageReceive (p : Nat) (m : Message) (s : State) : State :=
  match peerOf s p with
  | none => s
  | some (k, z) =>
    if !alive s || !portUp s p then s
    else
      let s := oweSlots p m.vc (coordOf s m.src k != z) (msgSlots m) s
      let y := coordOf s m.dst k
      if m.dst ≠ myDevice s then
        if y ≠ latCoord s k then relayOut k y m s else if gatherMessage m then sendDown (takeOrder s).1 m.dst m (takeOrder s).2 else sendTo m.dst m s
      else if m.msgIndex.toNat < SMap.get s.fab.marks (markKey m) 0 then count (portCtr p 8) 1 s
      else messageHere p m s

def execMessageReceive (port : Nat) (msg : Message) (s : State) : Host.Outcome State Fault Refusal := .next (messageReceive port msg s)

/-- COPY (R335). -/
def execCopy (ring : Nat) (d : Desc) (s : State) : Host.Outcome State Fault Refusal :=
  .next (settleFab (runCmd opCopy { check := copyCheck, body := copyBody } ring d s))

/-- GATHER_PARAMS (01 R27, 09 R270, R279). -/
def execGatherParams (ring : Nat) (d : Desc) (s : State) : Host.Outcome State Fault Refusal :=
  .next (settleFab (runCmd opGatherParams { check := gatherCheck, body := gatherBody } ring d s))

/-- REDUCE_SCATTER (08 R210, 09 R277, R278). -/
def execReduceScatter (ring : Nat) (d : Desc) (s : State) : Host.Outcome State Fault Refusal :=
  .next (settleFab (runCmd opReduceScatter { check := reduceCheck, body := reduceBody } ring d s))

/-- ALL_TO_ALL (09 R280). -/
def execAllToAll (ring : Nat) (d : Desc) (s : State) : Host.Outcome State Fault Refusal :=
  .next (settleFab (runCmd opAllToAll { check := a2aCheck, body := a2aBody } ring d s))

/-- SEND (R335). -/
def execSend (ring : Nat) (d : Desc) (s : State) : Host.Outcome State Fault Refusal :=
  .next (settleFab (runCmd opSend { check := sendCheck, body := sendBody } ring d s))

/-- RECV (R335). -/
def execRecv (ring : Nat) (d : Desc) (s : State) : Host.Outcome State Fault Refusal :=
  .next (settleFab (runCmd opRecv { check := sendCheck, body := recvBody } ring d s))

end Sys2Proof.Machine
end

