-- ==== Sys2Proof/Machine/Boot.lean ====
section
/-!
DEFINITION. Boot (13 R388-R392, 15 R451), device reset and power (14 R418-R422, 16 R462-R464), the CXL link (12 R349), host
accesses to windows (10 R309, 12 R354, R355) and ATS invalidations (12 R353).
-/
namespace Sys2Proof.Machine

/-- Boot proceeds: power, no trip, PERST_N released (16 R463). -/
def booting (s : State) : Bool := s.pwr.powered && !s.pwr.tripped && s.pins.perstN

/-- XTAL_STABLE (R388): the always-on domain takes the crystal, the PLLs lock and every domain switches to its PLL. -/
def xtalStable (s : State) : State :=
  if booting s && s.glb.state == .bootRom then
    let s := setDomain 0 { domainOf s 0 with source := .crystal } { s with clk := { s.clk with xtalOk := true } }
    let s := (domainCodes.filter fun c => c != 0).foldl (fun s c =>
      setDomain c { source := .pll, low := 0, inReset := false, outOfService := false } s) s
    enterState .fwLoad (noteClocks s)
  else s

def execXtalStable (s : State) : Host.Outcome State Fault Refusal := .next (xtalStable s)

/-- XTAL_BOOT_TIMEOUT (Table 13.12). -/
def xtalBootTimeout (s : State) : State := if booting s && s.glb.state == .bootRom then halt s else s

def execXtalBootTimeout (s : State) : Host.Outcome State Fault Refusal := .next (xtalBootTimeout s)

/-- CONDEMN entries of the MRAM crumb log whose unit the retirement list lacks are appended to it (15 R451). -/
def appendCondemned (s : State) : State :=
  s.store.log.foldl (fun s c =>
    if c.kind = 0x30 && !(s.store.retired.any fun e => e.unit.toNat == c.subject.toNat) && s.store.retired.length < 4096 then
      let e : RetireEnt := { unit := c.subject.setWidth 16, cause := c.payload.setWidth 8, epoch := c.epoch, stamp := c.stamp }
      { s with store := { s.store with retired := s.store.retired ++ [e] } }
    else s) s

/-- A listed unit leaves the maps (15 R451 step 2). -/
def applyRetired (e : RetireEnt) (s : State) : State :=
  let i := e.unit.toNat % 4096
  match e.unit.toNat / 4096 with
  | 0 => { s with glb := { s.glb with tileMap := putBit s.glb.tileMap i false } }
  | 1 => { s with mem := { s.mem with colMap := putBit s.mem.colMap i false } }
  | 2 => { s with mem := { s.mem with farMap := putBit s.mem.farMap i false } }
  | 3 => setPort i { portAt s i with state := .retired } s
  | 4 => { s with upd := { s.upd with lueMap := putBit s.upd.lueMap i false } }
  | _ => s

/-- Firmware starts: MEM_TRAIN begins with the retirement list (15 R451). -/
def startFirmware (s : State) : State :=
  let s := appendCondemned (enterState .memTrain s)
  s.store.retired.foldl (fun s e => applyRetired e s) s

/-- FW_IMAGE_LOADED (R388-R390): a valid image starts, after its fuses are blown; any other leads to RECOVERY. -/
def fwImageLoaded (s : State) : State :=
  if booting s && s.glb.state == .fwLoad then
    let img := s.store.image
    if imageCheck s img = 0 then
      let rb := imgNat img 0x008 1
      let sec := { s.sec with verified := true, imageRollback := BitVec.ofNat 8 rb, fwDigest := imgBytes img 0x080 32 }
      startFirmware { s with fuses := { s.fuses with rollback := max s.fuses.rollback (min 64 rb) }, sec := sec
                             glb := { s.glb with fwVersion := BitVec.ofNat 32 (imgNat img 0x004 4) } }
    else enterState .recovery s
  else s

def execFwImageLoaded (s : State) : Host.Outcome State Fault Refusal := .next (fwImageLoaded s)

/-- A unit that fails training is condemned and retired at once (Table 13.12, 15 R448, R451: cause 11). -/
def trainingFailed (cls idx : Nat) (s : State) : State :=
  let s := condemn cls idx 11 s
  let s := { s with tiles := { s.tiles with condemned := s.tiles.condemned.filter fun c => !(c.1 == cls && c.2.1 == idx) } }
  retireUnit cls idx 11 s

/-- MEM_TRAINING_DONE (R388, Table 13.12, 15 R451). -/
def memTrainingDone (stks channels : List Nat) (s0 : State) : State :=
  if booting s0 && s0.glb.state == .memTrain then
    let s := (stks.flatMap fun k => (stackColumns k).filter fun c => columnOn s0 c).foldl (fun s c => trainingFailed 1 c s) s0
    let s := (channels.filter fun c => channelOn s c).foldl (fun s c => trainingFailed 2 c s) s
    if (List.range 1024).any fun c => columnOn s c then
      let s := enterState .link { s with mem := { s.mem with nearTrained := true, farTrained := true } }
      if s0.glb.linkUp then enterState .fabric s else s
    else halt s
  else s0

def execMemTrainingDone (failedStacks failedChannels : List Nat) (s : State) : Host.Outcome State Fault Refusal :=
  .next (memTrainingDone failedStacks failedChannels s)

/-- The link enables CXL.cache and CXL.mem (Table 12.2): 256-byte flits at x8 or x16. -/
def linkFull (width : Nat) (flit256 : Bool) : Bool := flit256 && (width == 8 || width == 16)

/-- The lines that FETCH_EN and ARM_EN hold are taken where CXL.cache is there, and given up where it is not (R349, 13 R376). -/
def holdLines (s : State) : State :=
  let arm := s.evc.armEn && s.glb.cacheMem
  let s := { s with evc := { s.evc with armHeld := arm } }
  let s := if arm then (s.evc.vec.map (·.1)).foldl (fun s k => checkVec k s) s else s
  if !s.glb.cacheMem then { s with qsu := { s.qsu with l1Held := false } }
  else if s.qsu.fetchEn && !s.qsu.l1Held && s.glb.state == .ready then fetchEnable { s with qsu := { s.qsu with fetchEn := false } }
  else s

/-- CXL_LINK_TRAINED (R349, Table 13.11). The training runs beside the other states of the boot (R388); LINK ends with it. -/
def cxlLinkTrained (width rateGT : Nat) (flit256 : Bool) (s : State) : State :=
  if booting s && rateGT ≤ 64 && s.glb.state != .halted then
    let ok := linkFull width flit256
    let t := holdLines { s with glb := { s.glb with linkUp := true, cacheMem := ok, linkDegraded := !ok } }
    if s.glb.state == .link then enterState .fabric t else t
  else s

def execCxlLinkTrained (width rateGT : Nat) (flit256 : Bool) (s : State) : Host.Outcome State Fault Refusal :=
  .next (cxlLinkTrained width rateGT flit256 s)

/-- FABRIC_READY (R388): READY. -/
def fabricReady (s : State) : State := if booting s && s.glb.state == .fabric then enterState .ready s else s

def execFabricReady (s : State) : Host.Outcome State Fault Refusal := .next (fabricReady s)

/-- What every reset keeps: the queue, what has left the device, host memory, fuses, flash, MRAM and pins; and what the root status records that
have been copied out stand for (08 R243, R473; log entry 119). -/
def coldState (s : State) : State :=
  { State.reset with
    pending := s.pending, out := s.out, freeCtr := s.freeCtr, host := s.host, fuses := s.fuses, store := s.store, pins := s.pins
    glb := resetGlb s.fuses.tiles, upd := { resetUpd with roots := s.upd.roots } }

/-- The reset epoch advances (12 R368). -/
def nextEpoch (s : State) : State := { s with store := { s.store with epoch := s.store.epoch + 1 } }

/-- A device reset (14 R421, Table 14.5): everything but the time base, the crumb log, the sideband's endpoint and RECOVERED
returns to reset; the boot runs again. -/
def deviceReset (s0 : State) : State :=
  let s := nextEpoch (crumb 0x21 3 2 (interruptUpdate s0))
  let c := coldState s
  let aon := domainOf s 0
  { c with
    clk := { resetClk with count := s.clk.count, xtalOk := s.clk.xtalOk, domains := SMap.set [] 0 aon (resetDomain 0) }
    glb := { c.glb with bootAt := s.clk.count }
    pwr := { resetPwr with lastMeasure := s.pwr.lastMeasure }
    sec := { resetSec with recovered := s.sec.recovered, mctpEid := s.sec.mctpEid }
    obs := { resetObs with crumbSeq := s.obs.crumbSeq, crumbs := s.obs.crumbs, queue := s.obs.queue, skipped := s.obs.skipped } }

/-- A reset of rung 3 from one of its sources. -/
def rung3 (s : State) : State := if s.pwr.powered && !s.pwr.tripped then deviceReset s else s

/-- GLB_DEVICE_RESET (12 Table 12.13). -/
def execGlbDeviceReset (key : W32) (s : State) : Host.Outcome State Fault Refusal :=
  .next (onBus 0x20 4 (fun s => if key = 0x0000A5C3 then deviceReset s else s) s)

def execHotReset (s : State) : Host.Outcome State Fault Refusal := .next (rung3 s)

/-- PERST_ASSERT (14 Table 14.4, 16 R463): a device reset, and the boot is held. -/
def perstAssert (s : State) : State :=
  let s := if s.pins.perstN then rung3 s else s
  { s with pins := { s.pins with perstN := false } }

def execPerstAssert (s : State) : Host.Outcome State Fault Refusal := .next (perstAssert s)

/-- PERST_RELEASE (R463): the boot starts. -/
def perstRelease (s : State) : State :=
  if s.pins.perstN then s
  else { s with pins := { s.pins with perstN := true }, glb := { s.glb with bootAt := s.clk.count } }

def execPerstRelease (s : State) : Host.Outcome State Fault Refusal := .next (perstRelease s)

/-- Power leaves every domain (14 R422): the RESET entry reaches MRAM first (16 Table 16.5). -/
def powerOff (s : State) : State :=
  if s.pwr.powered then
    let s := crumbFlush (crumb 0x21 4 3 (interruptUpdate s))
    let c := coldState s
    { c with pwr := { resetPwr with powered := false } }
  else s

/-- INPUT_LOSS (16 R462). -/
def execInputLoss (s : State) : Host.Outcome State Fault Refusal := .next (powerOff s)

/-- PWR_EN_RELEASE (14 R422, 16 R458: THERMTRIP_N is released with it). -/
def pwrEnRelease (s : State) : State :=
  let s := powerOff s
  { s with pins := { s.pins with pwrEn := false, thermtrip := false } }

def execPwrEnRelease (s : State) : Host.Outcome State Fault Refusal := .next (pwrEnRelease s)

/-- PWR_EN_ASSERT (16 R462): power-on with the input within 46-60 V; the time base starts at 0 and the epoch advances. -/
def pwrEnAssert (volt10mV : BitVec 16) (s : State) : State :=
  let s := { s with pins := { s.pins with pwrEn := true } }
  if !s.pwr.powered && decide (4600 ≤ volt10mV.toNat) && decide (volt10mV.toNat ≤ 6000) then
    let c := nextEpoch (coldState s)
    { c with obs := { resetObs with crumbSeq := c.store.mramSeq } }
  else s

def execPwrEnAssert (volt10mV : BitVec 16) (s : State) : Host.Outcome State Fault Refusal := .next (pwrEnAssert volt10mV s)

/-- RECOVERY_LOAD (R392): a valid image goes to flash and a device reset boots it; in other states it is BAD_OP. -/
def recoveryLoad (flashOk : Bool) (s : State) : State :=
  match recoveryCheck flashOk s with
  | some (w, r, img) =>
    let s := (boxTake 0 s).2
    let s := if r = 0 then { s with store := { s.store with image := img } } else if r = 6 then { s with store := { s.store with image := [] } } else s
    let s := reply 0 w r 0 s
    if r = 0 then deviceReset { s with sec := { s.sec with recovered := true } } else s
  | none =>
    match (List.range 16).find? fun p => turnOf s p && fwOp (boxWord s p) == 0x30 with
    | some p => if s.glb.state == .recovery then s else serve (fun op => op == 0x30) (fun p w s => reply p w 0x02 0 s) p s
    | none => s

def execRecoveryLoad (flashOk : Bool) (s : State) : Host.Outcome State Fault Refusal := .next (recoveryLoad flashOk s)

/-- The placed tensor whose window holds a range of the CXL.mem space, with the offset in it (10 R309, 12 R354). -/
def windowAt (s : State) (off n : Nat) : Option (Nat × Nat) :=
  match s.ple.placement with
  | none => none
  | some p =>
    p.tensors.findSome? fun t =>
      match t.window with
      | some w => if w ≤ off && off + n ≤ w + t.bytes && w + t.bytes ≤ hdmBytes then some (t.tensor, off - w) else none
      | none => none

/-- Device addresses of a range of a window; of an embedding table they lie in the pages of its row directory (12 R354). -/
def windowPieces (s : State) (w : Nat × Nat) (n : Nat) : List (Nat × Nat) := tensorPieces s w.1 w.2 n 0

/-- Size of the snoop filter in lines (12 R355). -/
def snoopLines : Nat := 1048576

/-- A line read by the host enters the filter; when it is full the least recently entered line leaves (12 R355). -/
def snoopEnter (l : Nat) (s : State) : State :=
  let rest := s.mem.snoop.filter fun x => x != l
  if rest.length < snoopLines then { s with mem := { s.mem with snoop := l :: rest } }
  else
    let s := match rest.getLast? with | some x => emit (.backInvalidate x) s | none => s
    { s with mem := { s.mem with snoop := l :: rest.dropLast } }

/-- A host write to one line of a window: no unit's access, so nothing is back-invalidated (12 R355). -/
def hostLine (a : Nat) (bs : List Byte) (s : State) : State :=
  if isHole s a then badAddr s
  else
    let poison := if bs.length = 64 then s.mem.poison.filter (fun x => x != a / 64) else s.mem.poison
    { s with mem := { s.mem with cells := Memory.write s.mem.cells a bs, poison := poison } }

/-- A host write to a window, piece by piece; a page group in its copy tick becomes dirty (07 R195). -/
def hostStore (ps : List (Nat × Nat)) (data : List Byte) (s : State) : State :=
  (ps.foldl (fun (a : Nat × State) p =>
    (a.1 + p.2, (linePieces (p.2 + 1) p.1 ((data.drop a.1).take p.2)).foldl (fun s l => hostLine l.1 l.2 s) (markDirty p.1 p.2 a.2))) (0, s)).2

/-- A host read of a window: what COPY reads there, with the committed values of logged rows (07 R193), and a hole noted (07 R174);
its lines enter the snoop filter. -/
def hostLoad (ps : List (Nat × Nat)) (s : State) : State :=
  let r := readPieces s ps
  let s := noteHoles ps s
  emit (.windowData (!r.2.isEmpty) r.1) ((ps.flatMap fun p => linesOf p.1 p.2).foldl (fun s l => snoopEnter l s) s)

/-- An access outside every window (10 R309). -/
def hdmMiss (write : Bool) (n : Nat) (s : State) : State :=
  let s := count (pleCtr 9) 1 { s with ple := { s.ple with hdmMiss := true } }
  if write then s else emit (.windowData true (List.replicate n 0)) s

/-- HOST_WINDOW_ACCESS (10 R309, 12 R354, R355); in RECOVERY the window is BAR4's (13 R392; log entry 27). A read gives as
many bytes as `data` has. -/
def hostWindow (write : Bool) (off : Nat) (data : List Byte) (s : State) : State :=
  let n := data.length
  if !s.pwr.powered || s.pwr.tripped then s
  else if s.glb.state == .recovery then
    if write then
      (List.range n).foldl (fun s i =>
        match recoveryAddr s (off + i) with
        | some a => { s with mem := { s.mem with cells := Memory.set s.mem.cells a (data.getD i 0) } }
        | none => s) s
    else emit (.windowData false (recoveryBytes s off n)) s
  else if s.glb.state != .ready || !s.glb.cacheMem || s.glb.d3hot then s
  else
    match windowAt s off n with
    | none => hdmMiss write n s
    | some w =>
      let ps := windowPieces s w n
      if write then hostStore ps data s else hostLoad ps s

def execHostWindowAccess (write : Bool) (offset : Nat) (data : List Byte) (s : State) : Host.Outcome State Fault Refusal :=
  .next (hostWindow write offset data s)

/-- ATS_INVALIDATION (12 R353): no request is outstanding between commands, so it completes at once; nothing is aborted. -/
def execAtsInvalidation (base bytes : Nat) (s : State) : Host.Outcome State Fault Refusal :=
  .next (if s.pwr.powered && s.glb.linkUp && s.glb.ats then
      emit (.atsComplete base bytes) { s with glb := { s.glb with atsSeen := s.glb.atsSeen + 1 } }
    else s)

end Sys2Proof.Machine
end

