-- ==== Sys2Proof/Machine/Digest.lean ====
section
/-!
DEFINITION. DIGEST and DUMP (15 R434, R435).
-/
namespace Sys2Proof.Machine

/-- The rows of an operand as a source, an embedding table's through its directory. Elements are decoded as stored (R167). -/
def anySource (s : State) (o : Operand) (beat rep : Nat) : Option RowSource :=
  match (if o.edge then none else tabOf s o.id) with
  | some b => some { tabSource s b with flush := false }
  | none => (operandSource s o beat rep).map fun src => { src with flush := false }

/-- Bytes of a strip from the first to that of its last element (03 R72-R75). -/
def stripUsed (f : Form) (k : Nat) : Nat :=
  let w := fmtWidth f.fmt.toNat
  if f.fmt = 16 then 4 * k
  else if f.block = 0 then ceilDiv (k * w) 8
  else k / f.block * f.blockBytes + (if k % f.block = 0 then 0 else 1 + ceilDiv (k % f.block * w) 8)

/-- An element as DIGEST takes it: of M40, the FP32 plane (R434). -/
def digestElems (src : RowSource) (r : Nat) : List Elem :=
  if src.form.fmt = 16 then
    ((chunks 4 ((src.strip r).1.take (4 * src.k))).map fun b => (BitVec.ofNat 32 (leNat b) : F32)).map fun v =>
      { heldElem 0 (some v) with raw := fv v, held := false }
  else (rowElems src r).1

/-- The stored code has the format's largest finite magnitude; for affine formats it is code 0 or the top code. -/
def atMax (f : Form) (e : Elem) : Bool :=
  let c := f.fmt.toNat
  if e.held then false
  else
    match e.raw with
    | .fin _ m x =>
      if c = 10 ∨ c = 12 then m == 0 || (Fv.fin false m x).eq (Fv.ofInt (if c = 10 then 255 else 15) 0)
      else if c = 15 then false
      else
        let t := if c = 16 then maxMag 0 else maxMag c
        magLe t.1 t.2 m x
    | _ => false

/-- Bin of a finite non-zero value. -/
def histBin (v : F32) : Nat :=
  match fv v with
  | .fin _ m e => (max 0 (min 31 (flog2 m e + 16))).toNat
  | _ => 0

/-- Elements stored as escapes in a row. -/
def escapeCount (src : RowSource) (r : Nat) : Nat :=
  ((unpackStrip src.form src.k (src.strip r).1).zipIdx.filter fun p => isEscape src.form.fmt.toNat p.1.1 && !src.outs.contains p.2).length

/-- A digest record (Table 15.4) of rows `first` to `first + n - 1`. -/
def digestRecord (s : State) (o : Operand) (micro first n : Nat) (src : RowSource) : List Byte :=
  let rows := (List.range n).map fun i => first + i
  let es := rows.flatMap fun r => digestElems src r
  let vs := es.map (·.val)
  let fin := vs.filter fun v => (fv v).finite
  let nz := fin.filter fun v => !(fv v).isZero
  let crc := crc32c (rows.flatMap fun r => (src.strip r).1.take (stripUsed src.form src.k))
  let mx := fin.foldl fmaxNum fNegInf
  let mn := fin.foldl fminNum fPosInf
  let w0 : W64 := at' 64 40 (operandTensor s o) ||| at' 64 32 src.form.fmt.toNat ||| at' 64 16 micro ||| at' 64 0 (b2n o.edge)
  let hist (j : Nat) : Nat := min (2 ^ 32 - 1) (nz.filter fun v => histBin v == j).length
  let two (a b : F32) : W64 := at' 64 32 a.toNat ||| b.setWidth 64
  let cnt (n : Nat) : W64 := BitVec.ofNat 64 (n % 2 ^ 40)
  wordsBytes ([w0, s.tkc.beat, stamp s, at' 64 32 (stepNo s).toNat ||| crc.setWidth 64, cnt es.length, two mx mn,
      two (lsum (vs.map fun v => fmul v v)) (lsum vs), cnt (fin.length - nz.length), cnt (es.filter (atMax src.form)).length,
      cnt (vs.length - fin.length), cnt ((rows.map (escapeCount src)).foldl (· + ·) 0)] ++ List.replicate 5 0 ++
    (List.range 16).map fun i => at' 64 32 (hist (2 * i + 1)) ||| at' 64 0 (hist (2 * i)))

/-- Checks of DIGEST (11 Tables 11.11 and 11.12). -/
def digestCheck (s : State) (_r : Ring) (c : Cmd) : Option Result :=
  let o := operand c.desc.w2
  match operandCheck s c.desc [2] [] [] with
  | some e => some e
  | none =>
    if operandRows s o < o.first then some (descErr 0x07 2)
    else if c.desc.w3.toNat % 64 ≠ 0 then some (descErr 0x07 3) else none

/-- DIGEST (R434): every replica of a locked set digests its own data. -/
def digestBody (_q : Nat) (r : Ring) (c : Cmd) (s : State) : Phase × State :=
  let d := c.desc
  let o := operand d.w2
  let beat := cmdBeat s r c
  let n := operandRows s o - o.first
  let reps := List.range (stageReplicas s r.stage.toNat)
  if !hostOk s r.context.toNat then (.finished (stResult stAccess), s)
  else if unitsGone s r.stage.toNat [o] beat then (.finished (stResult stFault), s)
  else
    let bad := reps.any fun rep => match anySource s o beat rep with | some src => rowsPoison src o.first n | none => false
    let s' := reps.foldl (fun t rep =>
      match anySource s o beat rep with
      | some src => hostWrite t d.w3.toNat (digestRecord s o (Desc.micro d) o.first n src)
      | none => t) (touchOperand r.stage.toNat o beat n s)
    (.finished (stResult (if bad then stPoisoned else stOk)), count (obsCtr 2) (stageReplicas s r.stage.toNat) s')

/-- DIGEST (R434). -/
def execDigest (ring : Nat) (d : Desc) (s : State) : Host.Outcome State Fault Refusal :=
  .next (runCmd opDigest { check := digestCheck, body := digestBody } ring d s)

/-- The operand that names all of a tensor. -/
def wholeTensor (t : Nat) : Operand := { edge := false, out := false, first := 0, id := t }

/-- Data type of a dump: FP32 for an FP32 tensor, else BF16 (R435). -/
def dumpFp32 (src : RowSource) : Bool := src.form.fmt == 0

/-- One element of a dump that is not FP32 and not of an Ouvut graph: BF16, a non-finite block as canonical NaN. -/
def dumpElem (e : Elem) : Nat := if e.bad then 0x7FC0 else bf16.narrow e.full

/-- Elements of a dump in row-major order. -/
def dumpData (s : State) (t rows : Nat) (src : RowSource) : List Byte :=
  (List.range rows).flatMap fun r =>
    if dumpFp32 src then (rowElems src r).1.flatMap fun e => leBytes 4 e.val.toNat
    else if ouvutTensor s t && src.form.fmt == 1 then (src.strip r).1.take (2 * src.k)
    else (rowElems src r).1.flatMap fun e => leBytes 2 (dumpElem e)

/-- Bytes of a dump. -/
def dumpBytes (s : State) (t : Nat) (src : RowSource) : Nat :=
  128 + operandRows s (wholeTensor t) * src.k * (if dumpFp32 src then 4 else 2)

/-- The dump header (Table 15.5). -/
def dumpHeader (s : State) (t : Nat) (src : RowSource) (data : List Byte) : List Byte :=
  let scale := if ouvutTensor s t && src.form.fmt == 1 then (src.sz 0).1 else fOne
  leBytes 4 0x5444564F ++ leBytes 2 3 ++ leBytes 1 (if dumpFp32 src then 0 else 1) ++ leBytes 1 2 ++
    leBytes 8 (operandRows s (wholeTensor t)) ++ leBytes 8 src.k ++ List.replicate 16 0 ++ leBytes 4 scale.toNat ++ leBytes 4 t ++
    leBytes 8 s.upd.stepCount.toNat ++ leBytes 8 (stamp s).toNat ++ leBytes 4 (crc32c data).toNat ++ List.replicate 60 0

/-- Checks of DUMP (R435): the step of the last STEP_BEGIN, and room for the dump. -/
def dumpCheck (s : State) (r : Ring) (c : Cmd) : Option Result :=
  let d := c.desc
  let t := bits d.w2 63 40
  match anySource s (wholeTensor t) (cmdBeat s r c) 0 with
  | none => some (descErr 0x05 2)
  | some src =>
    if s.upd.seed.isNone ∨ d.w3 ≠ s.upd.stepCount then some (descErr 0x09 3)
    else if bits d.w5 39 0 < dumpBytes s t src then some (descErr 0x09 5) else none

/-- DUMP (R435). -/
def dumpBody (_q : Nat) (r : Ring) (c : Cmd) (s : State) : Phase × State :=
  let d := c.desc
  let t := bits d.w2 63 40
  let o := wholeTensor t
  let beat := cmdBeat s r c
  let rows := operandRows s o
  if !hostOk s r.context.toNat then (.finished (stResult stAccess), s)
  else if unitsGone s r.stage.toNat [o] beat then (.finished (stResult stFault), s)
  else
    let reps := List.range (stageReplicas s r.stage.toNat)
    let bad := reps.any fun rep => match anySource s o beat rep with | some src => rowsPoison src 0 rows | none => false
    let s' := reps.foldl (fun u rep =>
      match anySource s o beat rep with
      | some src =>
        let data := dumpData s t rows src
        hostWrite u d.w4.toNat (dumpHeader s t src data ++ data)
      | none => u) (touchOperand r.stage.toNat o beat rows s)
    (.finished (stResult (if bad then stPoisoned else stOk)), count (obsCtr 3) 1 s')

/-- DUMP (R435). -/
def execDump (ring : Nat) (d : Desc) (s : State) : Host.Outcome State Fault Refusal :=
  .next (runCmd opDump { check := dumpCheck, body := dumpBody } ring d s)

end Sys2Proof.Machine
end

