-- ==== Sys2Proof/Machine/Staging.lean ====
section
/-!
DEFINITION. Agreement groups (12 R363-R366, Table 12.8): commits, discards and the safe points that are no edge, boundary or sample.
-/
namespace Sys2Proof.Machine

/-- The tick is stopped: neither running nor armed (log entry 51). -/
def tickStopped (s : State) : Bool := !s.tkc.running && !s.tkc.armed

/-- No graph is loaded. -/
def noGraph (s : State) : Bool := s.ple.images.isEmpty

/-- A pending tick timing group is refused (02 R34); `edge` is the edge at which it would apply. -/
def timingBad (t : TickTiming) (edge : Option Nat) : Bool :=
  decide (t.periodUs.toNat < 16) || decide (250 * t.periodUs.toNat < 10 * t.guard.toNat) ||
    (match edge with | some e => decide (t.t0.toNat < e + 16 * usUnits) | none => false)

/-- Refuse or apply the tick timing group; after an application at an edge the next edge falls at the new T0 (R34). -/
def applyTiming (edge : Option Nat) (s : State) : State :=
  if timingBad s.pend.tick edge then refuseGroup 0 { s with tkc := { s.tkc with cfgRefused := true } }
  else
    let s := applyGroup 0 s
    if edge.isSome then { s with tkc := { s.tkc with edgeMade := false, nextEdge := s.act.tick.t0 } } else s

/-- Assigned ports train and send their identity, or stay DOWN without LINK_EN; the others are UNUSED; a retired port stays so (09 R256, R259). -/
def trainPorts (s : State) : State :=
  let want (p : Nat) (s : State) : PortState :=
    if (portAt s p).state == .retired then .retired
    else if !(assignedPorts s).contains p then .unused
    else if s.fab.linkEn then .training else .down
  let s := (List.range 32).foldl (fun s p => setPort p { portAt s p with state := want p s, retrainAt := none } s) s
  let s := ((List.range 32).filter fun p => (portAt s p).state == .training).foldl (fun s p => sayIdentity p s) s
  portLevel (reroute (setDetours s))

/-- Apply or refuse the fabric topology group (09 R286). -/
def applyTopo (s : State) : State :=
  if topoOk s.pend.topo then
    let was := (isRoot s, parentOf s (myDevice s))
    let s := applyGroup 5 s
    let s := if (isRoot s, parentOf s (myDevice s)) = was then s else loseLock { s with clk := { s.clk with parentLocked := false } }
    relock (trainPorts { s with fab := { s.fab with peerPorts := [] } })
  else refuseGroup 5 { s with fab := { s.fab with topoRefused := true } }

/-- No ring is enabled (Table 12.8): one in the error state is not, one that is being disabled still is. -/
def noRing (s : State) : Bool := !(s.qsu.rings.any fun p => p.2.state == .enabled)

/-- Apply or refuse the time alignment group (14 R410). -/
def applyTime (s : State) : State :=
  if s.pend.timeMode.toNat ≤ 1 then
    let free := s.act.timeMode = 1 ∧ s.pend.timeMode = 0
    let s := applyGroup 8 s
    relock (if free then { s with clk := { s.clk with rate := 0, corr := 0 } } else s)
  else refuseGroup 8 { s with clk := { s.clk with cfgRefused := true } }

/-- Apply or refuse the power cap group (14 R413). -/
def applyCap (s : State) : State :=
  if 1000 ≤ s.pend.capW.toNat ∧ s.pend.capW.toNat ≤ 2500 then applyGroup 9 s
  else refuseGroup 9 { s with pwr := { s.pwr with capRefused := true } }

/-- Sizes of the trace buffer in MiB: the powers of two in 1-4,096 (15 R442). -/
def traceSizes : List Nat := (List.range 13).map fun i => 2 ^ i

/-- A commit of the trace group is refused (15 R442). -/
def traceBad (s : State) : Bool :=
  let p := s.pend
  !traceSizes.contains p.sizeMib.toNat || p.traceMode == 3 || p.post == 0 ||
    (match s.ple.placement with | some q => decide (q.traceMib < p.sizeMib.toNat) | none => false)

/-- Apply or refuse the trace group. -/
def applyTrace (s : State) : State :=
  if traceBad s then refuseGroup 11 { s with obs := { s.obs with traceRefused := true } } else applyGroup 11 s

/-- Sources that the event routing group disables take the idle state on the host route (13 R375). -/
def idleDisabled (s : State) : State :=
  let off := (s.evc.src.filter fun p => p.2.host != .idle && !hostEn s p.1).map (·.1)
  let src := off.foldl (fun m k => SMap.alter m k idleSource fun x => { x with host := .idle }) s.evc.src
  let vec := s.evc.vec.foldl (fun (m : SMap Vec) p =>
    SMap.set m p.1 (if off.any fun k => p.2.fast == some k then { p.2 with fast := none } else p.2) idleVec) []
  (s.evc.vec.map (·.1)).foldl (fun s v => syncPba v s) { s with evc := { s.evc with src := src, vec := vec } }

/-- Apply a committed group if its safe point is now (Table 12.8). -/
def applyNow (s : State) (g : Nat) : State :=
  if !groupPending s g then s
  else
    match g with
    | 0 => if tickStopped s then applyTiming none s else s
    | 1 => applyGroup 1 s
    | 2 | 3 | 4 | 6 => if noGraph s then applyGroup g s else s
    | 5 => if noGraph s then applyTopo s else s
    | 7 => if noRing s then applyGroup 7 s else s
    | 8 => if tickStopped s then applyTime s else s
    | 9 => if tickStopped s then applyCap s else s
    | 10 => deliverAll (idleDisabled (applyGroup 10 s))
    | 11 => if s.obs.traceState == .stopped then applyTrace s else s
    | _ => s

/-- The groups that exist. -/
def allGroups : List Nat := List.range 13

/-- Commit one group (R363, R364). -/
def commitGroup (s : State) (g : Nat) : State :=
  if groupPending s g then { s with cmt := { s.cmt with stagedReject := satInc s.cmt.stagedReject } }
  else { s with cmt := { s.cmt with pending := putBit s.cmt.pending g true } }

/-- CMT_COMMIT (R363): the groups whose safe point is now apply at the same moment. -/
def cmtCommit (groups : W64) (s : State) : State :=
  let gs := allGroups.filter fun g => groups.getLsbD g
  gs.foldl applyNow (gs.foldl commitGroup s)

def execCmtCommit (groups : W64) (s : State) : Host.Outcome State Fault Refusal := .next (onBus 0x10000 8 (cmtCommit groups) s)

/-- Discard one group (R364, R365). -/
def discardGroup (s : State) (g : Nat) : State :=
  if groupPending s g then { s with cmt := { s.cmt with stagedReject := satInc s.cmt.stagedReject } }
  else { s with pend := applyFields g s.pend s.act, cmt := { s.cmt with dirty := putBit s.cmt.dirty g false } }

/-- CMT_DISCARD (R365). -/
def cmtDiscard (groups : W64) (s : State) : State := (allGroups.filter fun g => groups.getLsbD g).foldl discardGroup s

def execCmtDiscard (groups : W64) (s : State) : Host.Outcome State Fault Refusal := .next (onBus 0x10008 8 (cmtDiscard groups) s)

/-- CMT_GROUP_APPLY (R363): a committed group applies once its safe point has come. Those of an edge, a boundary or a sample apply in
TICK_EDGE and with the sample. -/
def execCmtGroupApply (group : Nat) (s : State) : Host.Outcome State Fault Refusal := .next (if alive s then applyNow s group else s)

end Sys2Proof.Machine
end

