-- ==== Sys2Proof/Machine/Reset.lean ====
section
/-!
DEFINITION. Function-level reset (14 R420, 13 R385, 12 R365), D3hot (12 R359, 14 R417), the commands of the table port (11 R319), and
the completion of commands, after which a function-level reset can go on.
-/
namespace Sys2Proof.Machine

/-- TKC_CTRL.RUN is cleared (02 R36): an armed start is cancelled; a running tick stops at its next advancing edge. -/
def runClear (s : State) : State :=
  { s with tkc := { s.tkc with run := false, armed := false } }

/-- Host-route fields of a source's configuration: HOST_EN and VECTOR return to their reset values (13 Table 13.6). -/
def clearHostCfg (m : SMap W32) : SMap W32 :=
  m.foldl (fun (a : SMap W32) p => SMap.set a p.1 (p.2 &&& 0x40000000#32) 0x40000000#32) []

/-- The host-route side of the event controller returns to reset (14 R420 step 4; log entry 52). -/
def clearHostRoute (s : State) : State :=
  let src := s.evc.src.foldl (fun (m : SMap Source) p => SMap.set m p.1 { p.2 with host := .idle } idleSource) []
  let evc := { s.evc with ringEn := false, armEn := false, armHeld := false, globalDisable := false, src := src, vec := [] }
  { s with evc := evc, act := { s.act with srcCfg := clearHostCfg s.act.srcCfg, vecMod := [] } }

/-- The driver is reset as receiver of MB16-MB31 and as sender of MB00-MB15 (13 R385); a firmware update that runs still replies, and a
reply that waited takes its place. -/
def clearBoxes (s : State) : State := (List.range 16).foldl (fun s i => sendOwed i (abortBox (16 + i) (dropBox i s))) s

/-- The open step counts as discarded, and no step has run (14 R420, 01 R22, 03 R93, R94; log entry 52). -/
def dropStep (s : State) : State :=
  let s := match s.upd.step with
    | some o => closeStep o.num true 0 (settleUpdates true 0 s)
    | none => s
  { s with upd := { s.upd with
      lastStep := noStep, seed := none, stepCount := 0, boundary := none, armed := none, replay := none, passed := false
      recStart := none, positions := [], opening := none, recHeld := false } }

/-- No scale table is valid any more, neither in force nor formed (09 R269). -/
def dropScales (s : State) : State :=
  (match s.ple.placement with | some p => p.layers | none => []).foldl (fun s (l : LayerPl) =>
    let n := match layerEnt s l.layer with | some x => x.k * x.n | none => 0
    devWrite (l.wire + wireSpan n + 4) [0] (devWrite (l.wire + 4) [0] s)) s

/-- The tables and the pending copies (14 R420 step 4, 12 R365). -/
def clearTables (s : State) : State :=
  { s with
    qsu := { s.qsu with fetchEn := false, l1Held := false, rings := [], ctxs := [], sync := [], remote := [] }
    pend := s.act
    cmt := { s.cmt with pending := 0, dirty := 0 } }

/-- Every record is written: no ring has a command that is not complete. -/
def allDrained (s : State) : Bool := s.qsu.rings.all fun p => p.2.cmds.isEmpty

/-- Step 4 of a function-level reset, once every record is written (14 R420). -/
def settleFlr (s : State) : State :=
  if s.glb.flr && allDrained s then
    let s := clearTables (dropScales (clearBoxes (clearHostRoute (dropStep s))))
    { s with glb := { s.glb with flr := false, held := none } }
  else s

/-- Contexts that own a ring. -/
def ringContexts (s : State) : List Nat := s.qsu.rings.foldl (fun l p => insertNat p.2.context.toNat l) []

/-- A function-level reset (14 R420): fetching stops, every context is aborted, the tick stops. -/
def functionReset (s : State) : State :=
  if !s.pwr.powered || s.pwr.tripped then s
  else
    let s := fetchDisable (crumb 0x21 2 1 s)
    let s := (ringContexts s).foldl (fun s c => abortContext c none s) s
    let s := runClear s
    settleFlr { s with glb := { s.glb with flr := true } }

def execFunctionLevelReset (s : State) : Host.Outcome State Fault Refusal := .next (functionReset s)

def execCommandComplete (ring : Nat) (s : State) : Host.Outcome State Fault Refusal := .next (settleFlr (commandComplete ring s))

/-- The domains that D3hot stops take a source. -/
def setSleep (f : Domain → Domain) (s : State) : State :=
  if !s.clk.xtalOk then s
  else noteClocks (sleepDomains.foldl (fun s c => if (domainOf s c).inReset then s else setDomain c (f (domainOf s c)) s) s)

/-- D3HOT_ENTRY (12 R359, 14 R417). -/
def d3hotEntry (s : State) : State :=
  if !s.pwr.powered || s.pwr.tripped || s.glb.d3hot then s
  else
    let s := runClear (fetchDisable s)
    setSleep (fun d => { d with source := .stopped, low := 0 }) { s with glb := { s.glb with d3hot := true } }

def execD3hotEntry (s : State) : Host.Outcome State Fault Refusal := .next (d3hotEntry s)

/-- D0_RETURN (14 R417): the domains run again; one out of service stays on the crystal (R401). -/
def d0Return (s : State) : State :=
  if !s.pwr.powered || s.pwr.tripped || !s.glb.d3hot then s
  else
    setSleep (fun d => { d with source := if d.outOfService then .crystal else .pll, low := 0 }) { s with glb := { s.glb with d3hot := false } }

def execD0Return (s : State) : Host.Outcome State Fault Refusal := .next (d0Return s)

def execQsuTblWrite (s : State) : Host.Outcome State Fault Refusal := .next (onBus 0x60038 4 tblWrite s)

def execQsuTblRead (s : State) : Host.Outcome State Fault Refusal := .next (onBus 0x60038 4 tblRead s)

def execQsuTblEnable (s : State) : Host.Outcome State Fault Refusal := .next (onBus 0x60038 4 tblEnable s)

def execQsuTblDisable (s : State) : Host.Outcome State Fault Refusal := .next (onBus 0x60038 4 tblDisable s)

def execFetchEnSet (s : State) : Host.Outcome State Fault Refusal := .next (onBus 0x60000 4 fetchEnable s)

end Sys2Proof.Machine
end

