-- ==== Sys2Proof/Machine/Tick.lean ====
section
/-!
DEFINITION. The tick controller (02 R30-R50, R54, R59): starting and stopping, the DONE report and its rounds, and edges that advance
or slip.
-/
namespace Sys2Proof.Machine

/-- 10 ns in time-base units (14 R404). -/
def unit10ns : Nat := 160

/-- The moment of the DONE report (R43). -/
def reportTime (s : State) : Nat := s.tkc.nextEdge.toNat - guardEff s * unit10ns

/-- A command counts as complete in a DONE report: it is for a later beat, or it is a STEP_COMMIT that takes effect at the edge
(01 R24, 09 R284). -/
def reportsDone (s : State) (fin : Bool) (c : Cmd) : Bool :=
  decide (s.tkc.beat.toNat < c.beat) ||
    (fin && Desc.opcode c.desc == opStepCommit && (match c.phase with | .started _ => true | .committing _ => true | _ => false))

/-- A stage ring has commands that are not done (R39, R42); `fin` tells that the vote result was present before the report. -/
def ringNotDone (s : State) (fin : Bool) (r : Ring) : Bool := r.stageRing && ringRuns r && !(r.cmds.all fun c => reportsDone s fin c)

/-- The device has fetched a TICK_MARK or a command of a later beat for a stage (R39), or its commands of this beat have been aborted: the
stage then counts as DONE for the beat (R42). -/
def stageFilled (s : State) (n : Nat) : Bool :=
  s.tkc.aborted.contains (n, s.tkc.beat.toNat) || s.qsu.rings.any fun p => p.2.stageRing && p.2.stage.toNat == n && decide (s.tkc.beat.toNat < p.2.maxSeen)

/-- The stages that report NOT-DONE: those with commands that are not done, and the strict ones whose ring is not filled beyond the beat
(R39). -/
def notDoneStages (s : State) (fin : Bool) : List Nat :=
  let busy := (s.qsu.rings.filter fun p => ringNotDone s fin p.2).map fun p => p.2.stage.toNat
  let empty := (((imagesOf s).flatMap (·.stages)).filter fun e => e.strict && !stageFilled s e.stage).map (·.stage)
  (busy ++ empty).foldl (fun l n => insertNat n l) []

/-- A DONE symbol (09 Table 9.3) to the peer at coordinate `y`, with FWD and TARGET toward a peer on a detour. -/
def doneSymbol (s : State) (k y : Nat) (fwd notDone : Bool) : W64 :=
  at' 64 60 3 ||| at' 64 59 (b2n notDone) ||| at' 64 58 (b2n fwd) ||| at' 64 56 k ||| at' 64 50 (if fwd then y else 0) |||
    at' 64 34 s.act.tick.domainId.toNat ||| at' 64 0 (s.tkc.tick.toNat % 2 ^ 32)

/-- A DONE symbol goes to a peer, over the detour where the peer's port is not UP: the port places it in every flit until the decision
point, an idle flit at once among them (09 R263, R281). -/
def sendDone (k : Nat) (notDone : Bool) (s : State) (y : Nat) : State :=
  match hopPort s k y with
  | some p =>
    let x := portAt s p
    sayIdle p [] (setPort p { x with say := x.say ++ [doneSymbol s k y (portTo s k y != some p) notDone] } s)
  | none => s

/-- No port places DONE symbols in its flits any longer (09 R281; from the decision point on none leaves). -/
def hushPorts (s : State) : State :=
  (List.range 32).foldl (fun s p => if (portAt s p).say.isEmpty then s else setPort p { portAt s p with say := [] } s) s

/-- A round of DONE symbols to every peer of a dimension (09 R281). -/
def sendRound (k : Nat) (notDone : Bool) (s : State) : State := (peersIn s k).foldl (sendDone k notDone) s

/-- The time base is not in LOCKED alignment (R32). -/
def unlockedNow (s : State) : Bool := s.act.tick.dims != 0 && !(s.act.timeMode == 1 && s.clk.locked)

/-- Copies of a re-placement remain before the boundary edge that applies it (10 R308): for how many edges is free. -/
def copiesRemain (s : State) : Bool :=
  (s.ple.next.isSome || !s.tiles.condemned.isEmpty) &&
    match s.ple.placement with
    | some p => (boundaryDue s (s.tkc.beat.toNat + 1)).isSome && decide (s.ple.copySlips < Config.copyEdges p.id)
    | none => false

/-- DONE_REPORT (R43, 01 R23): the stages report, the vote frame is frozen or sent again, round 0 starts. -/
def doneReport (s : State) : State :=
  if !alive s || !s.tkc.running || s.tkc.report.isSome then s
  else
    let s := advanceTo (reportTime s) s
    let fin := s.fab.final.isSome
    let s := contribute s
    let stages := notDoneStages s fin
    let local_ := !stages.isEmpty || unlockedNow s || copiesRemain s
    let r : Report := { notDone := stages, local_ := local_, running := local_, rounds := 0, symbols := [] }
    let s := { s with tkc := { s.tkc with report := some r } }
    match domainDims s with
    | k :: _ => sendRound k local_ s
    | [] => s

def execDoneReport (s : State) : Host.Outcome State Fault Refusal := .next (doneReport s)

/-- A peer reported NOT-DONE, or its symbol has not come (R45). -/
def peerNotDone (r : Report) (k y : Nat) : Bool :=
  match r.symbols.find? fun x => x.1 == k && x.2.1 == y with
  | some x => x.2.2
  | none => true

/-- DONE_FORWARD (09 R281): the symbols of a round are taken into the OR, and the next round starts. Rounds go in order. -/
def doneForward (round : Nat) (s : State) : State :=
  match s.tkc.report with
  | none => s
  | some r =>
    match (domainDims s).drop r.rounds with
    | [] => s
    | k :: rest =>
      if !alive s || r.rounds ≠ round then s
      else
        let s := advanceTo (reportTime s + 15 * unit10ns + 55 * unit10ns * (round + 1)) s
        let out := r.running || (peersIn s k).any fun y => peerNotDone r k y
        let s := { s with tkc := { s.tkc with report := some { r with running := out, rounds := round + 1 } } }
        match rest with
        | j :: _ => sendRound j out s
        | [] => s

def execDoneForward (round : Nat) (s : State) : Host.Outcome State Fault Refusal := .next (doneForward round s)

/-- The report and the rounds that have not been given stand at their times before the edge. -/
def settleReport (s : State) : State :=
  let s := doneReport s
  [0, 1, 2].foldl (fun s k => doneForward k s) s

/-- The edge slips (R47, R49, R50). TKC_SLIP_CONSEC stays at its maximum when it has reached it: the manual gives overflow only for
48-bit counters (DESIGN CHOICE, log entry 130; R49). -/
def slipEdge (r : Report) (s : State) : State :=
  let t := s.tkc
  let n := satInc t.slipConsec
  let stall := t.slipLimit != 0 && decide (t.slipLimit.toNat ≤ n.toNat) && !t.stalled
  let stages := r.notDone.foldl (fun (m : SMap Ctr) k => SMap.alter m k 0 fun c => c + 1) t.stageSlip
  let s := { s with tkc := { t with
      slipConsec := n, slipTotal := t.slipTotal + 1, slipping := true, stalled := t.stalled || stall, stageSlip := stages
      slipRemote := if r.notDone.isEmpty then t.slipRemote + 1 else t.slipRemote } }
  let s := if copiesRemain s then count (pleCtr 10) 1 { s with ple := { s.ple with copySlips := s.ple.copySlips + 1 } } else s
  if stall then raise 0x00 (n.setWidth 64) s else s

/-- Halves that the advancing edge gives to their producers as OUT hold nothing of the new beat yet (R41, R42). DESIGN CHOICE: no rule says
when the mark of a poisoned half ends; the model drops it here, at the edge that makes the half OUT again (log entry 140). -/
def freshHalves (s : State) : State :=
  let out := halfOf true s.tkc.beat.toNat
  let hs := s.tiles.halves.foldl (fun (m : SMap Half) p =>
    SMap.set m p.1 (if p.1 < 2 ^ 40 && p.1 % 2 == out then { p.2 with poisoned := false } else p.2) noHalf) []
  { s with tiles := { s.tiles with halves := hs } }

/-- The highest beat named by a command that is still in the ring or by the TICK_MARK last executed (R39, from edge 0 on). -/
def seenAgain (s : State) : State :=
  let rs := s.qsu.rings.foldl (fun (m : SMap Ring) p =>
    SMap.set m p.1 { p.2 with maxSeen := p.2.cmds.foldl (fun a c => max a c.beat) p.2.baseBeat.toNat } resetRing) []
  { s with qsu := { s.qsu with rings := rs } }

/-- Edge 0 after a start (R31, R33): beat 0; every version of the working weights may be read (01 R26). -/
def edgeZero (s : State) : State :=
  let ws := s.tiles.weights.map fun p => (p.1, p.2.map fun v => { v with from_ := 0 })
  seenAgain { s with tkc := { s.tkc with armed := false, running := true, beat := 0 }, tiles := { s.tiles with weights := ws } }

/-- OUT buffers of the beat whose commands were aborted before it started are poisoned (R42, 11 R345). -/
def poisonLate (s : State) : State :=
  let b := s.tkc.beat.toNat
  let due := s.tiles.lateOut.filter fun x => decide (x.2 ≤ b)
  let s := { s with tiles := { s.tiles with lateOut := s.tiles.lateOut.filter fun x => decide (b < x.2) } }
  due.foldl (fun s x => poisonStageOut x.1 b s) s

/-- A beat starts (R38, R41, R42, 01 R20). -/
def startBeat (s : State) : State := poisonLate (freshHalves (boundaryAt s.tkc.beat.toNat s))

/-- The beat counter advances (R31). -/
def advanceBeat (s : State) : State := { s with tkc := { s.tkc with beat := s.tkc.beat + 1 } }

/-- What was aborted in beats that are over is forgotten (R42). -/
def dropAborted (s : State) : State :=
  { s with tkc := { s.tkc with aborted := s.tkc.aborted.filter fun x => decide (s.tkc.beat.toNat ≤ x.2) } }

/-- What an advancing edge applies (R31, R34, R36, R48, 01 R24, 05 R130, 10 R307). -/
def advanceEdge (edge : Nat) (s : State) : State :=
  let first := s.tkc.armed
  let s := { s with tkc := { s.tkc with slipConsec := 0, slipping := false, stalled := false }, upd := { s.upd with recHeld := false } }
  let s := if first then edgeZero s else dropAborted (advanceBeat (stepEdge s))
  let s := if groupPending s 0 then applyTiming (some edge) s else s
  let s := if s.upd.seed.isNone then applyRecipes none s else s
  let s := if s.tkc.run then startBeat s else { s with tkc := { s.tkc with running := false, aborted := [] } }
  if s.upd.step.isNone then retireNow s else s

/-- Units of a background activity (Table 2.3), numbered as in log entry 53: NBEs and bank columns by column, far controllers from 0x400,
XUs and tiles from 0x1000 and 0x2000, and the PLE movers, VC6, the ring writer and the trace path from 0x3000. -/
def bgUnits (s : State) (i : Nat) : List Nat :=
  let nbes := (List.range 1024).filter fun c => columnOn s c
  let tiles (b : Nat) : List Nat := ((List.range 320).filter fun t => tileOn s t).map fun t => b + t
  match i with
  | 0 => nbes ++ (List.range 16).map fun f => 0x400 + f
  | 1 => tiles 0x1000
  | 2 => nbes ++ [0x3000, 0x3001]
  | 3 => [0x3002]
  | 4 => tiles 0x2000
  | _ => [0x3003]

/-- Minimum service (R53, R54): `WINDOW` edges after its last slot an activity is due on a unit, unless idle cycles have served it there,
which starts the window again; of those due on one unit the lowest index runs, and the others are deferred to the next tick. -/
def bgEdge (s : State) : State :=
  let s := { s with tkc := { s.tkc with bgCfg := s.tkc.bgNext } }
  let e := s.tkc.bgEdges + 1
  let late (i u : Nat) : Bool := bits (bgCfgOf s i) 15 0 != 0 && decide (SMap.get s.tkc.bgLast (bgKey i u) 0 + bits (bgCfgOf s i) 15 0 ≤ e)
  let hits := (List.range 6).flatMap fun i => ((bgUnits s i).filter (late i)).map (bgKey i)
  let served := hits.filter fun k => s.tkc.bgServed.contains k
  let due := hits.filter fun k => !s.tkc.bgServed.contains k
  let runs := due.filter fun k => !(due.any fun j => j % 2 ^ 16 == k % 2 ^ 16 && decide (j < k))
  let again := runs ++ served
  { s with tkc := { s.tkc with
      bgEdges := e, bgLast := again.foldl (fun m k => SMap.set m k e 0) s.tkc.bgLast
      bgServed := s.tkc.bgServed.filter fun k => !again.contains k, bgSlot := runs } }

/-- The TICK record (15 Table 15.6). -/
def traceTick (slip : Bool) (s : State) : State :=
  trace 0x05 0xB00 0 s.tkc.beat (at' 64 32 (b2n slip) ||| at' 64 0 (s.tkc.tick.toNat % 2 ^ 32)) s

/-- No page group is switched at this edge: a step is to be recorded, is being recorded or is replayed (10 R306, 08 R242); after a recorded
step none is before the first advancing edge that follows its commit. -/
def switchesHeld (s : State) : Bool :=
  s.upd.armed.isSome || s.upd.recStart.isSome ||
    (match s.upd.step with | some o => o.recording.isSome || o.replaying.isSome | none => false)

/-- What every edge does, slipped or not: the power cap (12 Table 12.8), migration (10 R304), background slots. -/
def everyEdge (held : Bool) (s : State) : State :=
  let s := if groupPending s 9 then applyCap s else s
  bgEdge (migrateEdge held s)

/-- The edge occurs: its index and the time of the next (R30, R31). -/
def countEdge (s : State) : State :=
  let t := s.tkc
  { s with tkc := { t with
      tick := if t.edgeMade then t.tick + 1 else 0, edgeMade := true
      nextEdge := t.nextEdge + BitVec.ofNat 64 (s.act.tick.periodUs.toNat * usUnits) } }

/-- The domain-wide OR as it stands at the decision point (R43, R45). -/
def domainOr (s : State) (r : Report) : Bool := r.running || decide (r.rounds < (domainDims s).length)

/-- TICK_EDGE (R30-R50). -/
def tickEdge (s : State) : State :=
  if !alive s || !(s.tkc.running || s.tkc.armed) then s
  else
    let s := settleReport s
    let edge := s.tkc.nextEdge.toNat
    let before := s
    let s := countEdge (advanceTo edge s)
    let slip : Option Report := match s.tkc.report with | some r => if s.tkc.running && domainOr s r then some r else none | none => none
    let held := switchesHeld before || (slip.isSome && before.upd.recHeld)
    let s := match slip with | some r => slipEdge r s | none => advanceEdge edge s
    let s := everyEdge held (traceTick slip.isSome s)
    settleFab (settleFlr (hushPorts { s with tkc := { s.tkc with report := none } }))

def execTickEdge (s : State) : Host.Outcome State Fault Refusal := .next (tickEdge s)

/-- TKC_CTRL.RUN is written 1 (R33, R36). -/
def runSet (s : State) : State :=
  let past := decide (s.act.tick.t0.toNat < now s + usUnits)
  if s.glb.flr || s.tkc.run then s
  else if s.tkc.running then { s with tkc := { s.tkc with run := true } }
  else if past then { s with tkc := { s.tkc with t0Past := true } }
  else { s with tkc := { s.tkc with run := true, armed := true, nextEdge := s.act.tick.t0, edgeMade := false } }

def execTkcRunSet (s : State) : Host.Outcome State Fault Refusal := .next (onBus 0x70000 4 runSet s)

def execTkcRunClear (s : State) : Host.Outcome State Fault Refusal := .next (onBus 0x70000 4 runClear s)

end Sys2Proof.Machine
end

