-- ==== Sys2Proof/Machine/Regs.lean ====
section
/-!
DEFINITION. REGISTER_WRITE: a host write to BAR0 by offset (12 R360-R367 and the register maps of every chapter). A write whose effect
is a command of its own (a commit, a table operation, a mailbox word) has that command's effect.
-/
namespace Sys2Proof.Machine

/-- New value of a register of which only the bits of `field` that lie under `mask` are written. -/
def mergeBits {w : Nat} (old v field mask : BitVec w) : BitVec w := (old &&& ~~~(field &&& mask)) ||| (v &&& field &&& mask)

/-- Bits [hi:lo] of a 64-bit register. -/
def span64 (hi lo : Nat) : W64 := BitVec.ofNat 64 (2 ^ (hi + 1) - 2 ^ lo)

/-- A write to an RWS field (R363, R364): the pending copy and CMT_DIRTY, or a count while the group's commit waits. -/
def stageWrite (g : Nat) (f : Staged → Staged) (s : State) : State :=
  if groupPending s g then { s with cmt := { s.cmt with stagedReject := satInc s.cmt.stagedReject } }
  else { s with pend := f s.pend, cmt := { s.cmt with dirty := putBit s.cmt.dirty g true } }

/-- A W1C flag after a write of `v`: cleared where bit `i` is 1 (00 R8). -/
def w1c {w : Nat} (v : BitVec w) (i : Nat) (flag : Bool) : Bool := flag && !v.getLsbD i

/-- EVC_CTRL (13 Table 13.5): the ring starts with a read of its head word, the arm lines are taken where CXL.cache is there (R376, R381, 12 R349). -/
def writeEvcCtrl (v : W32) (s : State) : State :=
  let ringOn := bit v 1 && !s.evc.ringEn
  let armOn := bit v 0 && !s.evc.armEn
  let head : W32 := if ringOn then BitVec.ofNat 32 (hostNat s (s.evc.ringHeadAddr.toNat / 8 * 8) 4) else s.evc.headCount
  let s := { s with evc := { s.evc with ringEn := bit v 1, armEn := bit v 0, armHeld := bit v 0 && s.glb.cacheMem, headCount := head } }
  if armOn then (s.evc.vec.map (·.1)).foldl (fun s k => checkVec k s) s else s

/-- EVC_GLOBAL_DISABLE (R379). -/
def writeDisable (v : W32) (s : State) : State :=
  if bit v 0 then { s with evc := { s.evc with globalDisable := true } } else globalEnable s

/-- OBS_CTRL (15 Table 15.13): each field by its change of value; sampling starts with a read of its head word (R432, R438). -/
def writeObsCtrl (v : W32) (s : State) : State :=
  let on := bit v 0 && !s.obs.sampleEn
  let head : W32 := if on then BitVec.ofNat 32 (hostNat s (s.obs.sampleHeadAddr.toNat / 8 * 8) 4) else s.obs.sampleHead
  let s := { s with obs := { s.obs with sampleEn := bit v 0, sampleHead := head } }
  if bit v 1 then traceSet s else if s.obs.traceRun then traceEnd s else s

/-- FAB_CTRL (09 Table 9.10); a write of 0 to LINK_EN is a live write while the tick of a domain runs (12 Table 12.11). -/
def writeFabCtrl (v : W32) (s : State) : State :=
  let s := { s with fab := { s.fab with syncEn := bit v 1 } }
  if !bit v 0 && s.tkc.running && s.act.tick.dims != 0 then liveIgnored 0x80000 s
  else if bit v 0 = s.fab.linkEn then s
  else trainPorts { s with fab := { s.fab with linkEn := bit v 0 } }

/-- QSU_TBL_OP (11 Table 11.20). -/
def writeTblOp (v : W32) (s : State) : State :=
  match bits v 2 0 with
  | 1 => tblWrite s
  | 2 => tblRead s
  | 3 => tblEnable s
  | 4 => tblDisable s
  | _ => s

/-- TKC_BG_CFGn (02 R59). -/
def writeBg (i : Nat) (v : W32) (s : State) : State :=
  { s with tkc := { s.tkc with bgNext := SMap.set s.tkc.bgNext i (v.setWidth 24) (bgReset i) } }

/-- PLACED: a placement is in force (10 Table 10.13). -/
def placed (s : State) : Bool := s.ple.placement.isSome

/-- GLB, CMT, CLK and PWR registers of 32 bits. -/
def writeLow32 (off : Nat) (v : W32) (s : State) : State :=
  match off with
  | 0x00018 => { s with glb := { s.glb with badAccess := w1c v 9 s.glb.badAccess, earlyAccess := w1c v 8 s.glb.earlyAccess } }
  | 0x00020 => if v = 0x0000A5C3 then deviceReset s else s
  | 0x10028 => { s with cmt := { s.cmt with readPending := bit v 0 } }
  | 0x20000 => { s with clk := { s.clk with monEn := bit v 0 } }
  | 0x20004 => { s with clk := { s.clk with cfgRefused := w1c v 4 s.clk.cfgRefused, stepped := w1c v 3 s.clk.stepped } }
  | 0x20018 => stageWrite 8 (fun p => { p with timeMode := v.setWidth 2 }) s
  | 0x2001C => { s with clk := { s.clk with dead := s.clk.dead &&& ~~~v } }
  | 0x30000 => { s with pwr := { s.pwr with capEn := bit v 0 } }
  | 0x30004 => { s with pwr := { s.pwr with capRefused := w1c v 6 s.pwr.capRefused, pfSeen := w1c v 5 s.pwr.pfSeen } }
  | 0x30008 => stageWrite 9 (fun p => { p with capW := v.setWidth 12 }) s
  | _ => s

/-- EVC and MBX registers of 32 bits. -/
def writeEvc32 (off : Nat) (v : W32) (s : State) : State :=
  if 0x41000 ≤ off ∧ off < 0x43000 then
    stageWrite 10 (fun p => { p with srcCfg := SMap.set p.srcCfg ((off - 0x41000) / 4) (v &&& 0xC00007FF#32) 0x40000000#32 }) s
  else if 0x44000 ≤ off ∧ off < 0x46000 then
    stageWrite 10 (fun p => { p with vecMod := SMap.set p.vecMod ((off - 0x44000) / 4) (v &&& 0xFFFF00FF#32) 0 }) s
  else
    match off with
    | 0x40000 => writeEvcCtrl v s
    | 0x40004 => { s with evc := { s.evc with ringDrop := w1c v 1 s.evc.ringDrop } }
    | 0x40008 => writeDisable v s
    | 0x4000C => complete false (bits v 10 0) s
    | 0x48000 => complete true (bits v 10 0) s
    | 0x50108 => { s with mbx := { s.mbx with reject := s.mbx.reject &&& ~~~(v.setWidth 16) } }
    | 0x5010C => { s with mbx := { s.mbx with abort := s.mbx.abort &&& ~~~(v.setWidth 16) } }
    | _ => s

/-- QSU and TKC registers of 32 bits. -/
def writeTick32 (off : Nat) (v : W32) (s : State) : State :=
  if 0x70100 ≤ off ∧ off < 0x70130 ∧ off % 8 = 0 then writeBg ((off - 0x70100) / 8) v s
  else
    match off with
    | 0x60000 => if bit v 0 then fetchEnable s else fetchDisable s
    | 0x60004 =>
      { s with qsu := { s.qsu with
        ringError := w1c v 3 s.qsu.ringError, tblRefused := w1c v 2 s.qsu.tblRefused, cqError := w1c v 1 s.qsu.cqError } }
    | 0x60028 => { s with qsu := { s.qsu with fetchW := v.setWidth 16 } }
    | 0x60038 => writeTblOp v s
    | 0x70000 => if bit v 0 then runSet s else runClear s
    | 0x70010 => stageWrite 0 (fun p => { p with tick := { p.tick with periodUs := v.setWidth 16 } }) s
    | 0x70014 => stageWrite 0 (fun p => { p with tick := { p.tick with guard := v.setWidth 12 } }) s
    | 0x70018 => stageWrite 0 (fun p => { p with tick := { p.tick with dims := BitVec.ofNat 2 (bits v 17 16), domainId := v.setWidth 16 } }) s
    | 0x70020 => { s with tkc := { s.tkc with slipLimit := v.setWidth 24 } }
    | 0x70024 => { s with tkc := { s.tkc with t0Past := w1c v 7 s.tkc.t0Past, cfgRefused := w1c v 6 s.tkc.cfgRefused } }
    | _ => s

/-- FAB and MEM registers of 32 bits. -/
def writeFab32 (off : Nat) (v : W32) (s : State) : State :=
  let six (lo : Nat) : BitVec 6 := BitVec.ofNat 6 (bits v (lo + 5) lo)
  match off with
  | 0x80000 => writeFabCtrl v s
  | 0x80004 =>
    { s with fab := { s.fab with
      voteMismatch := w1c v 5 s.fab.voteMismatch, scaleMisfit := w1c v 4 s.fab.scaleMisfit, cableErr := w1c v 3 s.fab.cableErr
      topoRefused := w1c v 2 s.fab.topoRefused } }
  | 0x80008 => stageWrite 5 (fun p => { p with topo := { p.topo with d0 := six 0, d1 := six 6, d2 := six 12 } }) s
  | 0x8000C => stageWrite 5 (fun p => { p with topo := { p.topo with x0 := six 0, x1 := six 6, x2 := six 12 } }) s
  | 0x80014 => { s with fab := { s.fab with vcWeight := v &&& 0xFFFFFFF0#32 } }
  | 0x80018 => stageWrite 5 (fun p => { p with topo := { p.topo with periodUs := BitVec.ofNat 16 (bits v 31 16), root := v.setWidth 10 } }) s
  | 0x90000 =>
    stageWrite 3 (fun p => { p with streamAdapt := bit v 3, forceExact := bit v 2 })
      { s with mem := { s.mem with farScrubEn := bit v 1, nearScrubEn := bit v 0 } }
  | 0x90004 => { s with mem := { s.mem with badAddr := w1c v 4 s.mem.badAddr, farUe := w1c v 3 s.mem.farUe, nearUe := w1c v 2 s.mem.nearUe } }
  | 0x90008 => { s with mem := { s.mem with scrubPeriod := v } }
  | _ => s

/-- PRC, UPD, OBS and PLE registers of 32 bits. -/
def writeTop32 (off : Nat) (v : W32) (s : State) : State :=
  match off with
  | 0xA0000 => { s with prc := { s.prc with scaleAdaptEn := bit v 2, shadowEn := bit v 1, steerEn := bit v 0 } }
  | 0xA0008 =>
    { s with prc := { s.prc with
      recipeReject := w1c v 2 s.prc.recipeReject, statsOverrun := w1c v 1 s.prc.statsOverrun
      precisionPending := w1c v 0 s.prc.precisionPending } }
  | 0xA0028 => stageWrite 2 (fun p => { p with statsSize := v }) s
  | 0xA002C => if placed s then liveIgnored 0xA002C s else { s with prc := { s.prc with defaultRecipe := v.setWidth 14 } }
  | 0xB0000 => stageWrite 4 (fun p => { p with votePolicy := v.setWidth 2 }) { s with upd := { s.upd with rootsEn := bit v 2 } }
  | 0xB0004 =>
    { s with upd := { s.upd with
      replayMismatch := w1c v 4 s.upd.replayMismatch, precondFallback := w1c v 3 s.upd.precondFallback
      policyMismatch := w1c v 2 s.upd.policyMismatch } }
  | 0xC0000 => writeObsCtrl v s
  | 0xC0004 =>
    { s with obs := { s.obs with
      traceRefused := w1c v 3 s.obs.traceRefused, sampleDrop := w1c v 1 s.obs.sampleDrop, crumbSkip := w1c v 0 s.obs.crumbSkip } }
  | 0xC0008 => stageWrite 12 (fun p => { p with intervalUs := v.setWidth 16 }) s
  | 0xC0030 =>
    stageWrite 11 (fun p => { p with
      post := BitVec.ofNat 4 (bits v 19 16), traceMode := BitVec.ofNat 2 (bits v 15 14), sizeMib := v.setWidth 13 }) s
  | 0xC0034 => { s with obs := { s.obs with traceMask := v &&& traceMaskBits } }
  | 0xC0048 => { s with obs := { s.obs with trigCfg := v &&& 0xC000F7FF#32 } }
  | 0xC004C => { s with obs := { s.obs with faultCfg := v } }
  | 0xE0000 => { s with ple := { s.ple with migrateNext := bit v 0 } }
  | 0xE0004 => { s with ple := { s.ple with hdmMiss := w1c v 3 s.ple.hdmMiss, placeFail := w1c v 2 s.ple.placeFail } }
  | 0xE0010 => { s with ple := { s.ple with migNext := v } }
  | _ => s

/-- One word of an MSI-X table entry: address, data and the mask bit (12 Table 12.6, 13 R378; log entry 11). -/
def writeMsix (off : Nat) (v : W32) (s : State) : State :=
  let n := (off - 0x200000) / 16
  let m := msixOf s n
  let put (m : Msix) : State := { s with evc := { s.evc with msix := SMap.set s.evc.msix n m resetMsix } }
  match off % 16 with
  | 0 => put { m with addr := mergeBits m.addr (v.setWidth 64) (span64 31 2) (span64 31 0) }
  | 4 => put { m with addr := mergeBits m.addr (v.setWidth 64 <<< 32) (span64 63 32) (span64 63 32) }
  | 8 => put { m with data := v }
  | _ => if bit v 0 then syncPba n (put { m with masked := true }) else unmask n s

/-- A write to a 32-bit register; other offsets drop it (R360). -/
def write32 (off : Nat) (v : W32) (s : State) : State :=
  if 0x200000 ≤ off then (if off < 0x208000 then writeMsix off v s else s)
  else if off < 0x40000 then writeLow32 off v s
  else if off < 0x60000 then writeEvc32 off v s
  else if off < 0x80000 then writeTick32 off v s
  else if off < 0xA0000 then writeFab32 off v s
  else writeTop32 off v s

/-- An RW register of 64 bits: its value and its fields' bits; `none` where no such register lies (R361). -/
def rw64 (s : State) (off : Nat) : Option (W64 × W64) :=
  if 0x60040 ≤ off ∧ off < 0x60080 ∧ off % 8 = 0 then some (tblWord s ((off - 0x60040) / 8), span64 63 0)
  else
    match off with
    | 0x20010 => some (s.clk.tbSet, span64 63 3)
    | 0x40018 => some (s.evc.ringBase, span64 63 12 ||| span64 4 0)
    | 0x40020 => some (s.evc.ringHeadAddr, span64 63 3)
    | 0x40028 => some (s.evc.armAddr, span64 63 8)
    | 0x60030 => some (s.qsu.tblSel, span64 63 62 ||| span64 19 0)
    | 0xC0018 => some (s.obs.sampleBase, span64 63 12 ||| span64 4 0)
    | 0xC0020 => some (s.obs.sampleHeadAddr, span64 63 3)
    | _ => none

/-- Store an RW register of 64 bits; a write to a live one is ignored (R367). -/
def putRw64 (off : Nat) (v : W64) (s : State) : State :=
  if 0x60040 ≤ off ∧ off < 0x60080 then
    { s with qsu := { s.qsu with tblData := SMap.set s.qsu.tblData ((off - 0x60040) / 8) v 0 } }
  else
    match off with
    | 0x20010 => tbSet v s
    | 0x40018 => if s.evc.ringEn then liveIgnored off s else { s with evc := { s.evc with ringBase := v } }
    | 0x40020 => if s.evc.ringEn then liveIgnored off s else { s with evc := { s.evc with ringHeadAddr := v } }
    | 0x40028 => if s.evc.armEn then liveIgnored off s else { s with evc := { s.evc with armAddr := v } }
    | 0x60030 => { s with qsu := { s.qsu with tblSel := v } }
    | 0xC0018 => if s.obs.sampleEn then liveIgnored off s else { s with obs := { s.obs with sampleBase := v } }
    | 0xC0020 => if s.obs.sampleEn then liveIgnored off s else { s with obs := { s.obs with sampleHeadAddr := v } }
    | _ => s

/-- Bits of a FAB_GROUPn entry (09 Table 9.10). -/
def groupBits : W64 := 0x8700000FFFFFFFFF#64

/-- A register of 64 bits with another access: RWS, W1C or WO; `mask` has the bits of the bytes written (R361). DESIGN CHOICE: R361 gives
4-byte writes for RW and RWS registers only; a 4-byte write of the WO register MBX_SENDn sends a word whose other half is 0 (00 R8; log
entry 131). -/
def write64 (off : Nat) (v mask : W64) (s : State) : State :=
  if 0x80200 ≤ off ∧ off < 0x80400 ∧ off % 8 = 0 then
    let i := (off - 0x80200) / 8
    stageWrite 6 (fun p => { p with groups := SMap.set p.groups i (mergeBits (SMap.get p.groups i 0) v groupBits mask) 0 }) s
  else if 0x50000 ≤ off ∧ off < 0x50080 ∧ off % 8 = 0 then boxWrite ((off - 0x50000) / 8) (v &&& mask) s
  else
    match off with
    | 0x10000 => cmtCommit (v &&& mask) s
    | 0x10008 => cmtDiscard (v &&& mask) s
    | 0x10020 => { s with cmt := { s.cmt with refused := s.cmt.refused &&& ~~~(v &&& mask) } }
    | 0x70008 => stageWrite 0 (fun p => { p with tick := { p.tick with t0 := mergeBits p.tick.t0 v (span64 63 0) mask } }) s
    | 0x60008 => stageWrite 7 (fun p => { p with ringBase := mergeBits p.ringBase v (span64 63 26) mask }) s
    | 0x60010 => stageWrite 7 (fun p => { p with ctxBase := mergeBits p.ctxBase v (span64 63 22) mask }) s
    | 0x60018 => stageWrite 7 (fun p => { p with dbL2 := mergeBits p.dbL2 v (span64 63 12) mask }) s
    | 0x60020 => stageWrite 7 (fun p => { p with dbL1 := mergeBits p.dbL1 v (span64 63 8) mask }) s
    | 0xA0010 => stageWrite 1 (fun p => { p with seed := mergeBits p.seed v (span64 63 0) mask }) s
    | 0xA0018 => stageWrite 2 (fun p => { p with recipeBase := mergeBits p.recipeBase v (span64 63 21) mask }) s
    | 0xA0020 => stageWrite 2 (fun p => { p with statsBase := mergeBits p.statsBase v (span64 63 12) mask }) s
    | 0xB0008 => stageWrite 4 (fun p => { p with ruleBase := mergeBits p.ruleBase v (span64 63 20) mask }) s
    | 0xC0010 => stageWrite 12 (fun p => { p with sampleMask := mergeBits p.sampleMask v (span64 63 0) mask }) s
    | _ => s

/-- The registers of `write64`. -/
def wide (off : Nat) : Bool :=
  off % 8 == 0 &&
    ((decide (0x80200 ≤ off) && decide (off < 0x80400)) || (decide (0x50000 ≤ off) && decide (off < 0x50080)) ||
      [0x10000, 0x10008, 0x10020, 0x70008, 0x60008, 0x60010, 0x60018, 0x60020, 0xA0010, 0xA0018, 0xA0020, 0xB0008, 0xC0010].contains off)

/-- Forget the held low word. -/
def clearHeld (s : State) : State := { s with glb := { s.glb with held := none } }

/-- An 8-byte write: one register, or the two of 4 bytes that lie there. DESIGN CHOICE: R361 gives no order of the two. The high one is
written first, so that a status bit that the write of the low one sets ends set beside a clear of it in the high one (00 R9); of an MSI-X
entry the low one, so that a message which the vector control releases carries the new data (log entry 138). -/
def writeEight (off : Nat) (v : W64) (s : State) : State :=
  match rw64 s off with
  | some (_, field) => putRw64 off (v &&& field) s
  | none =>
    if wide off then write64 off v (span64 63 0) s
    else if 0x200000 ≤ off then write32 (off + 4) ((v >>> 32).setWidth 32) (write32 off (v.setWidth 32) s)
    else write32 off (v.setWidth 32) (write32 (off + 4) ((v >>> 32).setWidth 32) s)

/-- A 4-byte write of the high word of an RW register: the held low word goes with it; without one, the register's low word stays
(R361; log entry 54). -/
def writeHigh (off : Nat) (old field : W64) (v : W32) (s : State) : State :=
  let low : W64 := match s.glb.held with | some (o, w) => if o = off then w.setWidth 64 else old &&& span64 31 0 | none => old &&& span64 31 0
  putRw64 off ((low ||| v.setWidth 64 <<< 32) &&& field) (clearHeld s)

/-- A 4-byte write (R361). -/
def writeFour (off : Nat) (v : W32) (s : State) : State :=
  match rw64 s off, rw64 s (off - 4) with
  | some _, _ => { s with glb := { s.glb with held := some (off, v) } }
  | none, some (old, field) => writeHigh (off - 4) old field v s
  | none, none =>
    if wide off then write64 off (v.setWidth 64) (span64 31 0) s
    else if wide (off - 4) then write64 (off - 4) (v.setWidth 64 <<< 32) (span64 63 32) s
    else write32 off v s

/-- The write discards a held low word (R361). -/
def dropsHeld (off size : Nat) (s : State) : Bool := (dropHeld off size s).glb.held.isNone && s.glb.held.isSome

/-- A write of GLB_STATUS that sets BAD_ACCESS by discarding a held low word leaves it set, also where it clears it (00 R9). -/
def keepBad (off size : Nat) (s t : State) : State :=
  if off / 8 = 3 && dropsHeld off size s then { t with glb := { t.glb with badAccess := true } } else t

/-- REGISTER_WRITE (R360-R367). -/
def execRegisterWrite (offset size : Nat) (value : W64) (s : State) : Host.Outcome State Fault Refusal :=
  .next (onBus offset size (fun t =>
    keepBad offset size s (if size = 8 then writeEight offset value t else writeFour offset (value.setWidth 32) t)) s)

end Sys2Proof.Machine
end

