-- ==== Sys2Proof/Machine/RegRead.lean ====
section
/-!
DEFINITION. What a host read of BAR0 returns (00 R8, 02 R58, 12 R360-R362 and the register maps of every chapter). The table of commands
has no read of a register but MBX_RECV, whose meaning is the general read `registerRead` at its offset (log entry 113). Each block gives the
aligned 8 bytes at an offset: one register of 64 bits, or two of 32.
-/
namespace Sys2Proof.Machine

/-- Two registers of 32 bits in one aligned word. -/
def pair32 (low high : W32) : W64 := low.setWidth 64 ||| (high.setWidth 64 <<< 32)

/-- A word of single bits. -/
def flagWord (bs : List (Nat × Bool)) : W32 := BitVec.ofNat 32 ((bs.map fun b => b2n b.2 * 2 ^ b.1).foldl (· + ·) 0)

/-- The copy of the RWS fields that a read returns: the active one, or the pending one under READ_PENDING (12 Table 12.9). -/
def rwsCopy (s : State) : Staged := if s.cmt.readPending then s.pend else s.act

/-- FAB_PORT_STATEn.STATE (09 Table 9.10). -/
def PortState.code : PortState → Nat
  | .unused => 0 | .down => 1 | .training => 2 | .up => 3 | .retrain => 4 | .retired => 5

/-- OBS_TRACE_STATUS.STATE (15 Table 15.13). -/
def TraceState.code : TraceState → Nat
  | .stopped => 0 | .running => 1 | .triggered => 2 | .full => 3

/-- A register among `n` of 8 bytes from `base` on, by its index. -/
def indexIn (off base n : Nat) : Option Nat := if base ≤ off ∧ off < base + 8 * n ∧ off % 8 = 0 then some ((off - base) / 8) else none

/-- GLB (12 Table 12.13). -/
def readGlb (s : State) (off : Nat) : W64 :=
  match indexIn off 0x40 5 with
  | some n => tileMapWord s n
  | none =>
    match off with
    | 0x00 => glbIdent s
    | 0x08 => s.fuses.serial
    | 0x10 => pair32 s.glb.fwVersion 0x000F0400
    | 0x18 =>
      pair32 (flagWord [(11, s.glb.linkDegraded), (9, s.glb.badAccess), (8, s.glb.earlyAccess)] ||| BitVec.ofNat 32 s.glb.state.code) s.store.epoch
    | 0x20 => pair32 0 (BitVec.ofNat 32 (popCount s.glb.tileMap 320))
    | 0x28 => pair32 s.glb.liveIgnored (s.glb.lastLive.setWidth 32)
    | _ => 0

/-- CMT (12 Table 12.9). -/
def readCmt (s : State) (off : Nat) : W64 :=
  match off with
  | 0x10 => s.cmt.pending
  | 0x18 => s.cmt.dirty
  | 0x20 => s.cmt.refused
  | 0x28 => pair32 (flagWord [(0, s.cmt.readPending)]) s.cmt.stagedReject
  | 0x30 => pair32 s.cmt.applied 0
  | _ => 0

/-- CLK (14 Table 14.7). -/
def readClk (s : State) (off : Nat) : W64 :=
  match off with
  | 0x00 =>
    pair32 (flagWord [(0, s.clk.monEn)])
      (flagWord [(4, s.clk.cfgRefused), (3, s.clk.stepped), (2, s.clk.locked), (1, s.clk.coarse), (0, s.clk.xtalOk)])
  | 0x08 => stamp s
  | 0x10 => s.clk.tbSet
  | 0x18 => pair32 ((rwsCopy s).timeMode.setWidth 32) s.clk.dead
  | 0x20 => BitVec.ofInt 64 s.clk.corr
  | _ => 0

/-- PWR_TG_STATE: a group without a placed tile is OFF; another is IDLE, for no array works between two commands (14 R416; log
entry 113). -/
def tileGroups (s : State) : W64 := BitVec.ofNat 64 (((List.range 32).map fun g => b2n (groupPlaced s g) * 4 ^ g).foldl (· + ·) 0)

/-- PWR (14 Table 14.9). -/
def readPwr (s : State) (off : Nat) : W64 :=
  match off with
  | 0x00 =>
    pair32 (flagWord [(0, s.pwr.capEn)])
      (flagWord [(6, s.pwr.capRefused), (5, s.pwr.pfSeen), (4, s.pwr.pfActive), (3, decide (s.pwr.thermTarget.toNat < 1250)),
        (2, decide (capMhz s < 1250)), (0, s.pwr.inputOk)])
  | 0x08 => pair32 ((rwsCopy s).capW.setWidth 32) (at' 32 16 (targetMhz s) ||| s.pwr.aclk.setWidth 32)
  | 0x10 => pair32 (at' 32 16 s.pwr.power.toNat ||| s.pwr.volt.setWidth 32) (at' 32 8 s.pwr.otherC.toNat ||| s.pwr.computeC.setWidth 32)
  | 0x18 => tileGroups s
  | _ => 0

/-- 64 sources of one class whose host route is in a state (13 Table 13.5). -/
def routeBits (s : State) (fast : Bool) (st : RouteState → Bool) (n : Nat) : W64 :=
  BitVec.ofNat 64 (((List.range 64).map fun i => b2n (isFast (64 * n + i) == fast && st (sourceOf s (64 * n + i)).host) * 2 ^ i).foldl (· + ·) 0)

/-- A route is pending, or active, or both (13 R373). -/
def RouteState.isPending : RouteState → Bool
  | .pending => true | .activePending => true | _ => false
def RouteState.isActive : RouteState → Bool
  | .active => true | .activePending => true | _ => false

/-- EVC_SRC_CFGn with the class and the kind of the source (13 Table 13.6). -/
def srcWord (s : State) (n : Nat) : W32 :=
  SMap.get (rwsCopy s).srcCfg n 0x40000000#32 ||| flagWord [(29, isFast n), (28, isLevel n)]
def vecWord (s : State) (n : Nat) : W32 := SMap.get (rwsCopy s).vecMod n 0

/-- EVC, both banks, by the offset from the normal one (13 Table 13.4). -/
def readEvc (s : State) (off : Nat) : W64 :=
  if 0x1000 ≤ off ∧ off < 0x3000 then pair32 (srcWord s ((off - 0x1000) / 4)) (srcWord s ((off - 0x1000) / 4 + 1))
  else if 0x4000 ≤ off ∧ off < 0x6000 then pair32 (vecWord s ((off - 0x4000) / 4)) (vecWord s ((off - 0x4000) / 4 + 1))
  else
    match indexIn off 0x100 32, indexIn off 0x200 32, indexIn off 0x8100 32, indexIn off 0x8200 32 with
    | some n, _, _, _ => routeBits s false RouteState.isPending n
    | _, some n, _, _ => routeBits s false RouteState.isActive n
    | _, _, some n, _ => routeBits s true RouteState.isPending n
    | _, _, _, some n => routeBits s true RouteState.isActive n
    | _, _, _, _ =>
      match off with
      | 0x00 =>
        pair32 (flagWord [(1, s.evc.ringEn), (0, s.evc.armEn)])
          (flagWord [(2, s.evc.armHeld), (1, s.evc.ringDrop), (0, s.evc.ringEn && ringFull s.evc.seq s.evc.headCount (bits s.evc.ringBase 4 0))])
      | 0x08 => pair32 (flagWord [(0, s.evc.globalDisable)]) 0
      | 0x10 => pair32 s.evc.spuriousEoi s.evc.ringDrops
      | 0x18 => s.evc.ringBase
      | 0x20 => s.evc.ringHeadAddr
      | 0x28 => s.evc.armAddr
      | 0x30 => pair32 s.evc.seq 0
      | _ => 0

/-- MBX (13 Table 13.10): MBX_SENDn reads 0, MBX_RECVn gives the word of a FULL mailbox, which the command MBX_RECV then clears. -/
def readMbx (s : State) (off : Nat) : W64 :=
  match indexIn off 0x80 16 with
  | some n => if boxFull s (16 + n) then boxWord s (16 + n) else 0
  | none =>
    match off with
    | 0x100 => s.mbx.full
    | 0x108 => pair32 (s.mbx.reject.setWidth 32) (s.mbx.abort.setWidth 32)
    | _ => 0

/-- QSU (11 Table 11.20). -/
def readQsu (s : State) (off : Nat) : W64 :=
  match indexIn off 0x40 8 with
  | some n => tblWord s n
  | none =>
    match off with
    | 0x00 =>
      pair32 (flagWord [(0, s.qsu.fetchEn)])
        (flagWord [(3, s.qsu.ringError), (2, s.qsu.tblRefused), (1, s.qsu.cqError), (0, s.qsu.l1Held)])
    | 0x08 => (rwsCopy s).ringBase
    | 0x10 => (rwsCopy s).ctxBase
    | 0x18 => (rwsCopy s).dbL2
    | 0x20 => (rwsCopy s).dbL1
    | 0x28 => pair32 (s.qsu.fetchW.setWidth 32) 0
    | 0x30 => s.qsu.tblSel
    | 0x38 => pair32 0 (s.qsu.tblResult.setWidth 32)
    | _ => 0

/-- TKC_STATUS (02 Table 2.8): UNLOCKED, GUARD_RAISED and MISMATCH are functions of the state (R32, R35, R44). -/
def tkcStatus (s : State) : W32 :=
  flagWord [(8, !s.tkc.differing.isEmpty), (7, s.tkc.t0Past), (6, s.tkc.cfgRefused), (5, s.tkc.stalled), (4, unlockedNow s),
    (3, decide (s.act.tick.guard.toNat < guardMin s)), (2, s.tkc.slipping), (1, s.tkc.armed), (0, s.tkc.running)]

/-- TKC_BG_CFGn as it was last written (02 R59). -/
def bgWord (s : State) (n : Nat) : W32 := (SMap.get s.tkc.bgNext n (bgReset n)).setWidth 32

/-- TKC (02 Table 2.5). -/
def readTkc (s : State) (off : Nat) : W64 :=
  match indexIn off 0x100 6, indexIn off 0x1000 4096 with
  | some n, _ => pair32 (bgWord s n) 0
  | _, some n => (SMap.get s.tkc.stageSlip n 0).setWidth 64
  | _, _ =>
    let t := (rwsCopy s).tick
    match off with
    | 0x00 => pair32 (flagWord [(0, s.tkc.run)]) 0
    | 0x08 => t.t0
    | 0x10 => pair32 (t.periodUs.setWidth 32) (t.guard.setWidth 32)
    | 0x18 => pair32 (at' 32 16 t.dims.toNat ||| t.domainId.setWidth 32) 0
    | 0x20 => pair32 (s.tkc.slipLimit.setWidth 32) (tkcStatus s)
    | 0x28 => pair32 (BitVec.ofNat 32 (guardEff s)) 0
    | 0x30 => s.tkc.tick
    | 0x38 => s.tkc.beat
    | 0x40 => pair32 s.tkc.slipConsec 0
    | 0x48 => s.tkc.slipTotal.setWidth 64
    | 0x50 => s.tkc.slipRemote.setWidth 64
    | _ => 0

/-- FAB_TOPO and FAB_COORD (09 Table 9.10); DEVICE is of the active topology (R257). -/
def topoWords (s : State) : W64 :=
  let t := (rwsCopy s).topo
  pair32 (at' 32 12 t.d2.toNat ||| at' 32 6 t.d1.toNat ||| t.d0.setWidth 32)
    (at' 32 18 (myDevice s) ||| at' 32 12 t.x2.toNat ||| at' 32 6 t.x1.toNat ||| t.x0.setWidth 32)

/-- FAB_PORT_STATEn (09 Table 9.10). -/
def portWord (s : State) (p : Nat) : W64 :=
  let x := portAt s p
  let q := (peerOf s p).getD (0, 0)
  at' 64 32 x.rtt.toNat ||| at' 64 14 q.1 ||| at' 64 8 q.2 ||| at' 64 4 x.lanes.toNat ||| at' 64 0 x.state.code

/-- A byte of FAB_DETOUR (09 R263); dimension and coordinate are in the offset. -/
def detourReg (s : State) (i : Nat) : Byte := if i < 99 then SMap.get s.fab.detour i 0 else 0

/-- FAB (09 Table 9.9); SYNC_LOCKED of the root is set while it is not in coarse mode. -/
def readFab (s : State) (off : Nat) : W64 :=
  if 0x400 ≤ off ∧ off < 0x468 then BitVec.ofNat 64 (leNat ((List.range 8).map fun i => detourReg s (off - 0x400 + i)))
  else
    match indexIn off 0x100 32, indexIn off 0x200 64 with
    | some p, _ => portWord s p
    | _, some g => SMap.get (rwsCopy s).groups g 0
    | _, _ =>
      match off with
      | 0x00 =>
        pair32 (flagWord [(1, s.fab.syncEn), (0, s.fab.linkEn)])
          (flagWord [(5, s.fab.voteMismatch), (4, s.fab.scaleMisfit), (3, s.fab.cableErr), (2, s.fab.topoRefused),
            (1, if isRoot s then !s.clk.coarse else s.clk.locked), (0, (allUp s && !(assignedPorts s).isEmpty))])
      | 0x08 => topoWords s
      | 0x10 => pair32 (flagWord ((List.range 32).map fun p => (p, portUp s p))) s.fab.vcWeight
      | 0x18 => pair32 (at' 32 16 (rwsCopy s).topo.periodUs.toNat ||| (rwsCopy s).topo.root.setWidth 32) 0
      | 0x20 => s.fab.syncOffset
      | _ => 0

/-- MEM (07 Table 7.11). -/
def readMem (s : State) (off : Nat) : W64 :=
  match indexIn off 0x100 16 with
  | some n => BitVec.ofNat 64 (s.mem.colMap.toNat >>> (64 * n))
  | none =>
    match off with
    | 0x00 =>
      pair32 (flagWord [(3, (rwsCopy s).streamAdapt), (2, (rwsCopy s).forceExact), (1, s.mem.farScrubEn), (0, s.mem.nearScrubEn)])
        (flagWord [(4, s.mem.badAddr), (3, s.mem.farUe), (2, s.mem.nearUe), (1, s.mem.farTrained), (0, s.mem.nearTrained)])
    | 0x08 => pair32 s.mem.scrubPeriod 0
    | 0x10 => s.mem.farMap
    | _ => 0

/-- PRC (05 Table 5.11). -/
def readPrc (s : State) (off : Nat) : W64 :=
  match off with
  | 0x00 => pair32 (flagWord [(2, s.prc.scaleAdaptEn), (1, s.prc.shadowEn), (0, s.prc.steerEn)]) 0
  | 0x08 => pair32 (flagWord [(2, s.prc.recipeReject), (1, s.prc.statsOverrun), (0, s.prc.precisionPending)]) 0
  | 0x10 => (rwsCopy s).seed
  | 0x18 => (rwsCopy s).recipeBase
  | 0x20 => (rwsCopy s).statsBase
  | 0x28 => pair32 (rwsCopy s).statsSize (s.prc.defaultRecipe.setWidth 32)
  | _ => 0

/-- UPD (08 Table 8.13). -/
def readUpd (s : State) (off : Nat) : W64 :=
  if 0x1000 ≤ off ∧ off < 0x1400 then
    BitVec.ofNat 64 ((SMap.get s.upd.schedVal ((off - 0x1000) / 16) 0).toNat >>> (if off % 16 = 8 then 64 else 0))
  else
    match indexIn off 0x2000 256 with
    | some n => BitVec.ofNat 64 (s.upd.skipMap.toNat >>> (64 * n))
    | none =>
      match off with
      | 0x00 =>
        pair32 (flagWord [(2, s.upd.rootsEn)] ||| (rwsCopy s).votePolicy.setWidth 32)
          (flagWord [(5, s.mem.log.any fun e => e.committed), (4, s.upd.replayMismatch), (3, s.upd.precondFallback), (2, s.upd.policyMismatch),
            (1, s.upd.lastSkipped), (0, s.upd.lastDiscarded)])
      | 0x08 => (rwsCopy s).ruleBase
      | 0x10 => s.upd.lueMap
      | 0x18 => s.upd.replayStatus
      | 0x20 => s.upd.lastStep
      | _ => 0

/-- OBS_TRACE_SEGn (15 R442). -/
def segWord (s : State) (n : Nat) : W64 :=
  let x := (traceSegs s (traceMib s)).getD n (0, 0)
  at' 64 52 x.2 ||| at' 64 20 (x.1 / 2 ^ 20)

/-- OBS (15 Table 15.12). -/
def readObs (s : State) (off : Nat) : W64 :=
  match indexIn off 0x60 8 with
  | some n => segWord s n
  | none =>
    match off with
    | 0x00 =>
      pair32 (flagWord [(1, s.obs.traceRun), (0, s.obs.sampleEn)])
        (flagWord [(3, s.obs.traceRefused), (2, s.obs.triggered), (1, s.obs.sampleDrop), (0, s.obs.crumbSkip)])
    | 0x08 => pair32 ((rwsCopy s).intervalUs.setWidth 32) 0
    | 0x10 => (rwsCopy s).sampleMask
    | 0x18 => s.obs.sampleBase
    | 0x20 => s.obs.sampleHeadAddr
    | 0x28 => pair32 s.obs.sampleSeq s.obs.sampleDrops
    | 0x30 =>
      pair32 (at' 32 16 (rwsCopy s).post.toNat ||| at' 32 14 (rwsCopy s).traceMode.toNat ||| (rwsCopy s).sizeMib.setWidth 32) s.obs.traceMask
    | 0x38 => at' 64 62 s.obs.traceState.code ||| at' 64 32 s.obs.trigPtr.toNat ||| s.obs.writePtr.setWidth 64
    | 0x40 => pair32 s.obs.traceDrops s.obs.fifoDrops
    | 0x48 => pair32 s.obs.trigCfg s.obs.faultCfg
    | 0x50 => pair32 s.obs.crumbSeq s.store.mramSeq
    | _ => 0

/-- SEC (13 Table 13.16). -/
def readSec (s : State) (off : Nat) : W64 :=
  match indexIn off 0x08 4, indexIn off 0x28 4 with
  | some n, _ => BitVec.ofNat 64 (s.fuses.keyHash.toNat >>> (64 * n))
  | _, some n => BitVec.ofNat 64 (leNat ((s.sec.fwDigest.drop (8 * n)).take 8))
  | _, _ =>
    match off with
    | 0x00 =>
      pair32 (at' 32 16 s.sec.imageRollback.toNat ||| at' 32 8 s.fuses.rollback |||
        flagWord [(2, s.fuses.debugLocked), (1, s.sec.recovered), (0, s.sec.verified)]) 0
    | 0x48 => pair32 (at' 32 4 s.sec.mctp ||| BitVec.ofNat 32 s.sec.doe) (updateStatus s)
    | _ => 0

/-- Page groups in a retry hold (10 R306). -/
def heldGroups (s : State) : Nat := (s.ple.dir.filter fun e => e.2.hold != 0).length

/-- PLE (10 Table 10.12). -/
def readPle (s : State) (off : Nat) : W64 :=
  match off with
  | 0x00 =>
    pair32 (flagWord [(0, s.ple.migrateNext)])
      (at' 32 8 s.ple.reason.toNat |||
        flagWord [(3, s.ple.hdmMiss), (2, s.ple.placeFail), (1, s.ple.replacePending), (0, placed s)])
  | 0x08 => match s.ple.placement with | some p => p.id | none => 0
  | 0x10 => pair32 s.ple.migNext (BitVec.ofNat 32 (heldGroups s))
  | 0x18 => pair32 (flagWord ((s.ple.images.filter fun i => i.1 < 16).map fun i => (i.1, true))) 0
  | _ => 0

/-- The MSI-X table and PBA (12 Table 12.6, 13 R378; log entry 11). -/
def readMsix (s : State) (off : Nat) : W64 :=
  if off < 0x8000 then
    let m := msixOf s (off / 16)
    if off % 16 = 0 then m.addr else pair32 m.data (flagWord [(0, m.masked)])
  else if off < 0x8100 then
    BitVec.ofNat 64 (((List.range 64).map fun i => b2n (vecOf s (8 * (off - 0x8000) + i)).pba * 2 ^ i).foldl (· + ·) 0)
  else 0

/-- The aligned 8 bytes at an offset; offsets outside every block read 0 (12 R360). -/
def readWord (s : State) (off : Nat) : W64 :=
  if 0x200000 ≤ off then readMsix s (off - 0x200000)
  else if 0x100000 ≤ off then BitVec.ofNat 64 (windowCtr s ((off - 0x100000) / 8))
  else
    let o := off % 0x10000
    match off / 0x10000 with
    | 0 => readGlb s o | 1 => readCmt s o | 2 => readClk s o | 3 => readPwr s o
    | 4 => readEvc s o | 5 => readMbx s o | 6 => readQsu s o | 7 => readTkc s o
    | 8 => readFab s o | 9 => readMem s o | 10 => readPrc s o | 11 => readUpd s o
    | 12 => readObs s o | 13 => readSec s o | 14 => readPle s o | _ => 0

/-- A read is answered with a register's value: natural alignment, and outside READY only the blocks that then respond (R361, R362). -/
def readable (s : State) (off size : Nat) : Bool := (busRead off size s).1

/-- What an 8-byte read returns: a register of 64 bits at one moment (R361). -/
def readEight (s : State) (off : Nat) : W64 := if readable s off 8 then readWord s off else 0

/-- A register of 64 bits lies at the offset, so that the read of its low word latches the high one (02 R58): counters, maps and the
wide registers of each block. -/
def wideRead (off : Nat) : Bool :=
  off % 8 == 0 &&
    (decide (0x100000 ≤ off) && decide (off < 0x200000) || wide off || (decide (0x200000 ≤ off) && off % 16 == 0) ||
      (decide (0x40 ≤ off) && decide (off < 0x68)) || (decide (0x40100 ≤ off) && decide (off < 0x40300)) ||
      (decide (0x48100 ≤ off) && decide (off < 0x48300)) || (decide (0x50000 ≤ off) && decide (off < 0x50108)) ||
      (decide (0x60040 ≤ off) && decide (off < 0x60080)) || (decide (0x71000 ≤ off) && decide (off < 0x79000)) ||
      (decide (0x80100 ≤ off) && decide (off < 0x80400)) || (decide (0x90100 ≤ off) && decide (off < 0x90180)) ||
      (decide (0xB1000 ≤ off) && decide (off < 0xB2800)) || (decide (0xC0060 ≤ off) && decide (off < 0xC00A0)) ||
      (decide (0xD0008 ≤ off) && decide (off < 0xD0048)) ||
      [0x00, 0x08, 0x10010, 0x10018, 0x20008, 0x20010, 0x20020, 0x30018, 0x40018, 0x40020, 0x40028, 0x60030, 0x70030, 0x70038, 0x70048,
        0x70050, 0x80020, 0x90010, 0xB0010, 0xB0018, 0xB0020, 0xC0018, 0xC0020, 0xC0038, 0xC0050, 0xE0008].contains off)

/-- What a 4-byte read returns, with the latch of R58: the high word that the last read of a low word left, and the latch after it. -/
def readFour (s : State) (off : Nat) : W32 × Option (Nat × W32) :=
  if !readable s off 4 then (0, s.glb.latch)
  else if off % 8 = 0 then
    let w := readWord s off
    (w.setWidth 32, if wideRead off then some (off, (w >>> 32).setWidth 32) else s.glb.latch)
  else
    let high : W32 := ((readWord s (off - 4)) >>> 32).setWidth 32
    match s.glb.latch with
    | some (o, w) => if o + 4 = off then (w, none) else (high, s.glb.latch)
    | none => (high, none)

/-- Mailboxes whose MBX_RECVn lies at an offset (13 Table 13.10). -/
def recvBox (off : Nat) : Option Nat := if 0x50080 ≤ off ∧ off < 0x50100 then some (16 + (off - 0x50080) / 8) else none

/-- The read of MBX_RECVn takes the word of a FULL mailbox (13 R383). -/
def takeRecv (off : Nat) (s : State) : State := match recvBox off with | some b => sendOwed (b - 16) (boxTake b s).2 | none => s

/-- A host read of BAR0: its value goes to the host; a refused one gives 0 and sets its flag (R360-R362, 02 R58, 00 R8). Of a mailbox word
read in two halves the first takes it (02 R58). -/
def registerRead (off size : Nat) (s : State) : State :=
  let r := busRead off size s
  if !s.pwr.powered || s.pwr.tripped then s
  else if !r.1 then emit (.readData 0) r.2
  else if size = 8 then emit (.readData (readWord s off)) (takeRecv off s)
  else
    let x := readFour s off
    let s := if off % 8 = 0 then takeRecv off s else s
    emit (.readData (x.1.setWidth 64)) { s with glb := { s.glb with latch := x.2 } }

/-- MBX_RECV (13 R383): the driver reads MBX_RECVn. -/
def mbxRecv (box : Nat) (s : State) : State := if 16 ≤ box && box < 32 then registerRead (0x50080 + 8 * (box - 16)) 8 s else s

def execMbxRecv (box : Nat) (s : State) : Host.Outcome State Fault Refusal := .next (mbxRecv box s)

end Sys2Proof.Machine
end

