-- ==== Sys2Proof/Machine/Dispatch.lean ====
section
/-!
DEFINITION. One arm for each command: a direct call of its meaning.
-/
namespace Sys2Proof.Machine

/-- The effect of a command on everything but the queue. -/
def exec (i : Instr) (s : State) : Host.Outcome State Fault Refusal :=
  match i with
  | .nop ring d => Sys2Proof.Machine.execNop ring d s
  | .signal ring d => Sys2Proof.Machine.execSignal ring d s
  | .wait ring d => Sys2Proof.Machine.execWait ring d s
  | .waitTimeout ring => Sys2Proof.Machine.execWaitTimeout ring s
  | .fence ring d => Sys2Proof.Machine.execFence ring d s
  | .tickMark ring d => Sys2Proof.Machine.execTickMark ring d s
  | .vote ring d => Sys2Proof.Machine.execVote ring d s
  | .loadGraph ring d => Sys2Proof.Machine.execLoadGraph ring d s
  | .place ring d => Sys2Proof.Machine.execPlace ring d s
  | .replace ring d => Sys2Proof.Machine.execReplace ring d s
  | .pin ring d => Sys2Proof.Machine.execPin ring d s
  | .unloadGraph ring d => Sys2Proof.Machine.execUnloadGraph ring d s
  | .matmul ring d => Sys2Proof.Machine.execMatmul ring d s
  | .matvec ring d => Sys2Proof.Machine.execMatvec ring d s
  | .embGather ring d => Sys2Proof.Machine.execEmbGather ring d s
  | .embPool ring d => Sys2Proof.Machine.execEmbPool ring d s
  | .embScatter ring d => Sys2Proof.Machine.execEmbScatter ring d s
  | .elemwise ring d => Sys2Proof.Machine.execElemwise ring d s
  | .norm ring d => Sys2Proof.Machine.execNorm ring d s
  | .softmax ring d => Sys2Proof.Machine.execSoftmax ring d s
  | .attend ring d => Sys2Proof.Machine.execAttend ring d s
  | .convert ring d => Sys2Proof.Machine.execConvert ring d s
  | .loadWeights ring d => Sys2Proof.Machine.execLoadWeights ring d s
  | .copy ring d => Sys2Proof.Machine.execCopy ring d s
  | .gatherParams ring d => Sys2Proof.Machine.execGatherParams ring d s
  | .reduceScatter ring d => Sys2Proof.Machine.execReduceScatter ring d s
  | .allToAll ring d => Sys2Proof.Machine.execAllToAll ring d s
  | .send ring d => Sys2Proof.Machine.execSend ring d s
  | .recv ring d => Sys2Proof.Machine.execRecv ring d s
  | .updateLayer ring d => Sys2Proof.Machine.execUpdateLayer ring d s
  | .rowUpdate ring d => Sys2Proof.Machine.execRowUpdate ring d s
  | .stepBegin ring d => Sys2Proof.Machine.execStepBegin ring d s
  | .stepCommit ring d => Sys2Proof.Machine.execStepCommit ring d s
  | .scheduleSet ring d => Sys2Proof.Machine.execScheduleSet ring d s
  | .setRecipe ring d => Sys2Proof.Machine.execSetRecipe ring d s
  | .readStats ring d => Sys2Proof.Machine.execReadStats ring d s
  | .shadowCfg ring d => Sys2Proof.Machine.execShadowCfg ring d s
  | .digest ring d => Sys2Proof.Machine.execDigest ring d s
  | .dump ring d => Sys2Proof.Machine.execDump ring d s
  | .replay ring d => Sys2Proof.Machine.execReplay ring d s
  | .recordStep ring d => Sys2Proof.Machine.execRecordStep ring d s
  | .traceStart ring d => Sys2Proof.Machine.execTraceStart ring d s
  | .traceStop ring d => Sys2Proof.Machine.execTraceStop ring d s
  | .traceTrigger ring d => Sys2Proof.Machine.execTraceTrigger ring d s
  | .traceMark ring d => Sys2Proof.Machine.execTraceMark ring d s
  | .traceSetMask ring d => Sys2Proof.Machine.execTraceSetMask ring d s
  | .sampleNow ring d => Sys2Proof.Machine.execSampleNow ring d s
  | .abortContext ring d => Sys2Proof.Machine.execAbortContext ring d s
  | .query ring d => Sys2Proof.Machine.execQuery ring d s
  | .migrate table page => Sys2Proof.Machine.execMigrate table page s
  | .tickEdge => Sys2Proof.Machine.execTickEdge s
  | .doneReport => Sys2Proof.Machine.execDoneReport s
  | .doneForward round => Sys2Proof.Machine.execDoneForward round s
  | .doneSymbolReceive dim peer symbol => Sys2Proof.Machine.execDoneSymbolReceive dim peer symbol s
  | .voteFrameReceive dim peer frame => Sys2Proof.Machine.execVoteFrameReceive dim peer frame s
  | .arrayPassStart tile tag rows readyCycle found => Sys2Proof.Machine.execArrayPassStart tile tag rows readyCycle found s
  | .shadowCheck tile => Sys2Proof.Machine.execShadowCheck tile s
  | .productTableBuild layer => Sys2Proof.Machine.execProductTableBuild layer s
  | .rootComputeStart layer block factor => Sys2Proof.Machine.execRootComputeStart layer block factor s
  | .rootComputeDone layer block factor => Sys2Proof.Machine.execRootComputeDone layer block factor s
  | .stagingLogWriteback table row => Sys2Proof.Machine.execStagingLogWriteback table row s
  | .nearScrubPass column word found => Sys2Proof.Machine.execNearScrubPass column word found s
  | .farScrubPass channel sector found => Sys2Proof.Machine.execFarScrubPass channel sector found s
  | .bucketDecay => Sys2Proof.Machine.execBucketDecay s
  | .doorbellL1Invalidate line stores => Sys2Proof.Machine.execDoorbellL1Invalidate line stores s
  | .cqHeadUpdate context stores => Sys2Proof.Machine.execCqHeadUpdate context stores s
  | .qsuTblWrite => Sys2Proof.Machine.execQsuTblWrite s
  | .qsuTblRead => Sys2Proof.Machine.execQsuTblRead s
  | .qsuTblEnable => Sys2Proof.Machine.execQsuTblEnable s
  | .qsuTblDisable => Sys2Proof.Machine.execQsuTblDisable s
  | .ringDisabled ring => Sys2Proof.Machine.execRingDisabled ring s
  | .fetchEnSet => Sys2Proof.Machine.execFetchEnSet s
  | .cmtCommit groups => Sys2Proof.Machine.execCmtCommit groups s
  | .cmtDiscard groups => Sys2Proof.Machine.execCmtDiscard groups s
  | .cmtGroupApply group => Sys2Proof.Machine.execCmtGroupApply group s
  | .tkcRunSet => Sys2Proof.Machine.execTkcRunSet s
  | .tkcRunClear => Sys2Proof.Machine.execTkcRunClear s
  | .glbDeviceReset key => Sys2Proof.Machine.execGlbDeviceReset key s
  | .registerWrite offset size value => Sys2Proof.Machine.execRegisterWrite offset size value s
  | .clkTbSet value => Sys2Proof.Machine.execClkTbSet value s
  | .mbxSend box word => Sys2Proof.Machine.execMbxSend box word s
  | .mbxRecv box => Sys2Proof.Machine.execMbxRecv box s
  | .ping pair => Sys2Proof.Machine.execPing pair s
  | .stateCmd pair => Sys2Proof.Machine.execStateCmd pair s
  | .crumbRead pair => Sys2Proof.Machine.execCrumbRead pair s
  | .fwUpdate pair => Sys2Proof.Machine.execFwUpdate pair s
  | .fwUpdateComplete flashOk => Sys2Proof.Machine.execFwUpdateComplete flashOk s
  | .updateStatus pair => Sys2Proof.Machine.execUpdateStatus pair s
  | .recoveryLoad flashOk => Sys2Proof.Machine.execRecoveryLoad flashOk s
  | .evcEoi source => Sys2Proof.Machine.execEvcEoi source s
  | .evcFastEoi source => Sys2Proof.Machine.execEvcFastEoi source s
  | .evcGlobalEnable => Sys2Proof.Machine.execEvcGlobalEnable s
  | .evcArmLine line stores => Sys2Proof.Machine.execEvcArmLine line stores s
  | .vectorModTimeout vector => Sys2Proof.Machine.execVectorModTimeout vector s
  | .msixUnmask vector => Sys2Proof.Machine.execMsixUnmask vector s
  | .sampleTick => Sys2Proof.Machine.execSampleTick s
  | .traceRunSet => Sys2Proof.Machine.execTraceRunSet s
  | .traceRunClear => Sys2Proof.Machine.execTraceRunClear s
  | .traceDrain records => Sys2Proof.Machine.execTraceDrain records s
  | .crumbMramWrite => Sys2Proof.Machine.execCrumbMramWrite s
  | .flitReceive port flit => Sys2Proof.Machine.execFlitReceive port flit s
  | .replayTimeout port => Sys2Proof.Machine.execReplayTimeout port s
  | .messageReceive port msg => Sys2Proof.Machine.execMessageReceive port msg s
  | .remoteSignalReceive source cmd msgIndex value word1 => Sys2Proof.Machine.execRemoteSignalReceive source cmd msgIndex value word1 s
  | .remoteSignalAnswer source cmd msgIndex reject => Sys2Proof.Machine.execRemoteSignalAnswer source cmd msgIndex reject s
  | .portTrainingDone port identity rttNs lanes => Sys2Proof.Machine.execPortTrainingDone port identity rttNs lanes s
  | .portRetrain port cause lanes => Sys2Proof.Machine.execPortRetrain port cause lanes s
  | .timeExchangeStart => Sys2Proof.Machine.execTimeExchangeStart s
  | .timeRequestReceive dim peer t1 => Sys2Proof.Machine.execTimeRequestReceive dim peer t1 s
  | .timeResponseReceive t2 t3 t4 cycles => Sys2Proof.Machine.execTimeResponseReceive t2 t3 t4 cycles s
  | .lockStateMessage locked => Sys2Proof.Machine.execLockStateMessage locked s
  | .hostWindowAccess write offset data => Sys2Proof.Machine.execHostWindowAccess write offset data s
  | .atsInvalidation base bytes => Sys2Proof.Machine.execAtsInvalidation base bytes s
  | .watchdogExpiry core => Sys2Proof.Machine.execWatchdogExpiry core s
  | .clkMonitorWindow domain edges => Sys2Proof.Machine.execClkMonitorWindow domain edges s
  | .clkSwitchTimeout domain => Sys2Proof.Machine.execClkSwitchTimeout domain s
  | .forcedPath domain => Sys2Proof.Machine.execForcedPath domain s
  | .clkRelockFail domain => Sys2Proof.Machine.execClkRelockFail domain s
  | .xtalLoss => Sys2Proof.Machine.execXtalLoss s
  | .powerMeasure volt10mV powerW computeC otherC => Sys2Proof.Machine.execPowerMeasure volt10mV powerW computeC otherC s
  | .thermThrottle => Sys2Proof.Machine.execThermThrottle s
  | .thermTrip => Sys2Proof.Machine.execThermTrip s
  | .pwrFail pin low => Sys2Proof.Machine.execPwrFail pin low s
  | .pwrFailEnd => Sys2Proof.Machine.execPwrFailEnd s
  | .inputLoss => Sys2Proof.Machine.execInputLoss s
  | .pwrEnAssert volt10mV => Sys2Proof.Machine.execPwrEnAssert volt10mV s
  | .pwrEnRelease => Sys2Proof.Machine.execPwrEnRelease s
  | .perstAssert => Sys2Proof.Machine.execPerstAssert s
  | .perstRelease => Sys2Proof.Machine.execPerstRelease s
  | .hotReset => Sys2Proof.Machine.execHotReset s
  | .functionLevelReset => Sys2Proof.Machine.execFunctionLevelReset s
  | .d3hotEntry => Sys2Proof.Machine.execD3hotEntry s
  | .d0Return => Sys2Proof.Machine.execD0Return s
  | .xtalStable => Sys2Proof.Machine.execXtalStable s
  | .xtalBootTimeout => Sys2Proof.Machine.execXtalBootTimeout s
  | .fwImageLoaded => Sys2Proof.Machine.execFwImageLoaded s
  | .memTrainingDone failedStacks failedChannels => Sys2Proof.Machine.execMemTrainingDone failedStacks failedChannels s
  | .cxlLinkTrained width rateGT flit256 => Sys2Proof.Machine.execCxlLinkTrained width rateGT flit256 s
  | .fabricReady => Sys2Proof.Machine.execFabricReady s
  | .spdmRequest transport kind => Sys2Proof.Machine.execSpdmRequest transport kind s
  | .ideKmKey stream substream key => Sys2Proof.Machine.execIdeKmKey stream substream key s
  | .mctpControl command eid => Sys2Proof.Machine.execMctpControl command eid s
  | .pldmBase command => Sys2Proof.Machine.execPldmBase command s
  | .pldmSensorRead sensor => Sys2Proof.Machine.execPldmSensorRead sensor s
  | .pldmFruRead => Sys2Proof.Machine.execPldmFruRead s
  | .pldmCrumbRange => Sys2Proof.Machine.execPldmCrumbRange s
  | .pldmCrumbEntries seq count => Sys2Proof.Machine.execPldmCrumbEntries seq count s
  | .sensorRefresh inletC10 outletC10 => Sys2Proof.Machine.execSensorRefresh inletC10 outletC10 s
  | .commandComplete ring => Sys2Proof.Machine.execCommandComplete ring s
  | .portRetrainTimeout port => Sys2Proof.Machine.execPortRetrainTimeout port s
  | .thermalThrottleEnd => Sys2Proof.Machine.execThermalThrottleEnd s
  | .eventRingHeadUpdate stores => Sys2Proof.Machine.execEventRingHeadUpdate stores s
  | .sampleRingHeadUpdate stores => Sys2Proof.Machine.execSampleRingHeadUpdate stores s

end Sys2Proof.Machine
end

