-- ==== Sys2Proof/Safety.lean ====
section
/-!
DEFINITION. What counts as a safe run, and the terms the statements use: no step of a run stops, the fuses keep what they
hold (13 R391: the rollback index only rises; nothing else in them changes), when a command of a ring is due, and the state
it leaves.
-/
namespace Sys2Proof
open Machine

/-- `n` steps from `s` all answer a next state. -/
def Safe : Nat → State → Prop
  | 0, _ => True
  | n + 1, s =>
    match step s with
    | .next s' => Safe n s'
    | _ => False

/-- From `s` to `s'` the rollback index only rises and every other fuse is as it was. -/
def FusesKept (s s' : State) : Prop :=
  s.fuses.rollback ≤ s'.fuses.rollback ∧ s'.fuses = { s.fuses with rollback := s'.fuses.rollback }

/-- The order that every step keeps: both memories have their canonical form, and bits [2:0] of the time-base count are 0
(14 R404). -/
def Orderly (s : State) : Prop :=
  Memory.wf s.mem.cells = true ∧ Memory.wf s.host = true ∧ s.clk.count.toNat % 8 = 0

/-- In a device that serves rings, `d` with opcode `op` is what ring `q` offers next: command `c`, with `s0` the state in which
it is fetched (11 R324, R325; log entry 5). -/
def Offered (op q : Nat) (d : Desc) (s : State) (c : Cmd) (s0 : State) : Prop :=
  serving s = true ∧ Desc.opcode d = op ∧ offer q d s = some (c, s0)

/-- No check of the header or of the command's own fields makes it a DESCRIPTOR_ERROR (11 R336). -/
def Sound (m : Meaning) (q : Nat) (c : Cmd) (s0 : State) : Prop :=
  headerCheck (ringOf s0 q).stageRing (ringOf s0 q).context.toNat (ringOf s0 q).stage.toNat c.desc = none ∧
  m.check s0 (ringOf s0 q) c = none

/-- The command is offered, nothing holds it back (11 R314, R326, R338; 02 R38) and its checks pass. -/
def Due (op : Nat) (m : Meaning) (q : Nat) (d : Desc) (s : State) (c : Cmd) (s0 : State) : Prop :=
  Offered op q d s c s0 ∧ startable s0 (ringOf s0 q) c = true ∧ Sound m q c s0

/-- The state a command of ring `q`, started in `s0`, leaves when its effect is `t` and the phase it has come to is `p`: its
CMD_START record (15 R436), its phase, and in a recorded or replayed step the digests of its inputs (08 R242). -/
def leaves (q : Nat) (c : Cmd) (p : Phase) (s0 t : State) : State :=
  digestInputs (ringOf s0 q) c (setPhase q c p (traceStart q (ringOf s0 q) c t))

/-- The commands that may change an active register: those at which an agreement group applies (12 R363, Table 12.8), and resets. -/
def mayApplyGroups : Instr → Bool
  | .stepBegin .. | .sampleNow .. | .tickEdge .. | .cmtCommit .. | .cmtGroupApply .. | .glbDeviceReset .. |
    .registerWrite .. | .recoveryLoad .. | .sampleTick .. | .inputLoss .. | .pwrEnAssert .. | .pwrEnRelease .. |
    .perstAssert .. | .hotReset .. | .functionLevelReset .. | .commandComplete .. => true
  | _ => false

/-- The commands after which the time base may stand elsewhere: a write of it, resets, and the timed events (log entry 7). -/
def mayMoveTime : Instr → Bool
  | .waitTimeout .. | .tickEdge .. | .doneReport .. | .doneForward .. | .bucketDecay .. | .glbDeviceReset .. |
    .registerWrite .. | .clkTbSet .. | .recoveryLoad .. | .vectorModTimeout .. | .sampleTick .. | .replayTimeout .. |
    .timeExchangeStart .. | .timeResponseReceive .. | .powerMeasure .. | .inputLoss .. | .pwrEnAssert .. | .pwrEnRelease .. |
    .perstAssert .. | .hotReset .. | .portRetrainTimeout .. |
    .flitReceive .. => true
  | _ => false

/-- The commands that may write module memory. -/
def mayWriteDevice : Instr → Bool
  | .place .. | .matmul .. | .matvec .. | .embGather .. | .embPool .. | .embScatter .. | .elemwise .. | .norm .. |
    .softmax .. | .attend .. | .convert .. | .copy .. | .gatherParams .. | .reduceScatter .. | .allToAll .. | .send .. |
    .recv .. | .rowUpdate .. | .stepBegin .. | .replay .. | .traceStop .. | .tickEdge .. | .stagingLogWriteback .. |
    .glbDeviceReset .. | .registerWrite .. | .fwUpdate .. | .recoveryLoad .. | .traceRunClear .. | .traceDrain .. |
    .messageReceive .. | .hostWindowAccess .. | .inputLoss .. | .pwrEnAssert .. | .pwrEnRelease .. | .perstAssert .. |
    .hotReset .. | .functionLevelReset .. | .commandComplete .. | .updateLayer .. | .doneReport .. => true
  | _ => false

/-- Commands after which both memories, the time base, the fuses and the active registers are as before. -/
def sparesMemory : Instr → Bool
  | .migrate .. | .doneSymbolReceive .. | .productTableBuild .. | .rootComputeStart .. | .rootComputeDone .. |
    .qsuTblRead .. | .qsuTblEnable .. | .qsuTblDisable .. | .ringDisabled .. | .cmtDiscard .. | .tkcRunSet .. |
    .tkcRunClear .. | .traceRunSet .. | .crumbMramWrite .. |
    .timeRequestReceive .. | .atsInvalidation .. | .pwrFailEnd .. | .perstRelease .. |
    .fabricReady .. | .spdmRequest .. | .ideKmKey .. | .mctpControl .. |
    .pldmBase .. | .pldmSensorRead .. | .pldmFruRead .. | .pldmCrumbRange .. | .pldmCrumbEntries .. | .sensorRefresh .. |
    .thermalThrottleEnd .. => true
  | _ => false

/-- Opcode, ring, descriptor and meaning of a command of a ring, but for TRACE_CTL, whose five rows share an opcode. -/
def ringMeaning : Instr → Option (Nat × Nat × Desc × Meaning)
  | .nop q d => some (opNop, q, d, nopMeaning)
  | .signal q d => some (opSignal, q, d, signalMeaning)
  | .wait q d => some (opWait, q, d, waitMeaning)
  | .fence q d => some (opFence, q, d, fenceMeaning)
  | .tickMark q d => some (opTickMark, q, d, tickMarkMeaning)
  | .vote q d => some (opVote, q, d, ⟨openStepCheck, voteBody⟩)
  | .loadGraph q d => some (opLoadGraph, q, d, ⟨alignedCheck 2, loadGraphBody⟩)
  | .place q d => some (opPlace, q, d, ⟨noCheck, placeBody⟩)
  | .replace q d => some (opReplace, q, d, ⟨alignedCheck 2, replaceBody⟩)
  | .pin q d => some (opPin, q, d, ⟨pinCheck, pinBody⟩)
  | .unloadGraph q d => some (opUnloadGraph, q, d, ⟨noCheck, unloadBody⟩)
  | .matmul q d => some (opMatmul, q, d, ⟨matCheck false, matBody⟩)
  | .matvec q d => some (opMatvec, q, d, ⟨matCheck true, matBody⟩)
  | .embGather q d => some (opEmbGather, q, d, ⟨embCheck false (fun _ => 0), embBody false (fun s d => operandTensor s (operand d.w5)) gatherRep⟩)
  | .embPool q d => some (opEmbPool, q, d, ⟨embCheck false embBags, embBody false (fun s d => operandTensor s (operand d.w5)) poolRep⟩)
  | .embScatter q d => some (opEmbScatter, q, d, ⟨embCheck true embBags, embBody true (fun _ d => bits d.w7 23 0) scatterRep⟩)
  | .elemwise q d => some (opElemwise, q, d, ⟨elemCheck, elemBody⟩)
  | .norm q d => some (opNorm, q, d, ⟨normCheck, normBody⟩)
  | .softmax q d => some (opSoftmax, q, d, ⟨softmaxCheck, softmaxBody⟩)
  | .attend q d => some (opAttend, q, d, ⟨attendCheck, attendBody⟩)
  | .convert q d => some (opConvert, q, d, ⟨convertCheck, convertBody⟩)
  | .loadWeights q d => some (opLoadWeights, q, d, ⟨loadCheck, loadBody⟩)
  | .copy q d => some (opCopy, q, d, ⟨copyCheck, copyBody⟩)
  | .gatherParams q d => some (opGatherParams, q, d, ⟨gatherCheck, gatherBody⟩)
  | .reduceScatter q d => some (opReduceScatter, q, d, ⟨reduceCheck, reduceBody⟩)
  | .allToAll q d => some (opAllToAll, q, d, ⟨a2aCheck, a2aBody⟩)
  | .send q d => some (opSend, q, d, ⟨sendCheck, sendBody⟩)
  | .recv q d => some (opRecv, q, d, ⟨sendCheck, recvBody⟩)
  | .updateLayer q d => some (opUpdateLayer, q, d, ⟨updateCheck, updateBody⟩)
  | .rowUpdate q d => some (opRowUpdate, q, d, ⟨rowCheck, rowBody⟩)
  | .stepBegin q d => some (opStepBegin, q, d, ⟨stepBeginCheck, stepBeginBody⟩)
  | .stepCommit q d => some (opStepCommit, q, d, ⟨openStepCheck, stepCommitBody⟩)
  | .scheduleSet q d => some (opScheduleSet, q, d, ⟨scheduleCheck, scheduleBody⟩)
  | .setRecipe q d => some (opSetRecipe, q, d, ⟨noCheck, setRecipeBody⟩)
  | .readStats q d => some (opReadStats, q, d, ⟨noCheck, readStatsBody⟩)
  | .shadowCfg q d => some (opShadowCfg, q, d, ⟨shadowCheckCfg, shadowCfgBody⟩)
  | .digest q d => some (opDigest, q, d, ⟨digestCheck, digestBody⟩)
  | .dump q d => some (opDump, q, d, ⟨dumpCheck, dumpBody⟩)
  | .replay q d => some (opReplay, q, d, ⟨noCheck, replayBody⟩)
  | .recordStep q d => some (opRecordStep, q, d, ⟨recordCheck, recordBody⟩)
  | .sampleNow q d => some (opSampleNow, q, d, sampleNowMeaning)
  | .abortContext q d => some (opAbort, q, d, abortMeaning)
  | .query q d => some (opQuery, q, d, queryMeaning)
  | _ => none

/-- The commands of rings that move messages, after which the fabric's transfers go on (09 R267). -/
def movesMessages : Instr → Bool
  | .copy .. | .gatherParams .. | .reduceScatter .. | .allToAll .. | .send .. | .recv .. => true
  | _ => false

/-- What follows a command of a ring in the same step: the transfers of the fabric go on after one that moves messages. -/
def settled (i : Instr) (s : State) : State := if movesMessages i then settleFab s else s

/-- A host write at offset `off` reaches its block: the device has power, and it is READY or the block answers before that
(12 R362). -/
def Reaches (off : Nat) (s : State) : Prop :=
  s.pwr.powered = true ∧ s.pwr.tripped = false ∧ (s.glb.state = .ready ∨ earlyBlock off = true)

end Sys2Proof
end

