-- ==== Sys2Proof/Certificates/Slice0/Obligations.lean ====
section
/-!
DEFINITION. The statements about the model that are to be proved.
-/
open Sys2Proof Sys2Proof.Machine

/-- A step runs the command at the front of the queue on the state with the rest of the queue. -/
def Obligations.FrontCommandRuns : Prop := ∀ (c : Instr) (s : State), step { s with pending := c :: s.pending } = exec c s

/-- Every command answers a next state, none but a step changes the queue, and so a run of any length goes on: no step of it ends
in a fault or a refusal. -/
def Obligations.EveryCommandAnswers : Prop :=
  (∀ (c : Instr) (s : State), Orderly s → ∃ t, exec c s = .next t ∧ t.pending = s.pending) ∧ ∀ (n : Nat) (s : State), Safe n s

/-- Reset: the values the tables of the spec give. -/
def Obligations.ResetValues : Prop :=
  State.reset.glb.state = .bootRom ∧ State.reset.clk.count = 0 ∧ State.reset.clk.coarse = true ∧ State.reset.clk.monEn = true ∧
  State.reset.qsu.fetchEn = false ∧ State.reset.obs.traceState = .stopped ∧ State.reset.obs.traceRun = false ∧
  State.reset.obs.faultCfg = 0x08000200 ∧ State.reset.upd.rootsEn = true ∧ State.reset.ple.migCfg = 0x20040400 ∧
  State.reset.pwr.capEn = true ∧ State.reset.pwr.aclk = 0x4E2 ∧ State.reset.cmt.applied = 0 ∧ State.reset.tkc.run = false ∧
  State.reset.obs.ctrs = [] ∧ State.reset.tiles.weights = []

/-- Module memory and host memory keep their canonical form, and bits [2:0] of the time-base count stay 0, through every
step: a command's or an idle one. -/
def Obligations.EveryStepKeepsOrder : Prop := ∀ s s' : State, Orderly s → step s = .next s' → Orderly s'

/-- The order holds at reset. -/
def Obligations.ResetIsOrderly : Prop := Orderly State.reset

/-- Through every step the rollback index only rises and every other fuse is as it was (13 R390, R391). -/
def Obligations.FusesOnlyRiseRollback : Prop := ∀ s s' : State, Orderly s → step s = .next s' → FusesKept s s'

/-- Registers of an agreement group change only by the commands at which a group applies and by resets (12 R363); every byte of
module memory is unchanged by every command that stores none; the time base stands still but for the commands that move it. -/
def Obligations.CommandFrames : Prop :=
  ∀ (c : Instr) (s t : State), Orderly s → exec c s = .next t →
    (mayApplyGroups c = false → t.act = s.act) ∧
    (mayWriteDevice c = false → ∀ a, Memory.get t.mem.cells a = Memory.get s.mem.cells a) ∧
    (mayMoveTime c = false → t.clk.count = s.clk.count)

/-- Commands that write no memory at all, neither the module's nor the host's. -/
def Obligations.MemoriesSpared : Prop :=
  ∀ (c : Instr) (s t : State), sparesMemory c = true → exec c s = .next t →
    (∀ a, Memory.get t.mem.cells a = Memory.get s.mem.cells a) ∧ (∀ a, Memory.get t.host a = Memory.get s.host a) ∧
    t.clk.count = s.clk.count ∧ t.act = s.act ∧ t.fuses = s.fuses

/-- A command of a ring that is due has the effect of its row, and its CMD_START record and phase follow; one whose effect
cannot begin yet stays waiting. -/
def Obligations.DueCommandRuns : Prop :=
  ∀ (i : Instr) (op q : Nat) (d : Desc) (m : Meaning) (s s0 : State) (c : Cmd), ringMeaning i = some (op, q, d, m) →
    Due op m q d s c s0 →
    exec i s = .next (settled i
      (match (m.body q (ringOf s0 q) c s0).1 with
       | .waiting => (m.body q (ringOf s0 q) c s0).2
       | p => leaves q c p s0 (m.body q (ringOf s0 q) c s0).2))

/-- A fetched command that a rule holds back stays fetched and has no effect (11 R314, R326, R338; 02 R38). -/
def Obligations.HeldBackCommandStays : Prop :=
  ∀ (i : Instr) (op q : Nat) (d : Desc) (m : Meaning) (s s0 : State) (c : Cmd), ringMeaning i = some (op, q, d, m) →
    Offered op q d s c s0 → startable s0 (ringOf s0 q) c = false → exec i s = .next (settled i s0)

/-- A command with a wrong field ends with its error and does nothing else (11 R336). -/
def Obligations.WrongCommandEnds : Prop :=
  ∀ (i : Instr) (op q : Nat) (d : Desc) (m : Meaning) (s s0 : State) (c : Cmd) (e : Result),
    ringMeaning i = some (op, q, d, m) → Offered op q d s c s0 → startable s0 (ringOf s0 q) c = true →
    (headerCheck (ringOf s0 q).stageRing (ringOf s0 q).context.toNat (ringOf s0 q).stage.toNat c.desc).or
      (m.check s0 (ringOf s0 q) c) = some e →
    exec i s = .next (settled i (finish q c e (traceStart q (ringOf s0 q) c s0)))

/-- A host write that is not aligned or has another size than 4 or 8 bytes, or that reaches a block that does not answer yet,
is dropped with its flag (12 R361, R362). -/
def Obligations.DroppedWrites : Prop :=
  ∀ (off size : Nat) (v : W64) (s : State), s.pwr.powered = true → s.pwr.tripped = false →
    (alignedAccess off size = false →
      exec (.registerWrite off size v) s =
        .next { dropHeld off size s with glb := { (dropHeld off size s).glb with badAccess := true } }) ∧
    (alignedAccess off size = true → s.glb.state ≠ .ready → earlyBlock off = false → inBlock off = true →
      exec (.registerWrite off size v) s =
        .next { dropHeld off size s with glb := { (dropHeld off size s).glb with earlyAccess := true } })

/-- NOP and FENCE end OK with no other effect; a FENCE that spans its context first waits for it. TICK_MARK ends OK and sets the
ring's base beat (11 Table 11.7, R326; 02 R38). WAIT ends OK at once when the value is reached and starts waiting otherwise;
WAIT_TIMEOUT ends the ring's first WAIT whose limit passes, at that moment, with TIMEOUT (11 R339). -/
def Obligations.OrderingCommandsComplete : Prop :=
  (∀ (q : Nat) (d : Desc) (s s0 : State) (c : Cmd),
    (Due opNop nopMeaning q d s c s0 → exec (.nop q d) s = .next (leaves q c (.finished okResult) s0 s0)) ∧
    (Due opFence fenceMeaning q d s c s0 → (bit d.w2 0 && ctxBusyBefore s0 (ringOf s0 q).context.toNat c.order) = false →
      exec (.fence q d) s = .next (leaves q c (.finished okResult) s0 s0)) ∧
    (Due opFence fenceMeaning q d s c s0 → (bit d.w2 0 && ctxBusyBefore s0 (ringOf s0 q).context.toNat c.order) = true →
      exec (.fence q d) s = .next s0) ∧
    (Due opTickMark tickMarkMeaning q d s c s0 →
      exec (.tickMark q d) s = .next (leaves q c (.finished okResult) s0 (setRing q { ringOf s0 q with baseBeat := d.w2 } s0)))) ∧
  (∀ (q : Nat) (d : Desc) (s s0 : State) (c : Cmd), Due opWait waitMeaning q d s c s0 →
    (d.w3.toNat ≤ (syncOf s0 (bits d.w2 12 0)).value.toNat →
      exec (.wait q d) s = .next (leaves q c (.finished okResult) s0 s0)) ∧
    ((syncOf s0 (bits d.w2 12 0)).value.toNat < d.w3.toNat →
      exec (.wait q d) s = .next (leaves q c (.started (now s0)) s0 s0))) ∧
  (∀ (q t : Nat) (s : State) (c : Cmd), serving s = true → firstTimeout (ringOf s q).cmds = some (t, c) →
    exec (.waitTimeout q) s = .next (finish q c (stResult stTimeout) (advanceTo t s)))

/-- SIGNAL acts only after every earlier command of its ring has completed: while one has not, a fetched SIGNAL changes no sync object
and sends nothing (11 R338). -/
def Obligations.SignalWaitsForEarlier : Prop :=
  ∀ (q : Nat) (d : Desc) (s s0 : State) (c : Cmd), Offered opSignal q d s c s0 → earlier (ringOf s0 q) c ≠ [] →
    exec (.signal q d) s = .next s0 ∧ s0.qsu.sync = s.qsu.sync ∧ s0.qsu.remote = s.qsu.remote ∧ s0.out = s.out ∧ s0.fab = s.fab

/-- A local SIGNAL sets the sync object, or adds to it with saturation and the SYNC_SAT flag; every WAIT then looks at it
(11 R338, R339). -/
def Obligations.SignalCompletes : Prop :=
  ∀ (q : Nat) (d : Desc) (s s0 : State) (c : Cmd), Due opSignal signalMeaning q d s c s0 → sigRemote d = false →
    (sigSet d = true →
      exec (.signal q d) s = .next (leaves q c (.finished okResult) s0
        (putSync (sigIndex d) { syncOf s0 (sigIndex d) with value := d.w3 } s0))) ∧
    (sigSet d = false →
      exec (.signal q d) s = .next (leaves q c
        (.finished (mkResult stOk (if 2 ^ 64 ≤ (syncOf s0 (sigIndex d)).value.toNat + d.w3.toNat then flSyncSat else 0) 0 0)) s0
        (putSync (sigIndex d) { syncOf s0 (sigIndex d) with value := satAdd (syncOf s0 (sigIndex d)).value d.w3 } s0)))

/-- A remote SIGNAL leaves as a message and ends on its answer, one that names its own device acts at once; at the target it adds
when the object lets remote devices change it, else it is refused and counted; both are answered by a message, a copy is counted and
discarded, and the answer ends the SIGNAL OK or FAULT (09 R261, R264; 11 R340). -/
def Obligations.RemoteSignalsComplete : Prop :=
  (∀ (q : Nat) (d : Desc) (s s0 : State) (c : Cmd), Due opSignal signalMeaning q d s c s0 → sigRemote d = true →
    (sigDevice d ≠ myDevice s0 →
      exec (.signal q d) s = .next (leaves q c (.started (now s0)) s0
        (sendTo (sigDevice d) (signalMessage s0 (sigDevice d) s0.qsu.remoteSeq 0 (signalBytes (sigIndex d) d.w3 false false))
          { s0 with qsu := { s0.qsu with
              remoteSeq := s0.qsu.remoteSeq + 1
              remote := s0.qsu.remote ++ [(sigDevice d, s0.qsu.remoteSeq, q, c.index)] } }))) ∧
    (sigDevice d = myDevice s0 → (syncOf s0 (sigIndex d)).remoteOk = true →
      exec (.signal q d) s = .next (leaves q c (.finished okResult) s0
        (putSync (sigIndex d) { syncOf s0 (sigIndex d) with value := satAdd (syncOf s0 (sigIndex d)).value d.w3 } s0))) ∧
    (sigDevice d = myDevice s0 → (syncOf s0 (sigIndex d)).remoteOk = false →
      exec (.signal q d) s = .next (leaves q c (.finished (stResult stFault)) s0 (count (qsuCtr 8) 1 s0)))) ∧
  (∀ (source : Nat) (cmd k : W32) (v w1 : W64) (s t : State), alive s = true → bit w1 50 = false →
    t = oweArrived (arrivalPort s source) 0 2 s →
    (k.toNat < SMap.get t.fab.marks (dupKey source 0 noGroup cmd) 0 →
      exec (.remoteSignalReceive source cmd k v w1) s = .next (countDup source t)) ∧
    (SMap.get t.fab.marks (dupKey source 0 noGroup cmd) 0 ≤ k.toNat → ∃ u,
      u = { t with fab := { t.fab with marks := SMap.put t.fab.marks (dupKey source 0 noGroup cmd) (k.toNat + 1) } } ∧
      ((syncOf t (bits w1 63 51)).remoteOk = true →
        ∃ v', v' = putSync (bits w1 63 51) { syncOf t (bits w1 63 51) with value := satAdd (syncOf t (bits w1 63 51)).value v } u ∧
          exec (.remoteSignalReceive source cmd k v w1) s = .next
            (sendTo source (signalMessage v' source cmd k (signalBytes (bits w1 63 51) v true false)) v')) ∧
      ((syncOf t (bits w1 63 51)).remoteOk = false →
        ∃ v', v' = count (qsuCtr 8) 1 u ∧
          exec (.remoteSignalReceive source cmd k v w1) s = .next
            (sendTo source (signalMessage v' source cmd k (signalBytes (bits w1 63 51) v true true)) v')))) ∧
  (∀ (source q : Nat) (cmd i : W32) (reject : Bool) (s t : State) (c : Cmd), t = oweArrived (arrivalPort s source) 0 2 s →
    t.qsu.remote.find? (fun x => x.1 == source && x.2.1 == cmd) = some (source, cmd, q, i) →
    (ringOf t q).cmds.find? (fun c => c.index == i && abortable c) = some c →
    exec (.remoteSignalAnswer source cmd 0 reject) s =
      .next (finish q c (if reject then stResult stFault else okResult)
        { t with qsu := { t.qsu with remote := t.qsu.remote.filter fun y => y != (source, cmd, q, i) } }))

/-- QUERY writes at most DEST_BYTES bytes of its answer to host memory and tells in DETAIL how many; ABORT_CONTEXT ends every
unfinished command of its target and completes once the target's records are written (11 Table 11.7, R345). -/
def Obligations.QueryAndAbortComplete : Prop :=
  ∀ (q : Nat) (d : Desc) (s s0 : State) (c : Cmd),
    (Due opQuery queryMeaning q d s c s0 → hostOk s0 (ringOf s0 q).context.toNat = true →
      exec (.query q d) s = .next (leaves q c
        (.finished { okResult with
          detail := BitVec.ofNat 32 ((queryAnswer s0 (bits d.w3 63 56) (bits d.w4 19 0)).take (bits d.w3 31 0)).length }) s0
        (hostWrite s0 d.w2.toNat ((queryAnswer s0 (bits d.w3 63 56) (bits d.w4 19 0)).take (bits d.w3 31 0))))) ∧
    (Due opAbort abortMeaning q d s c s0 →
      exec (.abortContext q d) s = .next (leaves q c
        (if ctxDrained (abortContext (bits d.w2 15 0) (some (q, c.index)) s0) (bits d.w2 15 0) q then .finished okResult
         else .started (now (abortContext (bits d.w2 15 0) (some (q, c.index)) s0))) s0
        (abortContext (bits d.w2 15 0) (some (q, c.index)) s0)))

/-- A finished command keeps its result, with the LATE flag where it was moved to a later beat (02 R40, 11 R342); no other command
of the ring changes. -/
def Obligations.FinishedCommandKeepsResult : Prop :=
  ∀ (q : Nat) (c : Cmd) (r : Result) (s : State), (ringOf s q).state ≠ .disabled →
    (ringOf (finish q c r s) q).cmds = (ringOf s q).cmds.map fun x =>
      if x.index = c.index then { x with phase := .finished (if c.late then r.add stOk flLate else r) } else x

/-- The five TRACE_CTL rows: START begins at slot 0, STOP ends tracing, TRIGGER takes a trigger of cause 0, MARK writes a record,
SET_MASK writes the mask (15 R438, R440, R441, Table 15.8). -/
def Obligations.TraceControlsComplete : Prop :=
  ∀ (act : Desc → State → State) (q : Nat) (d : Desc) (s s0 : State) (c : Cmd), Due opTraceCtl (traceMeaning act) q d s c s0 →
    (traceOp d = 1 → exec (.traceStart q d) s = .next (leaves q c (.finished okResult) s0
      { s0 with obs := { s0.obs with traceRun := true, traceState := .running, writePtr := 0, triggered := false, postLeft := 0 } })) ∧
    (traceOp d = 2 → exec (.traceStop q d) s = .next (leaves q c (.finished okResult) s0 (traceEnd s0))) ∧
    (traceOp d = 3 → exec (.traceTrigger q d) s = .next (leaves q c (.finished okResult) s0 (trigger 0 0 s0))) ∧
    (traceOp d = 4 → exec (.traceMark q d) s = .next (leaves q c (.finished okResult) s0
      (trace 0x0A 0xB00 0 d.w3 (BitVec.ofNat 64 (bits d.w2 47 0)) s0))) ∧
    (traceOp d = 5 → exec (.traceSetMask q d) s = .next (leaves q c (.finished okResult) s0
      { s0 with obs := { s0.obs with traceMask := d.w3.setWidth 32 &&& 0x7FE } }))

/-- The writes of TRACE_RUN start and end tracing; the drain moves the oldest record of the FIFO, and a running continuous
buffer takes it in its next slot (15 R437, R438). -/
def Obligations.TraceRunAndDrainComplete : Prop :=
  (∀ s : State, Reaches 0xC0000 s →
    (s.obs.traceRun = false → exec .traceRunSet s = .next (traceBegin (dropHeld 0xC0000 4 s))) ∧
    (s.obs.traceRun = true → exec .traceRunSet s = .next (dropHeld 0xC0000 4 s)) ∧
    exec .traceRunClear s = .next (traceEnd (dropHeld 0xC0000 4 s))) ∧
  (∀ (s : State) (r : TraceRec) (rest : List TraceRec), alive s = true → s.obs.fifo = r :: rest →
    (s.obs.traceState = .running → s.act.traceMode = 0 →
      ∃ t, t = serveBg 5 0x3003 s ∧
        exec (.traceDrain 1) s = .next (tracePut r { t with obs := { t.obs with fifo := rest } })) ∧
    (s.obs.traceState = .stopped →
      ∃ t, t = serveBg 5 0x3003 s ∧ exec (.traceDrain 1) s = .next { t with obs := { t.obs with fifo := rest } }))

/-- SAMPLE_NOW: it takes a sample at its start for the sets in its SET_MASK, with cause 1, and ends OK once the records are written;
a SET_MASK of 0 writes nothing and ends OK; with SAMPLE_EN 0 or a full ring its records are dropped, which the counters show, and it
ends OK (15 R433). -/
def Obligations.SampleNowRule : Prop :=
  ∀ (q : Nat) (d : Desc) (s s0 : State) (c : Cmd), Due opSampleNow sampleNowMeaning q d s c s0 →
    (d.w2 ≠ 0 → exec (.sampleNow q d) s = .next (leaves q c (.finished okResult) s0 (takeSample 1 (fun _ => d.w2) s0))) ∧
    (d.w2 = 0 → exec (.sampleNow q d) s = .next (leaves q c (.finished okResult) s0 s0)) ∧
    (d.w2 ≠ 0 → groupPending s0 12 = false →
      (s0.obs.sampleEn = false ∨ ringFull s0.obs.sampleSeq s0.obs.sampleHead (bits s0.obs.sampleBase 4 0) = true) →
      ∃ t, exec (.sampleNow q d) s = .next (leaves q c (.finished okResult) s0 t) ∧ t.host = s0.host ∧
        t.obs.sampleSeq = s0.obs.sampleSeq ∧ t.obs.sampleDrop = true ∧ t.obs.sampleLost = true ∧
        t.obs.sampleNo = s0.obs.sampleNo + 1)

/-- One set of a sample: with sampling on and room in its ring, a record at the next slot and a new sequence number; else it is
dropped, counted and marked (15 R432, R433). -/
def Obligations.SampleSetWritesOrDrops : Prop :=
  ∀ (cause k : Nat) (s0 s : State), Memory.wf s.host = true →
    (s.obs.sampleEn = true → ringFull s.obs.sampleSeq s.obs.sampleHead (bits s.obs.sampleBase 4 0) = false →
      (sampleSet cause s0 k s).obs.sampleSeq = s.obs.sampleSeq + 1 ∧
      (sampleSet cause s0 k s).obs.sampleDrops = s.obs.sampleDrops ∧
      Memory.wf (sampleSet cause s0 k s).host = true ∧
      Memory.read (sampleSet cause s0 k s).host
          (addr64 (s.obs.sampleBase.toNat / 4096 * 4096 + 576 * (s.obs.sampleSeq.toNat % 2 ^ bits s.obs.sampleBase 4 0))) 576 =
        sampleRecord s cause k ((List.range 64).map fun i => deviceCtr s0 (64 * k + i))) ∧
    ((s.obs.sampleEn = false ∨ ringFull s.obs.sampleSeq s.obs.sampleHead (bits s.obs.sampleBase 4 0) = true) →
      (sampleSet cause s0 k s).host = s.host ∧ (sampleSet cause s0 k s).obs.sampleSeq = s.obs.sampleSeq ∧
      (sampleSet cause s0 k s).obs.sampleDrops = satInc s.obs.sampleDrops ∧ (sampleSet cause s0 k s).obs.sampleDrop = true)

/-- The crumb log's oldest waiting entry reaches MRAM (15 R444), every fault bucket loses 16 at the next minute (R447), and a
driver's store to a ring's head word is read again (13 R381, 15 R432); SAMPLE_TICK takes one of the
sampling group's sets at the next instant (R431). -/
def Obligations.ObservationServicesComplete : Prop :=
  (∀ (s : State) (c : Crumb) (rest : List Crumb), s.pwr.powered = true → s.obs.queue = c :: rest →
    exec .crumbMramWrite s = .next (crumbSkip
      { s with
        obs := { s.obs with queue := rest }
        store := { s.store with log := (s.store.log ++ [c]).drop (s.store.log.length + 1 - 32768), mramSeq := c.seq } })) ∧
  (∀ s : State, alive s = true →
    exec .bucketDecay s = .next (advanceTo ((now s / (60 * secUnits) + 1) * (60 * secUnits))
      { s with obs := { s.obs with
          buckets := s.obs.buckets.foldl (fun (b : SMap Nat) p => SMap.set b p.1 (p.2 - 16) 0) [] } })) ∧
  (∀ (s : State) (cs : List Host.Cell), alive s = true →
    (s.evc.ringEn = true →
      exec (.eventRingHeadUpdate cs) s = .next
        { s with
          host := Memory.stores s.host cs
          evc := { s.evc with
            headCount := BitVec.ofNat 32 (leNat (Memory.read (Memory.stores s.host cs) (addr64 (s.evc.ringHeadAddr.toNat / 8 * 8)) 4)) } }) ∧
    (s.obs.sampleEn = true →
      exec (.sampleRingHeadUpdate cs) s = .next
        { s with
          host := Memory.stores s.host cs
          obs := { s.obs with
            sampleHead := BitVec.ofNat 32 (leNat (Memory.read (Memory.stores s.host cs) (addr64 (s.obs.sampleHeadAddr.toNat / 8 * 8)) 4)) } })) ∧
  (∀ s : State, alive s = true → s.obs.sampleEn = true → s.act.intervalUs ≠ 0 →
    ∃ t, t = takeSample 0 (fun t => t.act.sampleMask) (advanceTo (sampleDue s) s) ∧
      exec .sampleTick s = .next { t with obs := { t.obs with nextSample := BitVec.ofNat 64 (sampleDue s + 1) } })

/-- A completion of the active source of its class moves its route on and lets delivery go on; any other is counted as spurious
and changes nothing else (13 R372, R380). -/
def Obligations.EndOfInterruptCompletes : Prop :=
  (∀ (k : BitVec 11) (s : State), Reaches 0x4000C s → isFast k.toNat = false →
    (sourceOf s k.toNat).host = .active → ((sourceOf s k.toNat).asserted && isLevel k.toNat) = false →
    exec (.evcEoi k) s = .next (setSource k.toNat { sourceOf s k.toNat with host := .idle } (dropHeld 0x4000C 4 s))) ∧
  (∀ (k : BitVec 11) (s : State), Reaches 0x4000C s → isFast k.toNat = false →
    (sourceOf s k.toNat).host = .activePending →
    exec (.evcEoi k) s = .next (hostPend k.toNat
      (setSource k.toNat { sourceOf s k.toNat with host := .pending } (dropHeld 0x4000C 4 s)))) ∧
  (∀ (k : BitVec 11) (s : State), Reaches 0x48000 s → isFast k.toNat = true → (sourceOf s k.toNat).host = .active →
    ∃ u t, u = setSource k.toNat { sourceOf s k.toNat with host := .idle } (dropHeld 0x48000 4 s) ∧ t = freeFast k.toNat u ∧
      exec (.evcFastEoi k) s = .next
        (((u.evc.src.filter fun p => isFast p.1 && p.2.host == .pending && p.1 != k.toNat).map (·.1)).foldl (fun t j => checkFast j t) t)) ∧
  (∀ (k : BitVec 11) (s : State), (sourceOf s k.toNat).host = .idle ∨ (sourceOf s k.toNat).host = .pending →
    (Reaches 0x4000C s → ∃ t, t = dropHeld 0x4000C 4 s ∧
      exec (.evcEoi k) s = .next { t with evc := { t.evc with spuriousEoi := satInc s.evc.spuriousEoi } }) ∧
    (Reaches 0x48000 s → ∃ t, t = dropHeld 0x48000 4 s ∧
      exec (.evcFastEoi k) s = .next { t with evc := { t.evc with spuriousEoi := satInc s.evc.spuriousEoi } }))

/-- Clearing DISABLE, an arm line's store, a vector's time limit and the clearing of a vector's mask bit deliver what is due
(13 R375, R376, R378, R379). -/
def Obligations.DeliveryCommandsComplete : Prop :=
  (∀ s : State, Reaches 0x40008 s → ∃ t, t = dropHeld 0x40008 4 s ∧
    exec .evcGlobalEnable s = .next (deliverAll { t with evc := { t.evc with globalDisable := false } })) ∧
  (∀ (line : Nat) (cs : List Host.Cell) (s : State), s.evc.armEn = true → s.evc.armHeld = true → alive s = true → line < 4 →
    exec (.evcArmLine line cs) s = .next
      (((s.evc.vec.map (·.1)).filter fun v => v / 512 == line).foldl (fun t v => checkVec v t)
        { s with host := Memory.stores s.host cs })) ∧
  (∀ (v t : Nat) (s : State), (vecOf s v).first = some t → alive s = true →
    vecDue (advanceTo (t + modTime s v * usUnits) s) v = true → deliveryHeld (advanceTo (t + modTime s v * usUnits) s) v = false →
    exec (.vectorModTimeout v) s = .next (deliver v (advanceTo (t + modTime s v * usUnits) s))) ∧
  (∀ (v : Nat) (s : State), v < 2048 → s.pwr.powered = true → s.pwr.tripped = false →
    exec (.msixUnmask v) s = .next (unmask v (dropHeld (0x200000 + 16 * v + 12) 4 s)))

/-- A delivery sends one message with the vector's address and data, clears its request count, timer and PBA bit, and, where
the vector is not armed, writes no memory (13 R375). -/
def Obligations.DeliverySendsOneMessage : Prop :=
  ∀ (v : Nat) (s : State), vecDue s v = true → deliveryHeld s v = false → armed s v = false →
    (checkVec v s).out = s.out ++ [.msix v (msixOf s v).addr (msixOf s v).data] ∧
    (vecOf (checkVec v s) v).requests = 0 ∧ (vecOf (checkVec v s) v).first = none ∧ (vecOf (checkVec v s) v).pba = false ∧
    (checkVec v s).host = s.host

/-- A masked vector delivers nothing, neither a moderated request nor a fast source; its PBA bit is set while a delivery condition
holds; and the delivery takes place at the unmask, as the first message that leaves (13 R378). -/
def Obligations.MaskedVectorRule : Prop :=
  ∀ (v : Nat) (s : State),
    (masked s v = true → (checkVec v s).out = s.out ∧ (vecDue s v = true → (vecOf (checkVec v s) v).pba = true) ∧
      ∀ k, srcVector s k = v → (checkFast k s).out = s.out ∧
        (isFast k = true → (sourceOf s k).host = .pending → (vecOf s v).fast = none → (vecOf (checkFast k s) v).pba = true)) ∧
    (v < 2048 → s.pwr.powered = true → s.pwr.tripped = false → s.evc.funcMask = false → s.evc.globalDisable = false →
      s.glb.state ≠ .halted →
      (vecDue s v = true ∨ ∃ k, isFast k = true ∧ (sourceOf s k).host = .pending ∧ srcVector s k = v ∧ (vecOf s v).fast = none) →
      ∃ t rest, exec (.msixUnmask v) s = .next t ∧ t.out = s.out ++ .msix v (msixOf s v).addr (msixOf s v).data :: rest)

/-- The table port: WRITE takes the words into a ring that is not live, a context none of whose rings is, or a sync object, READ
gives them, ENABLE starts a ring at its tail and DISABLE begins to end one; each sets RESULT (11 R319, Tables 11.1, 11.2). -/
def Obligations.TablePortCompletes : Prop :=
  ∀ s t : State, Reaches 0x60038 s → t = dropHeld 0x60038 4 s →
    (tblTable s = 0 → ringLive (ringOf s (tblIndex s)) = false →
      exec .qsuTblWrite s =
        .next (tblResult 1 (setRing (tblIndex s) ((ringOf s (tblIndex s)).setWords (tblWord s)) t))) ∧
    (tblTable s = 1 → tblIndex s < 40960 → tblWriteRefused s = false →
      ∃ u, u = setCtx (tblIndex s) ((ctxOf s (tblIndex s)).setWords (tblWord s)) t ∧
        exec .qsuTblWrite s = .next (tblResult 1 (if bit (tblWord s 0) 63 then readCqHead (tblIndex s) u else u))) ∧
    (tblTable s = 2 → tblIndex s < 8192 →
      exec .qsuTblWrite s =
        .next (tblResult 1 (putSync (tblIndex s) { value := tblWord s 0, remoteOk := bit (tblWord s 1) 0 } t))) ∧
    (tblTable s = 0 → exec .qsuTblRead s = .next (tblResult 1 (setTblData (ringOf s (tblIndex s)).words t))) ∧
    (tblTable s = 1 → tblIndex s < 40960 →
      exec .qsuTblRead s = .next (tblResult 1 (setTblData (ctxOf s (tblIndex s)).words t))) ∧
    (tblTable s = 2 → tblIndex s < 8192 →
      exec .qsuTblRead s = .next (tblResult 1 (setTblData (syncOf s (tblIndex s)).words t))) ∧
    (tblTable s = 0 → (ringOf s (tblIndex s)).state = .disabled → (ringOf s (tblIndex s)).disabling = false →
      enableRefused s (tblIndex s) = false → cacheOk s (ringOf s (tblIndex s)).context.toNat = true →
      ∃ tail, tail = BitVec.ofNat 32 (hostNat s ((ringOf s (tblIndex s)).tailAddr.toNat * 8) 4) ∧
        exec .qsuTblEnable s = .next (tblResult 1 (setRing (tblIndex s)
          { ringOf s (tblIndex s) with
            state := .enabled, head := tail, done := tail, tail := tail, maxSeen := 0, cmds := [] } (count (qsuCtr 1) 1 t)))) ∧
    (tblTable s = 0 → ringRuns (ringOf s (tblIndex s)) = true →
      exec .qsuTblDisable s =
        .next (tblResult 1 (setRing (tblIndex s) { ringOf s (tblIndex s) with disabling := true } t)))

/-- FETCH_EN going from 0 to 1 takes the level-1 lines and passes over all four, where the link carries CXL.cache (12 R349); a disabling ring whose DONE has reached HEAD is
disabled (11 R319, R322). A doorbell line's invalidation brings the host's stores to its memory and starts a pass over that line;
a store to a context's head word is read again (11 R322, R341). -/
def Obligations.RingServiceCompletes : Prop :=
  (∀ s : State, Reaches 0x60000 s → s.qsu.fetchEn = false → s.glb.flr = false → ∃ t, t = dropHeld 0x60000 4 s ∧
    (s.glb.cacheMem = true → exec .fetchEnSet s = .next (fetchAll
      (doorbellLine 3 (doorbellLine 2 (doorbellLine 1 (doorbellLine 0
        (count (qsuCtr 0) 1 { t with qsu := { t.qsu with fetchEn := true, l1Held := true } }))))))) ∧
    (s.glb.cacheMem = false → exec .fetchEnSet s = .next { t with qsu := { t.qsu with fetchEn := true } })) ∧
  (∀ (q : Nat) (s : State), (ringOf s q).disabling = true → (ringOf s q).done = (ringOf s q).head →
    exec (.ringDisabled q) s = .next (setRing q { ringOf s q with state := .disabled, disabling := false } s)) ∧
  (∀ (line : Nat) (cs : List Host.Cell) (s : State), serving s = true → s.qsu.fetchEn = true → line < 4 →
    exec (.doorbellL1Invalidate line cs) s =
      .next (fetchAll (doorbellLine line (count (qsuCtr 0) 1 { s with host := Memory.stores s.host cs })))) ∧
  (∀ (k : Nat) (cs : List Host.Cell) (s : State), serving s = true → (ctxOf s k).valid = true → cacheOk s k = true →
    exec (.cqHeadUpdate k cs) s = .next (setCtx k
      { ctxOf s k with
        cqHead := BitVec.ofNat 32 (leNat (Memory.read (Memory.stores s.host cs) (addr64 ((ctxOf s k).cqHeadAddr.toNat * 8)) 4)) }
      { s with host := Memory.stores s.host cs }))

/-- COMMAND_COMPLETE: the ring's oldest command, once finished, has its record written at the context's next slot, the tail and
DONE advance, its vector gets a request where it asked for one, and fetching goes on; with a full completion ring it is held
back (11 R341, R342). -/
def Obligations.OldestCommandCompletes : Prop :=
  ∀ (q : Nat) (s : State) (c : Cmd) (rest : List Cmd) (res : Result) (x : Ctx), serving s = true →
    (ringOf s q).cmds = c :: rest → c.phase = .finished res → x = ctxOf s (ringOf s q).context.toNat →
    cqFailed s (ringOf s q) = false → cacheOk s (ringOf s q).context.toNat = true → (Desc.quiet c.desc && res.status = stOk) = false →
    (ringFull x.cqTail x.cqHead x.cqLog2.toNat = false →
      ∃ t, t = popCmd q (traceDone (ringOf s q) c res (count (qsuCtr 6) 1
          (setCtx (ringOf s q).context.toNat { x with cqTail := x.cqTail + 1 }
            (hostWrite s (x.cqAddr + 32 * (x.cqTail.toNat % 2 ^ x.cqLog2.toNat)) (recordBytes s q c x res))))) ∧
        exec (.commandComplete q) s = .next (settleFlr (settleAborts (fetchAll
          (if Desc.irq c.desc then request x.vector.toNat t else t))))) ∧
    (ringFull x.cqTail x.cqHead x.cqLog2.toNat = true → c.held = false →
      exec (.commandComplete q) s =
        .next (settleFlr (count (qsuCtr 7) 1 (setCmd q c.index (fun y => { y with held := true }) s)))) ∧
    (ringFull x.cqTail x.cqHead x.cqLog2.toNat = true → c.held = true → exec (.commandComplete q) s = .next (settleFlr s))

/-- A written run of bytes reads back, every other address reads as before, and the memory keeps its form. -/
def Obligations.MemoryReadsBack : Prop :=
  ∀ (m : List Host.Cell) (a : Nat) (bs : List Byte), Memory.wf m = true →
    Memory.read (Memory.write m a bs) a bs.length = bs ∧
    (∀ b, b < a ∨ a + bs.length ≤ b → Memory.get (Memory.write m a bs) b = Memory.get m b) ∧
    Memory.wf (Memory.write m a bs) = true

/-- A commit of groups that exist marks each pending, or counts a rejection where it already is, and each whose safe point is
now applies; a discard takes the active values back into a pending copy and clears its dirty bit (12 R363-R365). -/
def Obligations.CommitsComplete : Prop :=
  (∀ (gs : W64) (s t : State), Reaches 0x10000 s → t = dropHeld 0x10000 8 s →
    exec (.cmtCommit gs) s =
      .next (((List.range 13).filter fun g => gs.getLsbD g).foldl applyNow
        (((List.range 13).filter fun g => gs.getLsbD g).foldl commitGroup t)) ∧
    (gs = 2 → s.cmt.pending.getLsbD 1 = false → exec (.cmtCommit gs) s =
      .next { t with
        act := { t.act with seed := t.pend.seed }
        cmt := { t.cmt with
          pending := putBit (putBit t.cmt.pending 1 true) 1 false, dirty := putBit t.cmt.dirty 1 false
          applied := t.cmt.applied + 1 } }) ∧
    (gs = 0x1000 → s.cmt.pending.getLsbD 12 = false →
      exec (.cmtCommit gs) s = .next { t with cmt := { t.cmt with pending := putBit t.cmt.pending 12 true } }) ∧
    (gs = 0x1000 → s.cmt.pending.getLsbD 12 = true →
      exec (.cmtCommit gs) s = .next { t with cmt := { t.cmt with stagedReject := satInc t.cmt.stagedReject } })) ∧
  (∀ (g : Nat) (s t : State), g < 13 → Reaches 0x10008 s → t = dropHeld 0x10008 8 s →
    (s.cmt.pending.getLsbD g = false → exec (.cmtDiscard (1#64 <<< g)) s =
      .next { t with pend := applyFields g t.pend t.act, cmt := { t.cmt with dirty := putBit t.cmt.dirty g false } }) ∧
    (s.cmt.pending.getLsbD g = true → exec (.cmtDiscard (1#64 <<< g)) s =
      .next { t with cmt := { t.cmt with stagedReject := satInc t.cmt.stagedReject } }))

/-- A committed group applies once its safe point has come: tick timing, time alignment and the power cap with the tick stopped,
the run seed at once, the groups of graphs with no graph loaded, the queues' with no ring live, the trace's with tracing stopped;
values out of range are refused (12 R363, R364, Table 12.8; 02 R34, 09 R286, 14 R410, R413, 15 R442). The pending values become the
active ones, the group is neither pending nor dirty any more, and the count of applied groups rises. -/
def Obligations.GroupsApply : Prop :=
  (∀ (g : Nat) (s : State), exec (.cmtGroupApply g) s = .next (if alive s then applyNow s g else s)) ∧
  (∀ (g : Nat) (s : State), alive s = true → s.cmt.pending.getLsbD g = true →
    g = 1 ∨ ((g = 2 ∨ g = 3 ∨ g = 4 ∨ g = 6) ∧ s.ple.images = []) ∨ (g = 7 ∧ noRing s = true) ∨
      (g = 0 ∧ tickStopped s = true ∧ timingBad s.pend.tick none = false) ∨
      (g = 9 ∧ tickStopped s = true ∧ 1000 ≤ s.pend.capW.toNat ∧ s.pend.capW.toNat ≤ 2500) ∨
      (g = 11 ∧ s.obs.traceState = .stopped ∧ traceBad s = false) →
    ∃ t, exec (.cmtGroupApply g) s = .next t ∧ t.act = applyFields g s.act s.pend ∧ t.pend = s.pend ∧
      t.cmt.pending = putBit s.cmt.pending g false ∧ t.cmt.dirty = putBit s.cmt.dirty g false ∧
      t.cmt.applied = s.cmt.applied + 1) ∧
  ∀ s : State, alive s = true →
    (s.cmt.pending.getLsbD 5 = true → s.ple.images = [] →
      (topoOk s.pend.topo = true → exec (.cmtGroupApply 5) s = .next (applyTopo s) ∧
        (Orderly s → (applyTopo s).act = applyFields 5 s.act s.pend)) ∧
      (topoOk s.pend.topo = false →
        exec (.cmtGroupApply 5) s = .next (refuseGroup 5 { s with fab := { s.fab with topoRefused := true } }))) ∧
    (s.cmt.pending.getLsbD 8 = true → tickStopped s = true →
      (s.pend.timeMode.toNat ≤ 1 → exec (.cmtGroupApply 8) s = .next (applyTime s) ∧
        (Orderly s → (applyTime s).act = applyFields 8 s.act s.pend)) ∧
      (1 < s.pend.timeMode.toNat →
        exec (.cmtGroupApply 8) s = .next (refuseGroup 8 { s with clk := { s.clk with cfgRefused := true } }))) ∧
    (s.cmt.pending.getLsbD 10 = true →
      exec (.cmtGroupApply 10) s = .next (deliverAll (idleDisabled (applyGroup 10 s)))) ∧
    (s.cmt.pending.getLsbD 0 = true → tickStopped s = true →
      (timingBad s.pend.tick none = false → exec (.cmtGroupApply 0) s = .next (applyGroup 0 s)) ∧
      (timingBad s.pend.tick none = true →
        exec (.cmtGroupApply 0) s = .next (refuseGroup 0 { s with tkc := { s.tkc with cfgRefused := true } }))) ∧
    (s.cmt.pending.getLsbD 1 = true → exec (.cmtGroupApply 1) s = .next (applyGroup 1 s)) ∧
    (∀ g, g = 2 ∨ g = 3 ∨ g = 4 ∨ g = 6 → s.cmt.pending.getLsbD g = true → s.ple.images = [] →
      exec (.cmtGroupApply g) s = .next (applyGroup g s)) ∧
    (s.cmt.pending.getLsbD 7 = true → noRing s = true → exec (.cmtGroupApply 7) s = .next (applyGroup 7 s)) ∧
    (s.cmt.pending.getLsbD 9 = true → tickStopped s = true →
      (1000 ≤ s.pend.capW.toNat ∧ s.pend.capW.toNat ≤ 2500 → exec (.cmtGroupApply 9) s = .next (applyGroup 9 s)) ∧
      (s.pend.capW.toNat < 1000 ∨ 2500 < s.pend.capW.toNat →
        exec (.cmtGroupApply 9) s = .next (refuseGroup 9 { s with pwr := { s.pwr with capRefused := true } }))) ∧
    (s.cmt.pending.getLsbD 11 = true → s.obs.traceState = .stopped →
      (traceBad s = false → exec (.cmtGroupApply 11) s = .next (applyGroup 11 s)) ∧
      (traceBad s = true →
        exec (.cmtGroupApply 11) s = .next (refuseGroup 11 { s with obs := { s.obs with traceRefused := true } }))) ∧
    (∀ g, s.cmt.pending.getLsbD g = false → exec (.cmtGroupApply g) s = .next s)

/-- A write that reaches its register: an RWS field takes it into its pending copy and marks the group dirty, or counts it while
the group's commit waits; a plain field takes it; a W1C bit is cleared by a 1; an offset of no register drops it; and a write that
discards a held low word leaves BAD_ACCESS set, GLB_STATUS's own too
(12 R360, R363, R364; 00 R8). -/
def Obligations.RegisterWritesComplete : Prop :=
  ∀ (v : W64) (s : State),
    (∀ t, Reaches 0x70010 s → t = dropHeld 0x70010 4 s → s.cmt.pending.getLsbD 0 = false →
      exec (.registerWrite 0x70010 4 v) s = .next { t with
        pend := { t.pend with tick := { t.pend.tick with periodUs := (v.setWidth 32).setWidth 16 } }
        cmt := { t.cmt with dirty := putBit t.cmt.dirty 0 true } }) ∧
    (∀ t, Reaches 0x70010 s → t = dropHeld 0x70010 4 s → s.cmt.pending.getLsbD 0 = true →
      exec (.registerWrite 0x70010 4 v) s =
        .next { t with cmt := { t.cmt with stagedReject := satInc t.cmt.stagedReject } }) ∧
    (∀ t, Reaches 0x60030 s → t = dropHeld 0x60030 8 s →
      exec (.registerWrite 0x60030 8 v) s =
        .next { t with qsu := { t.qsu with tblSel := v &&& (span64 63 62 ||| span64 19 0) } }) ∧
    (∀ t, Reaches 0x30004 s → t = dropHeld 0x30004 4 s →
      exec (.registerWrite 0x30004 4 v) s = .next { t with pwr := { t.pwr with
        capRefused := t.pwr.capRefused && !(v.setWidth 32).getLsbD 6, pfSeen := t.pwr.pfSeen && !(v.setWidth 32).getLsbD 5 } }) ∧
    (∀ t, Reaches 0xF0000 s → t = dropHeld 0xF0000 4 s → exec (.registerWrite 0xF0000 4 v) s = .next t) ∧
    (∀ o w, Reaches 0x18 s → s.glb.held = some (o, w) → ∃ t, exec (.registerWrite 0x18 8 v) s = .next t ∧ t.glb.badAccess = true)

/-- RUN set arms the tick at T0, or sets T0_PAST and stays clear where T0 is not at least 1 µs ahead; RUN cleared stops
or disarms it; a write of the time base is taken in free mode with the tick stopped and is a live write otherwise
(02 R33; 14 R407; 12 R367). -/
def Obligations.RunAndTimeWritesComplete : Prop :=
  (∀ s t : State, Reaches 0x70000 s → t = dropHeld 0x70000 4 s → s.glb.flr = false → s.tkc.run = false → s.tkc.running = false →
    (now s + 16000 ≤ s.act.tick.t0.toNat → exec .tkcRunSet s =
      .next { t with tkc := { t.tkc with run := true, armed := true, nextEdge := t.act.tick.t0, edgeMade := false } }) ∧
    (s.act.tick.t0.toNat < now s + 16000 → exec .tkcRunSet s = .next { t with tkc := { t.tkc with t0Past := true } })) ∧
  (∀ s t : State, Reaches 0x70000 s → t = dropHeld 0x70000 4 s →
    exec .tkcRunClear s = .next { t with tkc := { t.tkc with run := false, armed := false } }) ∧
  (∀ (v : W64) (s t : State), Reaches 0x20010 s → t = dropHeld 0x20010 8 s →
    (s.act.timeMode = 0 → s.tkc.running = false → exec (.clkTbSet v) s =
      .next { t with clk := { t.clk with
        count := BitVec.ofNat 64 (v.toNat / 8 * 8), tbSet := BitVec.ofNat 64 (v.toNat / 8 * 8) } }) ∧
    (s.act.timeMode ≠ 0 ∨ s.tkc.running = true → exec (.clkTbSet v) s = .next (liveIgnored 0x20010 t)))

/-- The device reset key, and only it, resets the device: the boot starts again, every register of the blocks outside the
always-on domain and module memory take their reset values, the time base goes on, the crumb log survives and a new epoch begins
(14 R421, R423). -/
def Obligations.DeviceResetCompletes : Prop :=
  (∀ s : State, s.pwr.powered = true → s.pwr.tripped = false →
    ∃ t, exec (.glbDeviceReset 0x0000A5C3) s = .next t ∧ t.glb.state = .bootRom ∧ t.glb.bootAt = s.clk.count ∧
      t.act = resetStaged ∧ t.pend = resetStaged ∧ t.cmt = resetCmt ∧ t.qsu = resetQsu ∧ t.evc = resetEvc ∧ t.mbx = resetMbx ∧
      t.tkc = resetTkc ∧ t.mem = resetMem ∧ t.fab = resetFab ∧ t.ple = resetPle ∧ t.prc = resetPrc ∧
      t.tiles = resetTiles ∧ t.clk.count = s.clk.count ∧ t.fuses = s.fuses ∧ t.host = s.host) ∧
  (∀ (key : W32) (s : State), s.pwr.powered = true → s.pwr.tripped = false → key ≠ 0x0000A5C3 →
    exec (.glbDeviceReset key) s = .next (dropHeld 0x20 4 s)) ∧
  ∀ (key : W32) (s t : State), Reaches 0x20 s → t = dropHeld 0x20 4 s →
    (key = 0x0000A5C3 → exec (.glbDeviceReset key) s = .next (deviceReset t) ∧
      (deviceReset t).glb.state = .bootRom ∧ (deviceReset t).act = resetStaged ∧ (deviceReset t).pend = resetStaged ∧
      (deviceReset t).qsu = resetQsu ∧ (deviceReset t).tkc = resetTkc ∧ (deviceReset t).mem = resetMem ∧
      (deviceReset t).fab = resetFab ∧ (deviceReset t).ple = resetPle ∧ (deviceReset t).clk.coarse = true ∧
      (deviceReset t).obs.ctrs = [] ∧ (deviceReset t).host = s.host ∧ (deviceReset t).fuses = s.fuses ∧
      (deviceReset t).clk.count = s.clk.count ∧ (deviceReset t).store.epoch = s.store.epoch + 1) ∧
    (key ≠ 0x0000A5C3 → exec (.glbDeviceReset key) s = .next t)

/-- A word sent to an empty mailbox fills it and raises its source; one sent to a full mailbox is dropped with its REJECT bit; a
receive takes the word and empties the mailbox, whose next reply then follows, and an empty one reads 0 (13 R383). -/
def Obligations.MailboxesComplete : Prop :=
  (∀ (b : Nat) (w : W64) (s t : State), b < 16 → s.pwr.powered = true → s.pwr.tripped = false →
    t = dropHeld (0x50000 + 8 * b) 8 s →
    (boxFull s b = false → exec (.mbxSend b w) s = .next (raise (0x100 + b) w
      { t with mbx := { t.mbx with full := putBit t.mbx.full b true, word := SMap.put t.mbx.word b w } })) ∧
    (boxFull s b = true →
      exec (.mbxSend b w) s = .next { t with mbx := { t.mbx with reject := putBit t.mbx.reject b true } })) ∧
  (∀ (b : Nat) (s : State), 16 ≤ b → b < 32 → s.pwr.powered = true → s.pwr.tripped = false →
    (boxFull s b = true → exec (.mbxRecv b) s = .next (emit (.readData (boxWord s b)) (sendOwed (b - 16)
      { s with mbx := { s.mbx with full := putBit s.mbx.full b false, word := SMap.del s.mbx.word b } }))) ∧
    (boxFull s b = false → exec (.mbxRecv b) s = .next (emit (.readData 0) (sendOwed (b - 16) s))))

/-- Firmware takes the command whose turn it is and replies in the pair's return mailbox: PING with its version, STATE with
GLB_STATUS, CRUMB_READ after writing the MRAM log to the host buffer, or with ACCESS where the host did not take it, UPDATE_STATUS with
SEC_UPDATE_STATUS, a reserved operation with BAD_OP (13 R386, Tables 13.8, 13.9). -/
def Obligations.FirmwareCommandsComplete : Prop :=
  ∀ (p : Nat) (s t : State) (w : W64), turnOf s p = true → s.glb.state ≠ .recovery → s.mbx.busy.contains p = false →
    w = boxWord s p → t = (boxTake p s).2 →
    (fwOp w = 0x01 → exec (.ping p) s = .next (reply p w 0 s.glb.fwVersion.toNat t)) ∧
    (reservedOp (fwOp w) = true → exec (.ping p) s = .next (reply p w 0x02 0 t)) ∧
    (fwOp w = 0x02 → exec (.stateCmd p) s = .next (reply p w 0 (glbStatus s).toNat t)) ∧
    (fwOp w = 0x10 → exec (.crumbRead p) s = .next (if hostFailed (64 * fwArg w) s then reply p w 0x05 0 (hostAsked t)
      else reply p w 0 (s.store.log.flatMap Crumb.bytes).length
        (hostWrite (hostAsked t) (64 * fwArg w) (s.store.log.flatMap Crumb.bytes)))) ∧
    (fwOp w = 0x21 → exec (.updateStatus p) s = .next (reply p w 0 (updateStatus s).toNat t))

/-- FW_UPDATE reads an image into the firmware region and checks it; a good one is then written, a bad one ends the update with
its result, as does a read of the host that fails, with ACCESS; the completion of the write stores the image, or none that verifies, and replies (13 R390, R391). -/
def Obligations.FirmwareUpdatesComplete : Prop :=
  (∀ (p : Nat) (s t u : State) (w : W64) (img : List Byte), turnOf s p = true → s.glb.state ≠ .recovery →
    s.mbx.busy.contains p = false → w = boxWord s p → t = (boxTake p s).2 → fwOp w = 0x20 → s.sec.staged = none →
    img = hostRead s (64 * fwArg w) 4096 ++ hostRead s (64 * fwArg w + 4096)
      (if lengthOk (imgLength (hostRead s (64 * fwArg w) 4096)) then imgLength (hostRead s (64 * fwArg w) 4096) else 0) →
    u = setUpdate 2 0 img (devWrite (firmwareRegion t) img (setUpdate 1 0 img (hostAsked t))) →
    (imageCheck s img = 0 → ∃ v, v = setUpdate 3 0 img u ∧ exec (.fwUpdate p) s = .next
      (if hostFailed (64 * fwArg w) s then reply p w 0x05 0 (setUpdate 5 0x05 [] (setUpdate 1 0 [] (hostAsked t)))
       else { v with
        sec := { v.sec with staged := some (p, w.toNat, img) }
        mbx := { v.mbx with busy := v.mbx.busy ++ [p] } })) ∧
    (imageCheck s img ≠ 0 → exec (.fwUpdate p) s = .next
      (if hostFailed (64 * fwArg w) s then reply p w 0x05 0 (setUpdate 5 0x05 [] (setUpdate 1 0 [] (hostAsked t)))
       else reply p w (imageCheck s img) 0 (setUpdate 5 (imageCheck s img) img u)))) ∧
  (∀ (p w : Nat) (img : List Byte) (ok : Bool) (s : State), firmwareRuns s = true → s.sec.staged = some (p, w, img) →
    s.mbx.busy.contains p = false →
    exec (.fwUpdateComplete ok) s = .next (setUpdate (if ok then 4 else 5) (if ok then 0 else 6) img
      { s with
        store := { s.store with image := if ok then img else [] }
        sec := { s.sec with staged := none } })) ∧
  (∀ (p w : Nat) (img : List Byte) (ok : Bool) (s u : State), firmwareRuns s = true → s.sec.staged = some (p, w, img) →
    s.mbx.busy.contains p = true →
    u = setUpdate (if ok then 4 else 5) (if ok then 0 else 6) img
      { s with
        store := { s.store with image := if ok then img else [] }
        sec := { s.sec with staged := none } } →
    exec (.fwUpdateComplete ok) s = .next (reply p (BitVec.ofNat 64 w) (if ok then 0 else 6) 0
      { u with mbx := { u.mbx with busy := u.mbx.busy.filter fun q => q != p } }))

/-- RECOVERY_LOAD in RECOVERY: a good image from the recovery window goes to flash, the reply follows and the device boots
again; elsewhere the operation is refused with BAD_OP (13 R386, R392, Table 13.9). -/
def Obligations.RecoveryLoadCompletes : Prop :=
  (∀ (s u : State) (w : W64) (img : List Byte), recoveryCheck true s = some (w, 0, img) →
    u = reply 0 w 0 0 { (boxTake 0 s).2 with store := { (boxTake 0 s).2.store with image := img } } →
    exec (.recoveryLoad true) s = .next (deviceReset { u with sec := { u.sec with recovered := true } })) ∧
  (∀ s : State, recoveryCheck false s = none → s.glb.state ≠ .recovery → turnOf s 0 = true → fwOp (boxWord s 0) = 0x30 →
    s.mbx.busy.contains 0 = false →
    exec (.recoveryLoad false) s = .next (reply 0 (boxWord s 0) 0x02 0 (boxTake 0 s).2))

/-- The security processor and the sideband: an SPDM request is answered, a key exchange opens one of two sessions and an end
closes one; IDE_KM stores a key in a session; MCTP assigns the endpoint ID; PLDM answers (13 R395; 12 R356; 16 R460; 15 R446). The
sensors of PLDM type 2 are refreshed and read, the FRU record tells identity, serial number and versions, and the crumb log's
range and entries are told (16 R460, Tables 16.3, 16.4; 15 R446). -/
def Obligations.SidebandServicesComplete : Prop :=
  (∀ (tr : SpdmTransport) (s : State), spdmServed tr s = true →
    exec (.spdmRequest tr .getCertificate) s = .next (emit (.spdm tr 0 s.store.certChain) s) ∧
    (sessions tr s < 2 → exec (.spdmRequest tr .keyExchange) s = .next (emit (.spdm tr 0 (leBytes 8 (takeFree s).1.toNat))
      (setSessions tr (sessions tr s + 1) (takeFree s).2))) ∧
    (2 ≤ sessions tr s → exec (.spdmRequest tr .keyExchange) s = .next (emit (.spdm tr spdmBusy []) s)) ∧
    (0 < sessions tr s →
      exec (.spdmRequest tr .endSession) s = .next (emit (.spdm tr 0 []) (setSessions tr (sessions tr s - 1) s)))) ∧
  (∀ (st sub : Nat) (key : BitVec 256) (s : State), spdmServed .doe s = true → 0 < s.sec.doe →
    ((insertNat st (ideStreams s)).length ≤ 3 → exec (.ideKmKey st sub key) s =
      .next { s with sec := { s.sec with ideKeys := SMap.set s.sec.ideKeys (8 * st + sub % 8) key 0 } }) ∧
    (3 < (insertNat st (ideStreams s)).length → exec (.ideKmKey st sub key) s = .next s)) ∧
  (∀ (cmd eid : Byte) (s : State), s.pwr.powered = true →
    (cmd = 1 → exec (.mctpControl cmd eid) s =
      .next (emit (.sideband sbMctp [cmd, 0, eid]) { s with sec := { s.sec with mctpEid := eid } })) ∧
    (cmd ≠ 1 → exec (.mctpControl cmd eid) s = .next (emit (.sideband sbMctp [cmd, 0, s.sec.mctpEid]) s)) ∧
    (cmd = 4 → exec (.pldmBase cmd) s = .next (emit (.sideband sbPldm [cmd, 0, 0, 2, 4, 0x3F]) s)) ∧
    (cmd ≠ 4 → exec (.pldmBase cmd) s =
      .next (emit (.sideband sbPldm ([cmd, 0] ++ leBytes 4 (takeFree s).1.toNat)) (takeFree s).2))) ∧
  (∀ s : State, s.pwr.powered = true →
    (∀ n, sensorsServed s = true → 1 ≤ n → n ≤ 7 → exec (.pldmSensorRead n) s =
      .next (emit (.sideband sbPldm (0 :: leBytes 2 (s.pwr.sensors.getD (n - 1) 0))) s)) ∧
    (sensorsServed s = true → exec (.pldmSensorRead 16) s =
      .next (emit (.sideband sbPldm (0 :: leBytes 2 (s.pwr.sensors.getD 7 0))) s)) ∧
    (∀ a b, sensorsServed s = true → exec (.sensorRefresh a b) s = .next { s with pwr := { s.pwr with
      inletC10 := a, outletC10 := b
      sensors := [s.pwr.volt.toNat, s.pwr.power.toNat, s.pwr.computeC.toNat, s.pwr.otherC.toNat, a.toNat, b.toNat,
        s.pwr.aclk.toNat, s.glb.state.code] } }) ∧
    exec .pldmFruRead s = .next (emit (.sideband sbPldm
      (0 :: wordsBytes [glbIdent s, s.fuses.serial] ++ orderingCode s ++ leBytes 4 s.glb.fwVersion.toNat)) s) ∧
    (∀ c rest, s.store.log = c :: rest → exec .pldmCrumbRange s =
      .next (emit (.sideband sbPldm (0 :: leBytes 4 c.seq.toNat ++ leBytes 4 s.store.mramSeq.toNat)) s)) ∧
    (∀ k n, 1 ≤ n → n ≤ 32 → exec (.pldmCrumbEntries k n) s = .next (emit (.sideband sbPldm
      (0 :: (s.store.log.filter fun c => decide ((c.seq - k).toNat < n)).flatMap Crumb.bytes)) s)))

/-- The boot goes on: a stable crystal switches every domain to its PLL, a valid image starts firmware with the rollback index
raised and the retirement list applied, trained memory leads to LINK, a trained link, whenever it came up, to FABRIC and a ready
fabric to READY; a crystal that never comes up halts the device and an image that does not verify leads to RECOVERY (13 R388-R391, Table 13.12;
12 R349; 15 R451). -/
def Obligations.BootCommandsComplete : Prop :=
  ∀ s : State, booting s = true →
    (s.glb.state = .bootRom →
      (∃ t, t = (domainCodes.filter fun c => c != 0).foldl
          (fun s c => setDomain c { source := .pll, low := 0, inReset := false, outOfService := false } s)
          (setDomain 0 { domainOf s 0 with source := .crystal } { s with clk := { s.clk with xtalOk := true } }) ∧
        exec .xtalStable s = .next (enterState .fwLoad (noteClocks t))) ∧
      exec .xtalBootTimeout s = .next (halt s)) ∧
    (s.glb.state = .fwLoad →
      (imageCheck s s.store.image = 0 → exec .fwImageLoaded s = .next (startFirmware
        { s with
          fuses := { s.fuses with rollback := max s.fuses.rollback (min 64 (imgNat s.store.image 8 1)) }
          sec := { s.sec with
            verified := true, imageRollback := BitVec.ofNat 8 (imgNat s.store.image 8 1), fwDigest := imgBytes s.store.image 0x080 32 }
          glb := { s.glb with fwVersion := BitVec.ofNat 32 (imgNat s.store.image 4 4) } })) ∧
      (imageCheck s s.store.image ≠ 0 → exec .fwImageLoaded s = .next (enterState .recovery s))) ∧
    (s.glb.state = .memTrain → ((List.range 1024).any fun c => columnOn s c) = true →
      exec (.memTrainingDone [] []) s =
        .next (if s.glb.linkUp
          then enterState .fabric (enterState .link { s with mem := { s.mem with nearTrained := true, farTrained := true } })
          else enterState .link { s with mem := { s.mem with nearTrained := true, farTrained := true } })) ∧
    (∀ w r f, r ≤ 64 → s.glb.state ≠ .halted → ∃ t, t = holdLines
        { s with glb := { s.glb with linkUp := true, cacheMem := linkFull w f, linkDegraded := !linkFull w f } } ∧
      exec (.cxlLinkTrained w r f) s = .next (if s.glb.state = .link then enterState .fabric t else t)) ∧
    (s.glb.state = .fabric → exec .fabricReady s = .next (enterState .ready s))

/-- The sources of resets and of power: a hot reset, a function-level reset and the pins; every step of each is named
(14 R420-R422; 16 R462, R463; 12 R359). -/
def Obligations.ResetsAndPowerComplete : Prop :=
  (∀ s : State, s.pwr.powered = true → s.pwr.tripped = false →
    exec .hotReset s = .next (deviceReset s) ∧
    (∃ t, t = (ringContexts (fetchDisable (crumb 0x21 2 1 s))).foldl (fun s c => abortContext c none s)
        (fetchDisable (crumb 0x21 2 1 s)) ∧
      exec .functionLevelReset s = .next (settleFlr { runClear t with glb := { (runClear t).glb with flr := true } })) ∧
    (s.pins.perstN = true → exec .perstAssert s = .next
      { deviceReset s with pins := { (deviceReset s).pins with perstN := false } }) ∧
    (s.glb.d3hot = false → exec .d3hotEntry s = .next (setSleep (fun d => { d with source := .stopped, low := 0 })
      { runClear (fetchDisable s) with glb := { (runClear (fetchDisable s)).glb with d3hot := true } })) ∧
    (s.glb.d3hot = true → exec .d0Return s = .next
      (setSleep (fun d => { d with source := if d.outOfService then .crystal else .pll, low := 0 })
        { s with glb := { s.glb with d3hot := false } }))) ∧
  (∀ s : State, s.pins.perstN = false → exec .perstRelease s =
    .next { s with pins := { s.pins with perstN := true }, glb := { s.glb with bootAt := s.clk.count } }) ∧
  (∀ s t : State, s.pwr.powered = true → t = crumbFlush (crumb 0x21 4 3 (interruptUpdate s)) →
    exec .inputLoss s = .next { coldState t with pwr := { resetPwr with powered := false } } ∧
    exec .pwrEnRelease s = .next { coldState t with
      pwr := { resetPwr with powered := false }, pins := { (coldState t).pins with pwrEn := false, thermtrip := false } }) ∧
  (∀ (v : BitVec 16) (s t : State), s.pwr.powered = false → 4600 ≤ v.toNat → v.toNat ≤ 6000 →
    t = nextEpoch (coldState { s with pins := { s.pins with pwrEn := true } }) →
    exec (.pwrEnAssert v) s = .next { t with obs := { resetObs with crumbSeq := t.store.mramSeq } })

/-- The clock monitors: a second window in a row with less than half the expected edges declares the domain dead, a hung switch
does so at once, a good window clears the count; the forced path brings a dead domain back through the crystal to its PLL; a
failed relock takes it out of service; the loss of the crystal halts the device (14 R397-R403; 15 R452). Measurements and their
limits: 100 µs on, the cap, thermal and floor targets step and ACLK follows; at 115 °C the device trips; throttling and a
power-fail warning start and end; an expired watchdog restarts its core, and the third in 10 minutes halts the device (14
R411-R415; 13 R370). -/
def Obligations.ClockAndPowerCommandsComplete : Prop :=
  (∀ (c n : Nat) (s : State), monitored s c = true →
    (2 * n < expectedEdges s c → (domainOf s c).low = 1 → ∃ t, t = setDomain c
        { domainOf s c with low := 2, source := if n = 0 then .stopped else (domainOf s c).source } s ∧
      exec (.clkMonitorWindow c n) s = .next (declareDead c 0 (relock { t with clk := { t.clk with coarse := coarseNow t } }))) ∧
    (expectedEdges s c ≤ 2 * n → exec (.clkMonitorWindow c n) s = .next (setDomain c { domainOf s c with low := 0 } s)) ∧
    (∃ t, t = setDomain c { domainOf s c with source := .stopped, low := 2 } s ∧
      exec (.clkSwitchTimeout c) s = .next (declareDead c 1 (relock { t with clk := { t.clk with coarse := coarseNow t } })))) ∧
  (∀ (c : Nat) (s t : State), s.pwr.powered = true → s.pwr.tripped = false → c ≠ 0 → domainCodes.contains c = true →
    isDead s c = true → (domainOf s 0).source = .crystal → s.glb.state ≠ .bootRom →
    (s.glb.d3hot && sleepDomains.contains c) = false →
    t = noteClocks (setDomain c { domainOf s c with source := .crystal, inReset := false, low := 0 } s) →
    exec (.forcedPath c) s = .next (noteClocks
      (setDomain c { domainOf s c with source := .pll, inReset := false, low := 0 } (forcedEffects c t)))) ∧
  (∀ (c : Nat) (s t : State), s.pwr.powered = true → s.pwr.tripped = false → c ≠ 0 → domainCodes.contains c = true →
    (domainOf s c).outOfService = false → (domainOf s 0).source = .crystal → s.glb.state ≠ .bootRom →
    t = count (obsCtr 8) 1 (crumb 0x13 c 0
      (noteClocks (setDomain c { domainOf s c with source := .crystal, inReset := false, low := 0, outOfService := true } s))) →
    (c = 5 ∨ c = 6 ∨ c = 8 → exec (.clkRelockFail c) s = .next (halt t)) ∧
    (c ≠ 5 → c ≠ 6 → c ≠ 8 →
      exec (.clkRelockFail c) s = .next ((domainUnits t c).foldl (fun s u => outOfService u s) t))) ∧
  (∀ s : State, s.pwr.powered = true → s.pwr.tripped = false → s.clk.xtalOk = true → exec .xtalLoss s =
    .next (halt (crumb 0x11 0 0 (noteClocks (holdDomains
      (setDomain 0 { domainOf s 0 with source := .rc } { s with clk := { s.clk with xtalOk := false } })))))) ∧
  (∀ s : State, s.pwr.powered = true → s.pwr.tripped = false →
    (∀ (v w : BitVec 16) (a b : Byte), ∃ t u, t = advanceTo (s.pwr.lastMeasure.toNat + 100 * usUnits) s ∧
      u = { t with pwr := { t.pwr with
        volt := v, power := w, computeC := a, otherC := b, lastMeasure := t.clk.count
        inputOk := decide (4600 ≤ v.toNat) && decide (v.toNat ≤ 6000) } } ∧
      (max a.toNat b.toNat < 115 →
        exec (.powerMeasure v w a b) s = .next (stepAclk (thermStep (thermMeasured (capStep w.toNat u))))) ∧
      (115 ≤ max a.toNat b.toNat → exec (.powerMeasure v w a b) s = .next (thermTrip u))) ∧
    exec .thermThrottle s =
      .next (stepAclk (thermStep (assertLevel 0x05 0 { s with pwr := { s.pwr with throttle := true } }))) ∧
    exec .thermalThrottleEnd s =
      .next (deassertLevel 0x05 { s with pwr := { s.pwr with throttle := false, thermBelow := 0 } }) ∧
    (∃ t, t = crumb 0x12 0 ((pwrTemp s).setWidth 64) s ∧ exec .thermTrip s = .next (noteClocks (holdDomains
      { t with pwr := { t.pwr with tripped := true }, pins := { t.pins with thermtrip := true } }))) ∧
    (∀ low : Bool, s.pwr.pfActive = false → exec (.pwrFail true low) s = .next (crumbFlush (raise 0x02
      (at' 64 32 (pwrInput s).toNat ||| BitVec.ofNat 64 (1 + 2 * b2n low))
      { s with
        pins := { s.pins with pwrFailN := false }
        pwr := { s.pwr with floor := true, aclk := 500, pfActive := true, pfSeen := true } }))) ∧
    exec .pwrFailEnd s = .next { s with
      pins := { s.pins with pwrFailN := true }, pwr := { s.pwr with floor := false, pfActive := false } } ∧
    (∀ c t recent, c < 8 → s.glb.state ≠ .halted → t = restartCore c s →
      recent = (t.obs.watchdogs.filter fun x => decide (now t < x + 600 * secUnits)) ++ [now t] →
      (recent.length < 3 → exec (.watchdogExpiry c) s = .next { t with obs := { t.obs with watchdogs := recent } }) ∧
      (3 ≤ recent.length →
        exec (.watchdogExpiry c) s = .next (halt { t with obs := { t.obs with watchdogs := recent } }))))

/-- A host access of a placed tensor's window reads or writes the tensor's bytes where they lie, piece by piece, and one outside every
window reads zeros with poison or is dropped, with HDM_MISS; a scrub pass goes over the word or sector at the patrol's position and
moves it on; a translation invalidation completes (07 R178, R182, R204; 10 R309; 12 R353-R355; 15 R447). -/
def Obligations.WindowsAndScrubsComplete : Prop :=
  (∀ (off : Nat) (w : Nat × Nat) (data : List Byte) (s : State), serving s = true → windowAt s off data.length = some w →
    exec (.hostWindowAccess true off data) s = .next (hostStore (windowPieces s w data.length) data s) ∧
    ∃ r, r = readPieces s (windowPieces s w data.length) ∧
      exec (.hostWindowAccess false off data) s = .next (emit (.windowData (!r.2.isEmpty) r.1)
        (((windowPieces s w data.length).flatMap fun p => linesOf p.1 p.2).foldl (fun s l => snoopEnter l s)
          (noteHoles (windowPieces s w data.length) s)))) ∧
  (∀ (off : Nat) (data : List Byte) (s : State), serving s = true → windowAt s off data.length = none →
    exec (.hostWindowAccess true off data) s = .next (count (pleCtr 9) 1 { s with ple := { s.ple with hdmMiss := true } }) ∧
    exec (.hostWindowAccess false off data) s = .next (emit (.windowData true (List.replicate data.length 0))
      (count (pleCtr 9) 1 { s with ple := { s.ple with hdmMiss := true } }))) ∧
  (∀ (b n : Nat) (s : State), s.pwr.powered = true → s.glb.linkUp = true → s.glb.ats = true →
    exec (.atsInvalidation b n) s = .next (emit (.atsComplete b n) { s with glb := { s.glb with atsSeen := s.glb.atsSeen + 1 } })) ∧
  (∀ (c w : Nat) (f : EccFinding) (s : State), alive s = true → s.mem.nearScrubEn = true → columnOn s c = true →
    (w = SMap.get s.mem.scrubNear c 0 → exec (.nearScrubPass c w f) s = .next (nearScrub c w f (serveBg 0 c
      { s with mem := { s.mem with scrubNear := SMap.set s.mem.scrubNear c ((w + 1) % 2 ^ 24) 0 } }))) ∧
    (w ≠ SMap.get s.mem.scrubNear c 0 → exec (.nearScrubPass c w f) s = .next s)) ∧
  (∀ (c w : Nat) (f : EccFinding) (s : State), alive s = true → s.mem.farScrubEn = true → channelOn s c = true →
    (w = SMap.get s.mem.scrubFar c 0 → exec (.farScrubPass c w f) s = .next (farScrub c w f (serveBg 0 (0x400 + c / 4)
      { s with mem := { s.mem with scrubFar := SMap.set s.mem.scrubFar c ((w + 1) % 2 ^ 30) 0 } }))) ∧
    (w ≠ SMap.get s.mem.scrubFar c 0 → exec (.farScrubPass c w f) s = .next s))

/-- The DONE report freezes and sends the stages' state at the guard band, each round takes the peers' symbols into the OR and
starts the next, a peer's symbol is taken, and the edge advances or slips by the domain-wide OR (02 R30-R50; 09 R281). -/
def Obligations.TickCommandsComplete : Prop :=
  (∀ s t u : State, ∀ fin l, alive s = true → s.tkc.running = true → s.tkc.report = none → t = advanceTo (reportTime s) s →
    fin = t.fab.final.isSome → u = contribute t → l = (!(notDoneStages u fin).isEmpty || unlockedNow u || copiesRemain u) →
    ∃ v, v = { u with tkc := { u.tkc with
        report := some { notDone := notDoneStages u fin, local_ := l, running := l, rounds := 0, symbols := [] } } } ∧
      exec .doneReport s = .next (match domainDims v with | k :: _ => sendRound k l v | [] => v)) ∧
  (∀ (s t : State) (r : Report) (k : Nat) (rest : List Nat) (out : Bool), alive s = true → s.tkc.report = some r →
    (domainDims s).drop r.rounds = k :: rest →
    t = advanceTo (reportTime s + 15 * unit10ns + 55 * unit10ns * (r.rounds + 1)) s →
    out = (r.running || (peersIn t k).any fun y => peerNotDone r k y) →
    ∃ v, v = { t with tkc := { t.tkc with report := some { r with running := out, rounds := r.rounds + 1 } } } ∧
      exec (.doneForward r.rounds) s = .next (match rest with | j :: _ => sendRound j out v | [] => v)) ∧
  (∀ (k y : Nat) (w : W64) (s t : State) (same : Bool), alive s = true → (portTo s k y).isSome = true → bits w 57 56 = k →
    (bit w 58 = true → bits w 55 50 ≠ latCoord s k →
      exec (.doneSymbolReceive k y w) s = .next (relayDone k (bits w 55 50) w s)) ∧
    (bit w 58 = false ∨ bits w 55 50 = latCoord s k → bits w 49 34 = s.act.tick.domainId.toNat →
      same = (bits w 31 0 == s.tkc.tick.toNat % 2 ^ 32) → t = noteDiffering k y same s →
      (s.tkc.report = none ∨ same = false → exec (.doneSymbolReceive k y w) s = .next t) ∧
      (∀ r, s.tkc.report = some r → same = true → exec (.doneSymbolReceive k y w) s =
        .next { t with tkc := { t.tkc with report := some (Report.hear r k y (bit w 59)) } }))) ∧
  (∀ s t u : State, alive s = true → (s.tkc.running || s.tkc.armed) = true → t = settleReport s →
    u = countEdge (advanceTo t.tkc.nextEdge.toNat t) →
    (∀ r, u.tkc.report = some r → u.tkc.running = true → domainOr u r = true →
      ∃ v, v = everyEdge (switchesHeld t || t.upd.recHeld) (traceTick true (slipEdge r u)) ∧
        exec .tickEdge s = .next (settleFab (settleFlr (hushPorts { v with tkc := { v.tkc with report := none } })))) ∧
    ((u.tkc.report = none ∨ u.tkc.running = false ∨ ∃ r, u.tkc.report = some r ∧ domainOr u r = false) →
      ∃ v, v = everyEdge (switchesHeld t) (traceTick false (advanceEdge t.tkc.nextEdge.toNat u)) ∧
        exec .tickEdge s = .next (settleFab (settleFlr (hushPorts { v with tkc := { v.tkc with report := none } })))))

/-- The link layer: the codewords that FEC corrected in a flit are counted, a flit in order is taken and acknowledged flits leave the replay buffer, one that fails its FEC or CRC is counted
and answered with NAK, a missing acknowledgement resends, training brings a port UP or finds a wrong cable, retraining starts and its
timeout counts towards condemning the port (09 R252-R260; 15 R447). -/
def Obligations.LinkCommandsComplete : Prop :=
  ∀ (p k y : Nat) (s : State), peerOf s p = some (k, y) → alive s = true →
    (∀ f : Flit, portUp s p = true →
      (f.fecOk = false → exec (.flitReceive p f) s = .next (rejectFlit p (count (portCtr p 3) 1 (count (portCtr p 2) f.fecCorr s)))) ∧
      (f.fecOk = true → Flit.crcOk f = false →
        exec (.flitReceive p f) s = .next (rejectFlit p (count (portCtr p 4) 1 (count (portCtr p 2) f.fecCorr s)))) ∧
      (∀ t, f.fecOk = true → Flit.crcOk f = true →
        t = (Flit.symbols f).foldl (fun s w => takeSymbol p k y w s) (ackFlits p (Flit.ack f) (count (portCtr p 2) f.fecCorr s)) →
        (Flit.idle f = false → Flit.seq f = (portAt t p).rxExp →
          exec (.flitReceive p f) s = .next (flushPort p (sayIdle p [] (acceptFlit p f t)))) ∧
        (Flit.idle f = false → Flit.seq f ≠ (portAt t p).rxExp →
          exec (.flitReceive p f) s = .next (flushPort p (sayIdle p [] t))) ∧
        (Flit.idle f = true → (portAt t p).naking = false → exec (.flitReceive p f) s = .next (flushPort p t)) ∧
        (Flit.idle f = true → (portAt t p).naking = true →
          exec (.flitReceive p f) s = .next (flushPort p (sayIdle p [] t))))) ∧
    (∀ x rest, portUp s p = true → (portAt s p).replay = x :: rest →
      exec (.replayTimeout p) s = .next (resendFrom p x.seq (advanceTo ((portAt s p).ackTime + 2 * usUnits) s))) ∧
    (∀ (id : W64) (rtt : W32) (lanes : BitVec 4) (t : State), (portAt s p).state = .training ∨ (portAt s p).state = .retrain →
      t = returnToTraining p s →
      (identityOk t k y id = true → exec (.portTrainingDone p id rtt 0xF) s =
        .next (flushPort p (portState p .up (setPort p (freshPort (portAt t p) rtt 0xF) t)))) ∧
      (identityOk t k y id = false → ∃ u, u = { t with fab := { t.fab with cableErr := true } } ∧
        exec (.portTrainingDone p id rtt 0xF) s =
          .next (portState p .down (setPort p { portAt t p with lanes := 0xF, retrainAt := none } u))) ∧
      (lanes ≠ 0xF → exec (.portTrainingDone p id rtt lanes) s = .next (setPort p { portAt t p with lanes := lanes } t))) ∧
    (∀ (cause : RetrainCause) (lanes : BitVec 4), portUp s p = true → cause ≠ .replays →
      exec (.portRetrain p cause lanes) s = .next (portRetrainNow p (setPort p { portAt s p with lanes := lanes } s))) ∧
    (∀ t0 t recent u, (portAt s p).retrainAt = some t0 → (portAt s p).state = .retrain ∨ (portAt s p).state = .training →
      t = advanceTo (t0 + 100000 * usUnits) s →
      recent = ((portAt t p).failedRetrains.filter fun x => decide (now t < x + tenMinutes)) ++ [now t] →
      u = setPort p { portAt t p with failedRetrains := recent, retrainAt := some (now t) } t →
      exec (.portRetrainTimeout p) s = .next (if 3 ≤ recent.length then condemn 3 p 9 u else u))

/-- Time alignment: an exchange starts at its period, a request is answered with receive and transmit times, a response gives the
offset and corrects the count, and the parent's loss of lock passes on, as does its lock once eight exchanges were good (09 R285; 14 R407-R409). -/
def Obligations.TimeExchangesComplete : Prop :=
  ∀ s : State, alive s = true →
    (∀ k y t, parent s = some (k, y) → disciplined s = true →
      t = skipExchange (advanceTo (s.clk.syncAt.toNat + max 1 s.act.topo.periodUs.toNat * usUnits) s) →
      exec .timeExchangeStart s = .next (sayTime k y [timeSymbol 0 t.clk.count]
        { t with clk := { t.clk with awaiting := some t.clk.count, syncAt := t.clk.count } })) ∧
    (∀ k y t1, s.act.timeMode = 1 → s.fab.syncEn = true → (portTo s k y).isSome = true →
      exec (.timeRequestReceive k y t1) s =
        .next (sayTime k y [timeSymbol 1 s.clk.count, timeSymbol 2 s.clk.count] s)) ∧
    (∀ (t1 t2 t3 t4 : W64) (cycles : Nat) (offset : Int) (t : State), s.clk.awaiting = some t1 → disciplined s = true →
      offset = Int.tdiv (((t2.toNat : Int) - t1.toNat) - ((t4.toNat : Int) - t3.toNat)) 2 →
      t = { s with
        fab := { s.fab with syncOffset := BitVec.ofInt 64 offset }
        clk := { s.clk with awaiting := none, heldT2 := none, skipped := 0, exchanged := s.clk.count } } →
      exec (.timeResponseReceive t2 t3 t4 cycles) s = .next (settleLock offset (round8 offset) (applyOffset (round8 offset) cycles t))) ∧
    (isRoot s = false →
      (∃ t, t = { s with clk := { s.clk with parentLocked := true } } ∧ exec (.lockStateMessage true) s =
        .next (if 8 ≤ s.clk.good ∧ s.clk.coarse = false then setLocked true t else t)) ∧
      ∃ t, t = { s with clk := { s.clk with parentLocked := false, good := 0, locked := false } } ∧
        (s.clk.locked = true → exec (.lockStateMessage false) s = .next ((children t).foldl (fun s d => tell d mLock [0] s) t)) ∧
        (s.clk.locked = false → exec (.lockStateMessage false) s = .next t))

/-- The step's commands: STEP_BEGIN opens its step with no step open, VOTE contributes at the guard band, STEP_COMMIT waits for its
edge, RECORD_STEP arms a record, REPLAY loads one, and a vote frame that arrives is taken into the combination, a copy of one only
counted (01 R20-R25; 08 R240,
R242, R244; 09 R282, R283). -/
def Obligations.StepCommandsComplete : Prop :=
  (∀ (q : Nat) (d : Desc) (s s0 : State) (c : Cmd),
    (Due opStepBegin ⟨stepBeginCheck, stepBeginBody⟩ q d s c s0 → s0.upd.step = none →
      exec (.stepBegin q d) s = .next (leaves q c (.finished okResult) s0
        (openStep (ringOf s0 q) c (if s0.upd.boundary = some c.order then s0 else boundaryIn c.beat d.w2 s0)))) ∧
    (∀ o, Due opVote ⟨openStepCheck, voteBody⟩ q d s c s0 → updatesBefore (ringOf s0 q) c = false → s0.upd.step = some o →
      exec (.vote q d) s = .next (if o.frozen then leaves q c (.finished okResult) s0 s0
        else leaves q c (.started (now s0)) s0 { s0 with upd := { s0.upd with step := some { o with votePending := true } } })) ∧
    (∀ o, Due opStepCommit ⟨openStepCheck, stepCommitBody⟩ q d s c s0 → updatesBefore (ringOf s0 q) c = false →
      s0.upd.step = some o →
      exec (.stepCommit q d) s = .next (if o.fixed then leaves q c (.committing okResult) s0 s0
        else leaves q c (.started (now s0)) s0
          (if o.frozen then s0 else { s0 with upd := { s0.upd with step := some { o with votePending := true } } }))) ∧
    (Due opRecordStep ⟨recordCheck, recordBody⟩ q d s c s0 → hostOk s0 (ringOf s0 q).context.toNat = true →
      exec (.recordStep q d) s = .next (leaves q c (.finished okResult) s0 { s0 with upd := { s0.upd with armed := some d.w2 } })) ∧
    (∀ pl t, Due opReplay ⟨noCheck, replayBody⟩ q d s c s0 → hostOk s0 (ringOf s0 q).context.toNat = true →
      s0.ple.placement = some pl → hostNat s0 (d.w2.toNat + 2) 2 = 1 → hostNat s0 (d.w2.toNat + 4) 4 = 0x53544550 →
      hostW64 s0 (d.w2.toNat + 16) = pl.id → t = loadStart d.w2.toNat (loadDirectory d.w3.toNat s0) →
      exec (.replay q d) s = .next (leaves q c (.finished okResult) s0 { t with upd := { t.upd with
        replay := some d.w2, replaySeed := hostW64 t (d.w2.toNat + 24), lastStep := hostW64 t (d.w2.toNat + 8) - 1 } }))) ∧
  (∀ (k y : Nat) (f : VoteFrame) (s t : State), alive s = true →
    t = oweArrived (portFrom s k y) 0 130 s →
    (frameCopy t k y f = false →
      exec (.voteFrameReceive k y f) s = .next (advanceVote 4 { t with fab := { t.fab with frames := t.fab.frames ++ [(k, y, f)] } })) ∧
    (∀ x, frameCopy t k y f = true → portFrom s k y = some x →
      exec (.voteFrameReceive k y f) s = .next (count (portCtr x.1 8) 1 t)))

/-- Parameter updates: UPDATE_LAYER stages the layer's update by its rule and ROW_UPDATE logs the rows of its list, both with units in
service, sources that are not poisoned and, for ROW_UPDATE, room in the log; SCHEDULE_SET stages a schedule or a new peak, or ends
with the error of a value out of range, or POISONED where the host's data is (08 R216-R224, R229-R235; 11 Table 11.10). -/
def Obligations.UpdateCommandsComplete : Prop :=
  ∀ (q : Nat) (e : Desc) (s s0 : State) (c : Cmd),
    (∀ layer l p d, Due opUpdateLayer ⟨updateCheck, updateBody⟩ q e s c s0 → layer = bits e.w2 63 48 → layerEnt s0 layer = some l →
      layerPl s0 layer = some p → ruleFor s0 (l.rule.getD 0) false (ouvutLayer s0 layer) = .ok d → luesGone s0 p = false →
      layerPoison s0 d l p = false →
      ¬(Rule.code d = 4 ∧ rootsPending s0 d l p.now (leNat (devBytes s0 p.now.rec_ 4) + 1) = true) →
      exec (.updateLayer q e) s = .next (leaves q c
        (.finished (mkResult stOk (if (updateLayer s0 d (ouvutLayer s0 layer) l p).failed.isEmpty then 0 else flPrecond) 0 0)) s0
        (stageUpdate (ringOf s0 q) c layer d l p s0).2)) ∧
    (∀ b d list reps items u, Due opRowUpdate ⟨rowCheck, rowBody⟩ q e s c s0 → list = operand e.w3 →
      tabOf s0 (bits e.w2 63 40) = some b →
      ruleFor s0 (b.rule.getD 0) true (ouvutStage s0 (ringOf s0 q).stage.toNat) = .ok d →
      reps = List.range (stageReplicas s0 (ringOf s0 q).stage.toNat) → items = reps.map (rowItems s0 (ringOf s0 q) c b) →
      unitsGone s0 (ringOf s0 q).stage.toNat [list] (cmdBeat s0 (ringOf s0 q) c) = false →
      (reps.any fun rep => listPoison s0 list 8 (cmdBeat s0 (ringOf s0 q) c) rep (listLength s0 list)) = false →
      logFull s0 b (ownRows s0 b items.flatten) = false →
      u = reps.foldl (fun s rep => touchList list 8 (cmdBeat s0 (ringOf s0 q) c) rep (listLength s list) s) s0 →
      exec (.rowUpdate q e) s = .next (leaves q c (rowRun (ringOf s0 q) c d b items u).1 s0
        (rowRun (ringOf s0 q) c d b items u).2)) ∧
    (∀ x, Due opScheduleSet ⟨scheduleCheck, scheduleBody⟩ q e s c s0 → bit e.w2 57 = false →
      hostOk s0 (ringOf s0 q).context.toNat = true → x = BitVec.ofNat 512 (leNat (hostRead s0 e.w3.toNat 64)) →
      exec (.scheduleSet q e) s = .next
        (if Config.hostPoison e.w3.toNat (ctrAt s0 (qsuCtr 2)) then leaves q c (.finished (stResult stPoisoned)) s0 s0
         else if schedOk x then leaves q c (.finished okResult) s0
          { s0 with upd := { s0.upd with schedNext := SMap.set s0.upd.schedNext (bits e.w2 63 58) x 0 } }
         else leaves q c (.finished (descErr 0x09 3)) s0 s0)) ∧
    (∀ (v : F32) x, Due opScheduleSet ⟨scheduleCheck, scheduleBody⟩ q e s c s0 → bit e.w2 57 = true → v = e.w3.setWidth 32 →
      x = (SMap.get s0.upd.schedNext (bits e.w2 63 58) 0 &&& ~~~ ((0xFFFFFFFF#512) <<< 320) ||| (v.setWidth 512 <<< 320)) →
      (posFinite v = true → exec (.scheduleSet q e) s = .next (leaves q c (.finished okResult) s0
        { s0 with upd := { s0.upd with schedNext := SMap.set s0.upd.schedNext (bits e.w2 63 58) x 0 } })) ∧
      (posFinite v = false → exec (.scheduleSet q e) s = .next (leaves q c (.finished (descErr 0x09 3)) s0 s0)))

/-- An inverse root of a rule 4 factor: a pending root starts, or is dropped where root computations are switched off; a started one
ends with the result of the rule's iteration, or with none where the factor cannot be decomposed (08 R225-R228). -/
def Obligations.InverseRootsComplete : Prop :=
  ∀ (layer block factor n : Nat) (r : Root) (s : State), rootAt s layer block factor = some (n, r) → alive s = true →
    (r.started = false → s.upd.rootsEn = true → exec (.rootComputeStart layer block factor) s =
      .next (setRoots n (fun l => l.map fun x => if x == r then { x with started := true } else x) s)) ∧
    (r.started = false → s.upd.rootsEn = false → exec (.rootComputeStart layer block factor) s =
      .next (setRoots n (fun l => l.filter fun x => !(x == r)) s)) ∧
    (∀ d, r.started = true → layerRule s layer = some d → exec (.rootComputeDone layer block factor) s =
      .next (setRoots n (fun l => l.map fun x =>
        if x == r then { x with result := some ((inverseRoot d r.n (chunks r.n r.input)).map List.flatten) } else x) s))

/-- A step that ends discarded changes no parameter: module memory, in which masters, optimizer state and error memories lie, and the
working weights are as before, the staged error memories are dropped, and of the staging log only committed entries stay (01 R24;
08 R236, R238; 09 R276). -/
def Obligations.DiscardedStepKeepsParameters : Prop :=
  ∀ (slots : BitVec 16384) (s : State),
    (settleUpdates true slots s).mem.cells = s.mem.cells ∧ (settleUpdates true slots s).tiles.weights = s.tiles.weights ∧
    (settleUpdates true slots s).fab.errStage = [] ∧ (settleUpdates true slots s).upd.roots = s.upd.roots ∧
    (settleUpdates true slots s).ple.placement = s.ple.placement ∧
    (settleUpdates true slots s).mem.log = s.mem.log.filter fun e => e.committed

/-- The placement commands with every check met: LOAD_GRAPH keeps the image under a free handle, which DETAIL tells; PLACE installs
the plan with no placement in force and asks for a re-placement otherwise, REPLACE always asks, each with its report in host memory;
PIN records its pin; UNLOAD_GRAPH drops an image whose stages run nothing, marks a busy one, and asks for a re-placement where the
set in force holds it (10 R288, R292, R306, R307; 11 Tables 11.7, 11.15). What `plan` chooses is left open (log 9). -/
def Obligations.PlacementCommandsComplete : Prop :=
  ∀ (q : Nat) (d : Desc) (s s0 : State) (c : Cmd), hostOk s0 (ringOf s0 q).context.toNat = true →
    (∀ h, Due opLoadGraph ⟨alignedCheck 2, loadGraphBody⟩ q d s c s0 → imgWhole s0 d.w2.toNat = true →
      imageReason (imageOf s0 d.w2.toNat) (s0.ple.images.map (·.2)) = 0 → freeHandle s0 = some h →
      exec (.loadGraph q d) s = .next (leaves q c (.finished { okResult with detail := BitVec.ofNat 32 h }) s0
        { s0 with ple := { s0.ple with images := SMap.put s0.ple.images h (imageOf s0 d.w2.toNat) } })) ∧
    (∀ p t, Due opPlace ⟨noCheck, placeBody⟩ q d s c s0 → plan s0 (loadedImages s0) = .ok p → reportBytes p ≤ bits d.w3 31 0 →
      t = hostWrite s0 d.w2.toNat (reportOf s0 p) →
      exec (.place q d) s = .next (leaves q c (.finished okResult) s0
        (if s0.ple.placement = none then install p { t with ple := { t.ple with report := some (d.w2, bits d.w3 31 0) } }
         else askReplace (loadedImages s0) { t with ple := { t.ple with report := some (d.w2, bits d.w3 31 0) } }))) ∧
    (∀ h pl old g set p t, Due opReplace ⟨alignedCheck 2, replaceBody⟩ q d s c s0 → h = bits d.w3 35 32 → s0.ple.placement = some pl →
      SMap.find s0.ple.images h = some old → imgWhole s0 d.w2.toNat = true → g = imageOf s0 d.w2.toNat →
      imageReason g ((s0.ple.images.filter fun p => p.1 != h).map (·.2)) = 0 → g.sameBut old = true →
      set = (if (SMap.find (s0.ple.next.getD (inForce s0)) h).isSome then SMap.put (s0.ple.next.getD (inForce s0)) h g
        else s0.ple.next.getD (inForce s0)) → plan s0 set = .ok p → reportBytes p ≤ bits d.w3 31 0 →
      t = hostWrite s0 d.w4.toNat (reportOf s0 p) →
      exec (.replace q d) s = .next (leaves q c (.finished okResult) s0 (askReplace set
        { t with ple := { t.ple with report := some (d.w4, bits d.w3 31 0), images := SMap.put t.ple.images h g } }))) ∧
    (Due opPin ⟨pinCheck, pinBody⟩ q d s c s0 → exec (.pin q d) s = .next (leaves q c (.finished okResult) s0
      { s0 with ple := { s0.ple with pins := s0.ple.pins ++ [(bits d.w2 63 40, bits d.w3 39 0, bits d.w4 39 0, bit d.w2 0)] } })) ∧
    (∀ h g t, Due opUnloadGraph ⟨noCheck, unloadBody⟩ q d s c s0 → h = bits d.w2 3 0 → SMap.find s0.ple.images h = some g →
      t = (if imageBusy s0 g then { s0 with ple := { s0.ple with unload := insertNat h s0.ple.unload } }
        else { s0 with ple := { s0.ple with images := SMap.del s0.ple.images h } }) →
      ((SMap.find (s0.ple.next.getD (inForce s0)) h).isNone = true →
        exec (.unloadGraph q d) s = .next (leaves q c (.finished okResult) s0 t)) ∧
      (∀ set p, (SMap.find (s0.ple.next.getD (inForce s0)) h).isNone = false → set = SMap.del (s0.ple.next.getD (inForce s0)) h →
        plan t set = .ok p →
        exec (.unloadGraph q d) s = .next (leaves q c (.finished okResult) s0 (askReplace set (resendReport p t)))))

/-- The commands of precision and observation: SET_RECIPE takes a valid entry, at once where the tick has stopped; READ_STATS writes
statistics to host memory and tells in DETAIL how many bytes; SHADOW_CFG keeps the interval for the next step; DIGEST and DUMP write
the operand's record in each replica and count (05 R129, R130, R151; 11 Table 11.11; 15 R434, R435). -/
def Obligations.RecordsComplete : Prop :=
  ∀ (q : Nat) (d : Desc) (s s0 : State) (c : Cmd) (st beat : Nat), hostOk s0 (ringOf s0 q).context.toNat = true →
    st = (ringOf s0 q).stage.toNat → beat = cmdBeat s0 (ringOf s0 q) c →
    (∀ rc t, Due opSetRecipe ⟨noCheck, setRecipeBody⟩ q d s c s0 → rc = (hostBlock s0 d.w3.toNat &&& recipeMask) →
      t = { s0 with prc := { s0.prc with recipeNext := SMap.put s0.prc.recipeNext (bits d.w2 63 50) rc } } →
      (recipeOk rc = true → exec (.setRecipe q d) s = .next (leaves q c (.finished okResult) s0
        (if s0.tkc.running || s0.tkc.armed then t else applyRecipes (s0.upd.seed.map fun _ => stepNo s0) t))) ∧
      (recipeOk rc = false → exec (.setRecipe q d) s = .next (leaves q c (.finished (descErr 0x09 3)) s0
        { s0 with prc := { s0.prc with recipeReject := true } }))) ∧
    (∀ bs, Due opReadStats ⟨noCheck, readStatsBody⟩ q d s c s0 →
      bs = (readStats s0 (bits d.w3 63 62) (bits d.w4 63 48) (bits d.w4 47 32)).take (bits d.w3 31 0) →
      exec (.readStats q d) s = .next (leaves q c (.finished { okResult with detail := BitVec.ofNat 32 bs.length }) s0
        (hostWrite s0 d.w2.toNat bs))) ∧
    (Due opShadowCfg ⟨shadowCheckCfg, shadowCfgBody⟩ q d s c s0 → exec (.shadowCfg q d) s = .next (leaves q c (.finished okResult) s0
      { s0 with prc := { s0.prc with
        shadowNext := SMap.put s0.prc.shadowNext (bits d.w2 63 48) (BitVec.ofNat 8 (bits d.w2 7 0)) } })) ∧
    (∀ o n, Due opDigest ⟨digestCheck, digestBody⟩ q d s c s0 → o = operand d.w2 → n = operandRows s0 o - o.first →
      unitsGone s0 st [o] beat = false →
      exec (.digest q d) s = .next (leaves q c
        (.finished (stResult (if (List.range (stageReplicas s0 st)).any fun rep =>
          match anySource s0 o beat rep with | some src => rowsPoison src o.first n | none => false then stPoisoned else stOk))) s0
        (count (obsCtr 2) (stageReplicas s0 st) ((List.range (stageReplicas s0 st)).foldl (fun t rep =>
          match anySource s0 o beat rep with
          | some src => hostWrite t d.w3.toNat (digestRecord s0 o (Desc.micro d) o.first n src)
          | none => t) (touchOperand st o beat n s0))))) ∧
    (∀ o n, Due opDump ⟨dumpCheck, dumpBody⟩ q d s c s0 → o = wholeTensor (bits d.w2 63 40) → n = operandRows s0 o →
      unitsGone s0 st [o] beat = false →
      exec (.dump q d) s = .next (leaves q c
        (.finished (stResult (if (List.range (stageReplicas s0 st)).any fun rep =>
          match anySource s0 o beat rep with | some src => rowsPoison src 0 n | none => false then stPoisoned else stOk))) s0
        (count (obsCtr 3) 1 ((List.range (stageReplicas s0 st)).foldl (fun t rep =>
          match anySource s0 o beat rep with
          | some src => hostWrite t d.w4.toNat
              (dumpHeader s0 (bits d.w2 63 40) src (dumpData s0 (bits d.w2 63 40) n src) ++ dumpData s0 (bits d.w2 63 40) n src)
          | none => t) (touchOperand st o beat n s0)))))

/-- The engines' own commands: an array pass of 1 to 512 rows on a tile in service starts, product tables are built for the first
CB4 weights without them, and the check of a captured result files its ratio in the layer's statistics (04 R105,
R108; 05 R153; 06 R164). A copy of an embedding page completes its job, and the write back of a row moves every committed log entry of
the row to its place (07 R193, R195; 10 R305). -/
def Obligations.EngineCommandsComplete : Prop :=
  (∀ (tile : Nat) (s : State),
    (∀ tag rows ready found, serving s = true → tileOn s tile = true → isCondemned s 0 tile = false →
      1 ≤ rows.rows.length → rows.rows.length ≤ 512 →
      ∃ t, t = passStart tile tag rows.first (rows.rows.map (PassRow.acts (arrayOf s tile).shadow)) ready found s ∧
        exec (.arrayPassStart tile tag rows ready found) s = .next t ∧
        (arrayOf t tile).tag = tag ∧ (arrayOf t tile).active = (arrayOf s tile).shadow ∧
        (arrayOf t tile).shadow = (arrayOf s tile).active) ∧
    (∀ layer l n ws, alive s = true → ws = SMap.get s.tiles.weights layer [] →
      buildNext ws = some n → layerEnt s layer = some l →
      ∃ t, t = { s with tiles := { s.tiles with weights := SMap.set s.tiles.weights layer (builtSets n ws) [] } } ∧
        exec (.productTableBuild layer) s = .next ((List.range (stageReplicas t l.stage)).foldl (fun u rep =>
          ((splitOutputs (stageTiles u l.stage rep).length 1 l.n).zip (stageTiles u l.stage rep)).foldl (fun u x =>
            let v := serveBg 4 (0x2000 + x.2) (count (tileCtr x.2 19) 1 u)
            if waitsForTables s layer then count (tileCtr x.2 20) (buildCycles l.k x.1) v else v) u) t)) ∧
    (∀ c r t, serving s = true → (s.prc.captures.find? fun c => c.tile == tile) = some c →
      r = shadowResult (fp16.decode (Recipe.shadowTol (recipeAt s c.recipe))) c.ys (shadowRef c) →
      t = updStat (statKey c.layer c.role tile) c.recipe c.rung
        (fun x =>
          let y := if r.1 = 15 then x.flag 3 else x
          { y with
            shadowChecks := satInc y.shadowChecks
            shadowDisagree := if r.2 then satInc y.shadowDisagree else y.shadowDisagree
            shadowHist := SMap.alter y.shadowHist r.1 0 fun n => min 65535 (n + 1) })
        (count (tileCtr tile 26) (ceilDiv (c.ys.length * (c.rows.headD []).length) 512)
          (serveBg 1 (0x1000 + tile) { s with prc := { s.prc with captures := s.prc.captures.erase c } })) →
      (r.1 ≠ 15 → exec (.shadowCheck tile) s = .next t) ∧
      (r.1 = 15 → ∃ n, n = noteFault 0 tile 6 1024 (stepNo t).toNat t ∧
        exec (.shadowCheck tile) s = .next (if 4 ≤ n.1 then condemn 0 tile 6 n.2 else n.2)))) ∧
  (∀ (table n : Nat) (s : State), alive s = true →
    (∀ job e t, (s.ple.copies.find? fun c => c.table == table && c.page == n && !c.complete) = some job →
      SMap.find s.ple.dir (dirKey table n) = some e → t = [e.home, 0x3000, 0x3001].foldl (fun s u => serveBg 2 u s) s →
      exec (.migrate table n) s = .next (count (nbeCtr e.home 7) 1 { t with ple := { t.ple with
        copies := t.ple.copies.map fun c => if c.table == table && c.page == n then { c with complete := true } else c } })) ∧
    exec (.stagingLogWriteback table n) s = .next
      ((s.mem.log.filter fun e => e.committed && e.table == table && e.row == n).foldl (fun s e => writeBack e s) s))

/-- MATMUL, MATVEC and ATTEND with data to work on and units in service run in every replica whose inputs and output rows are not
poisoned, repeat as the format's rules have them, and end with the repeats in their result: OK, POISONED where a replica is left
out, FAULT where the command met a second error; the output rows stay in the edge's half or tensor, and those of a replica left out are poisoned
(02 R42, R52; 04 R121; 05 R146, R147; 11 R330, R331). -/
def Obligations.MatrixInstructionsComplete : Prop :=
  ∀ (q : Nat) (d : Desc) (s s0 u v : State) (c : Cmd) (i good : Instn) (reads : List (Operand × Nat)) (bad : List Nat) (n : Nat)
    (k : Kept × State) (res : Result) (end_ : State),
    u = reads.foldl (fun s x => touchOperand i.stage x.1 i.beat x.2 s) s0 →
    arrayGone u i.stage (i.out :: reads.map (·.1)) i.beat = false → i.rows ≠ 0 → i.cols ≠ 0 →
    v = noteMissed i (layerRung s0 i.layer)
      (reads.any fun x => good.reps.any fun rep =>
        operandMiss (poisonOut { i with reps := bad } (layerRung s0 i.layer) n (takeTileFlags i.stage u).2.2) x.1 i.beat rep x.2)
      (poisonOut { i with reps := bad } (layerRung s0 i.layer) n (takeTileFlags i.stage u).2.2) →
    good = { i with reps := i.reps.filter fun rep => !bad.contains rep } → good.reps ≠ [] →
    res = mkResult (if (takeTileFlags i.stage u).2.1 ≠ [] then stFault else if bad ≠ [] then stPoisoned else stOk) 0
      (k.1.repeats * good.reps.length) (b2n (decide ((takeTileFlags i.stage u).1 ≠ []) || decide ((takeTileFlags i.stage u).2.1 ≠ []))) →
    end_ = poisonTiles good (takeTileFlags i.stage u).2.1 k.2 →
    (∀ vec, i = matInst s0 (ringOf s0 q) c → reads = matReads s0 (ringOf s0 q) c → n = i.storedRows →
      (tablesMissing s0 d i.beat && !i.dry) = false →
      (Desc.mode d = 2 ∨ i.dry = true ∨ ∃ w, weightsOf u i.layer i.beat = some w ∧ w.poisoned = false) →
      bad = badReps u i reads (layerRung s0 i.layer) n →
      k = matRun good (takeTileFlags i.stage u).1 (ringOf s0 q) c v →
      Due (if vec then opMatvec else opMatmul) ⟨matCheck vec, matBody⟩ q d s c s0 →
      exec (if vec then .matvec q d else .matmul q d) s = .next (leaves q c (.finished res) s0 end_)) ∧
    (i = attendInst s0 (ringOf s0 q) c → reads = attendReads d → n = i.rows →
      bad = badReps s0 i reads (layerRung s0 i.layer) n →
      k = attempts good (isFloatFmt (operandFmt v (operand d.w2) i.beat) || isFloatFmt (operandFmt v (operand d.w3) i.beat))
        (attendOut v good d) (attendWork v good d (takeTileFlags i.stage u).1) (fun _ _ _ s => s) 6 (layerRung s0 i.layer) 0 v →
      Due opAttend ⟨attendCheck, attendBody⟩ q d s c s0 →
      exec (.attend q d) s = .next (leaves q c (.finished res) s0 end_))

/-- LOAD_WEIGHTS gives its layer a new set of working weights with the bytes of host memory; ELEMWISE, NORM, SOFTMAX and CONVERT with
rows to work on and units in service write the output of every replica whose inputs and output rows are not poisoned and end OK, or
POISONED where a replica is left out, CONVERT with the SURPLUS flag where escapes
were kept at the max code (01 R472; 03 R82; 05 R147; 11 R332-R334, Table 11.8). -/
def Obligations.VectorInstructionsComplete : Prop :=
  ∀ (q : Nat) (d : Desc) (s s0 : State) (c : Cmd),
    (∀ l, Due opLoadWeights ⟨loadCheck, loadBody⟩ q d s c s0 → layerEnt s0 (Desc.layer d) = some l →
      hostOk s0 (ringOf s0 q).context.toNat = true → condemnedTile s0 (ringOf s0 q).stage.toNat = false →
      ∃ w, w = loadedWeights s0 d l ∧ w.data = hostRead s0 d.w2.toNat (bits d.w7 39 0) ∧ w.from_ = nextBeat s0 ∧ w.poisoned = false ∧
        exec (.loadWeights q d) s = .next (leaves q c (.finished okResult) s0
          (formDigest 0 l.weight (Desc.micro d) (cmdBeat s0 (ringOf s0 q) c) w.data (l.k * l.n) (addWeights l.layer w s0)))) ∧
    (∀ i good reads also u p v bad wbad, i = xuInst s0 (ringOf s0 q) c (Desc.rows d) → i.rows ≠ 0 →
      u = reads.foldl (fun s x => touchOperand i.stage x.1 i.beat x.2 s) s0 →
      unitsGone u i.stage (i.out :: (also ++ reads).map (·.1)) i.beat = false →
      wbad = false → bad = badReps s0 i reads (layerRung s0 i.layer) i.rows →
      good = { i with reps := i.reps.filter fun rep => !bad.contains rep } → good.reps ≠ [] →
      p = poisonAlso i bad also (poisonOut { i with reps := bad } (layerRung s0 i.layer) i.rows u) →
      v = noteMissed i (layerRung s0 i.layer)
        (reads.any fun x => good.reps.any fun rep => operandMiss p x.1 i.beat rep x.2) p →
      (∀ k, reads = elemReads d → also = elemAlso d →
        k = attempts good true (fun _ _ rep => xuOut (elemOuts s0 d i rep))
          (fun _ _ rep _ s => elemWork d { good with reps := [rep] } s) (fun _ _ _ s => s) 6 (layerRung s0 i.layer) 0 v →
        Due opElemwise ⟨elemCheck, elemBody⟩ q d s c s0 →
        exec (.elemwise q d) s = .next (leaves q c
          (.finished (mkResult (if bad.isEmpty then stOk else stPoisoned) 0 (k.1.repeats * good.reps.length) 0)) s0
          (elemAfter s0 d good k.2))) ∧
      (∀ k, reads = normReads d → also = normAlso d → wbad = weightsBad s0 i →
        k = attempts good true (fun _ _ rep => xuOut (normOuts s0 d i rep))
          (fun _ _ rep _ s => normWork d { good with reps := [rep] } s) (fun _ _ _ s => s) 6 (layerRung s0 i.layer) 0 v →
        Due opNorm ⟨normCheck, normBody⟩ q d s c s0 →
        exec (.norm q d) s = .next (leaves q c
          (.finished (mkResult (if bad.isEmpty then stOk else stPoisoned) 0 (k.1.repeats * good.reps.length) 0)) s0
          (normAfter s0 d good k.2))) ∧
      (∀ k, reads = softmaxReads d → also = [] →
        k = attempts good true (fun _ _ rep => xuOut (softmaxOuts s0 d i rep))
          (fun _ _ rep _ s => softmaxWork d { good with reps := [rep] } s) (fun _ _ _ s => s) 6 (layerRung s0 i.layer) 0 v →
        Due opSoftmax ⟨softmaxCheck, softmaxBody⟩ q d s c s0 →
        exec (.softmax q d) s = .next (leaves q c
          (.finished (mkResult (if bad.isEmpty then stOk else stPoisoned) 0 (k.1.repeats * good.reps.length) 0)) s0
          k.2)) ∧
      (∀ k, reads = [(operand d.w2, Desc.rows d)] → also = [] → k = convertRun d good v →
        Due opConvert ⟨convertCheck, convertBody⟩ q d s c s0 →
        exec (.convert q d) s = .next (leaves q c
          (.finished (mkResult (if bad.isEmpty then stOk else stPoisoned) (if 0 < k.1 then flSurplus else 0) 0 0)) s0
          (countXu good 0 0 0 k.2))))

/-- EMB_GATHER, EMB_POOL and EMB_SCATTER with bags to work on and units in service run in each replica whose list and output rows are
not poisoned and end, OK or POISONED, with their flags (07 R182-R192). -/
def Obligations.EmbeddingInstructionsComplete : Prop :=
  ∀ (q : Nat) (d : Desc) (s s0 u : State) (c : Cmd) (b : Tab) (x : EmbRun) (n : Nat) (all bad : List Nat) (i : Instn) (sc : Bool)
    (k : List EmbOut × State) (one : EmbRun → Desc → Nat → State → EmbOut × State),
    tabOf s0 (embTable d) = some b → embBags d ≠ 0 → n = embOutRows s0 d x sc → all = List.range (stageReplicas s0 x.stage) →
    unitsGone s0 x.stage ([operand d.w3, operand d.w5] ++ (embWeights d).toList) x.beat = false →
    bad = all.filter (embPoisoned s0 d x sc n) →
    i = { layer := noLayer, stage := x.stage, out := operand d.w5, beat := x.beat, rows := embBags d, cols := b.d, swap := false,
          micro := x.micro, recompute := x.again, dry := false, reps := bad } →
    u = (if sc then s0 else poisonOut i 0 n s0) → k = embReplicas one d x (all.filter fun rep => !bad.contains rep) u →
    (x = embRun s0 (ringOf s0 q) c b (operandTensor s0 (operand d.w5)) → sc = false →
      (one = gatherRep →
          Due opEmbGather ⟨embCheck false (fun _ => 0), embBody false (fun s d => operandTensor s (operand d.w5)) gatherRep⟩ q d s c s0 →
        exec (.embGather q d) s = .next (leaves q c (.finished (embResult (embBags d) k.1 (!bad.isEmpty))) s0 k.2)) ∧
      (one = poolRep →
          Due opEmbPool ⟨embCheck false embBags, embBody false (fun s d => operandTensor s (operand d.w5)) poolRep⟩ q d s c s0 →
        exec (.embPool q d) s = .next (leaves q c (.finished (embResult (embBags d) k.1 (!bad.isEmpty))) s0 k.2))) ∧
    (x = embRun s0 (ringOf s0 q) c b (bits d.w7 23 0) → sc = true → one = scatterRep →
      Due opEmbScatter ⟨embCheck true embBags, embBody true (fun _ d => bits d.w7 23 0) scatterRep⟩ q d s c s0 →
      exec (.embScatter q d) s = .next (leaves q c (.finished (embResult (embBags d) k.1 (!bad.isEmpty))) s0 k.2))

/-- The commands that move messages start their transfer and end on its last message: a COPY inside the device moves its bytes at
once, a COPY to another device, GATHER_PARAMS, SEND and RECV register a transfer, REDUCE_SCATTER and ALL_TO_ALL enter the group's next
sequence number, each for every replica of a stage's set; then whatever can go on goes on (01 R27; 02 R51; 09 R267, R277-R280; 11 R335,
Table 11.9). The management messages
are the model's own (log 47). -/
def Obligations.FabricCommandsComplete : Prop :=
  ∀ (q : Nat) (d : Desc) (s s0 : State) (c : Cmd) (beat : Nat), beat = cmdBeat s0 (ringOf s0 q) c →
    (∀ a, Due opCopy ⟨copyCheck, copyBody⟩ q d s c s0 → Desc.remote d = false →
      (Desc.srcSpace d ≠ 0 ∧ Desc.dstSpace d ≠ 0) ∨ hostOk s0 (ringOf s0 q).context.toNat = true →
      spaceLost s0 (Desc.srcSpace d) d.w2 = false → spaceLost s0 (Desc.dstSpace d) d.w3 = false →
      a = (ringReplicas s0 (ringOf s0 q)).foldl (fun (a : Bool × State) rep =>
        (a.1 || !(copySource a.2 d rep).2.isEmpty,
          if Desc.dstSpace d = 0 then hostWrite (copyTouch a.2 d rep) d.w3.toNat (copySource a.2 d rep).1
          else copyStore (ringOf s0 q) c (copySource a.2 d rep) rep (copyTouch a.2 d rep))) (false, s0) →
      exec (.copy q d) s = .next (settleFab (leaves q c (.finished (dataResult a.1)) s0 a.2))) ∧
    (Due opCopy ⟨copyCheck, copyBody⟩ q d s c s0 → Desc.remote d = true →
      (Desc.srcSpace d ≠ 0 ∧ Desc.dstSpace d ≠ 0) ∨ hostOk s0 (ringOf s0 q).context.toNat = true →
      spaceLost s0 (Desc.srcSpace d) d.w2 = false →
      exec (.copy q d) s = .next (settleFab (leaves q c (.started (now s0)) s0
        ((ringReplicas s0 (ringOf s0 q)).foldl (copyRemote q c) s0)))) ∧
    (∀ l p owner, Due opGatherParams ⟨gatherCheck, gatherBody⟩ q d s c s0 → layerEnt s0 (Desc.gatherLayer d) = some l →
      bit d.w2 47 = true ∨ condemnedTile s0 l.stage = false → layerPl s0 (Desc.gatherLayer d) = some p → p.owner = owner →
      exec (.gatherParams q d) s = .next (settleFab (leaves q c (.started (now s0)) s0
        (sendTo owner
          (ownMessage (nextCmd s0).2 5 noGroup owner 0 0 (nextCmd s0).1 0 2
            (mgmt mGatherAsk [(nextCmd s0).1.toNat, Desc.gatherLayer d, b2n (bit d.w2 47), d.w3.toNat]))
          (addTransfer (newTransfer q c 4 owner 2 (Desc.gatherLayer d) (b2n (bit d.w2 47)) d.w3.toNat (nextCmd s0).1) (nextCmd s0).2))))) ∧
    (Due opSend ⟨sendCheck, sendBody⟩ q d s c s0 →
      exec (.send q d) s = .next (settleFab (leaves q c (.started (now s0)) s0
        ((ringReplicas s0 (ringOf s0 q)).foldl (sendStart q c beat) s0)))) ∧
    (Due opRecv ⟨sendCheck, recvBody⟩ q d s c s0 →
      ((ringReplicas s0 (ringOf s0 q)).any fun rep => lostOperand s0 (operand d.w2) beat rep) = false →
      exec (.recv q d) s = .next (settleFab (leaves q c (.started (now s0)) s0
        ((ringReplicas s0 (ringOf s0 q)).foldl (recvStart q c beat) s0)))) ∧
    (∀ xs n reps, Due opReduceScatter ⟨reduceCheck, reduceBody⟩ q d s c s0 → hostOk s0 (ringOf s0 q).context.toNat = true →
      reps = List.range (stageReplicas s0 (ringOf s0 q).stage.toNat) →
      (reps.any fun rep => lostOperand s0 (operand d.w2) beat rep) = false → xs = shardMap s0 d.w3.toNat (Desc.entries d) →
      n = operandRows s0 (operand d.w2) - (operand d.w2).first →
      exec (.reduceScatter q d) s = .next (settleFab (leaves q c (.started (now s0)) s0
        (reps.foldl (reduceStart q c xs n beat) (noteShards xs s0))))) ∧
    (Due opAllToAll ⟨a2aCheck, a2aBody⟩ q d s c s0 →
      ((ringReplicas s0 (ringOf s0 q)).any fun rep => [operand d.w2, operand d.w3].any fun o =>
        lostOperand s0 o beat rep || (locate s0 o beat rep none).isNone) = false →
      exec (.allToAll q d) s = .next (settleFab (leaves q c (.started (now s0)) s0
        ((ringReplicas s0 (ringOf s0 q)).foldl (a2aReplica q c beat) s0))))

/-- A message that arrives at an UP port frees its slots; one for another device goes on, as a detour where the port's peer is not
the device the dimension asks for, and one of an all-gather over its dimensions in descending order; a copy of one already taken is counted and discarded; any other is marked as taken and handed
to its command, or kept until that starts (09 R254, R261, R263, R264, R267). -/
def Obligations.MessagesComplete : Prop :=
  ∀ (p k z : Nat) (m : Message) (s t : State), alive s = true → portUp s p = true → peerOf s p = some (k, z) →
    t = oweSlots p m.vc (coordOf s m.src k != z) (msgSlots m) s →
    (m.dst ≠ myDevice t → coordOf t m.dst k ≠ latCoord t k →
      exec (.messageReceive p m) s = .next (relayOut k (coordOf t m.dst k) m t)) ∧
    (m.dst ≠ myDevice t → coordOf t m.dst k = latCoord t k → exec (.messageReceive p m) s = .next
      (if gatherMessage m then sendDown (takeOrder t).1 m.dst m (takeOrder t).2 else sendTo m.dst m t)) ∧
    (m.dst = myDevice t → m.msgIndex.toNat < SMap.get t.fab.marks (markKey m) 0 →
      exec (.messageReceive p m) s = .next (count (portCtr p 8) 1 t)) ∧
    (m.dst = myDevice t → SMap.get t.fab.marks (markKey m) 0 ≤ m.msgIndex.toNat →
      exec (.messageReceive p m) s = .next (messageHere p m t) ∧
      (m.msgIndex ≠ 0 → ∃ u, u = { t with fab := { t.fab with marks := SMap.put t.fab.marks (markKey m) (m.msgIndex.toNat + 1) } } ∧
        messageHere p m t = settleFab (takeMessage p m u)))
end

