-- ==== Sys2Proof/Laws/Bus.lean ====
section
/-!
SUPPORT. A host write that reaches its block has its effect there.
-/
namespace Sys2Proof
open Machine

/-- Dropping a held low word changes neither the power state nor the device state. -/
theorem dropHeld_pwr (off size : Nat) (s : State) : (dropHeld off size s).pwr = s.pwr := by
  unfold dropHeld
  split
  · split <;> rfl
  · rfl

theorem dropHeld_state (off size : Nat) (s : State) : (dropHeld off size s).glb.state = s.glb.state := by
  unfold dropHeld
  split
  · split <;> rfl
  · rfl

theorem onBus_of_reaches {off size : Nat} (f : State → State) {s : State} (ha : alignedAccess off size = true)
    (h : Reaches off s) : onBus off size f s = f (dropHeld off size s) := by
  obtain ⟨h1, h2, h3⟩ := h
  have hb : busWrite off size s = (true, dropHeld off size s) := by
    simp only [busWrite, dropHeld_state, ha, h1, h2]
    rcases h3 with h3 | h3 <;> simp [h3]
  simp [onBus, hb]

end Sys2Proof
end

