-- ==== Sys2Proof/Laws/Memory.lean ====
section
/-!
SUPPORT. Laws of the byte memories: the canonical form as a property of the list, that every operation keeps it, and what a read
after a write gives.
-/
namespace Sys2Proof.Machine

/-- The canonical form said of the whole list: addresses rise strictly and no byte is 0. -/
theorem Memory.wf_iff (m : List Host.Cell) : Memory.wf m = true ↔ m.Pairwise (fun x y => x.1 < y.1) ∧ ∀ c ∈ m, c.2 ≠ 0 := by
  fun_induction Memory.wf m with
  | case1 => simp
  | case2 k b => simp
  | case3 k b k' b' t ih =>
    rw [Bool.and_eq_true, Bool.and_eq_true, ih, List.pairwise_cons (a := (k, b)), List.forall_mem_cons (a := (k, b))]
    simp only [bne_iff_ne, decide_eq_true_eq]
    constructor
    · rintro ⟨⟨hb, hk⟩, hp, hz⟩
      refine ⟨⟨?_, hp⟩, hb, hz⟩
      intro c hc
      rcases List.mem_cons.mp hc with rfl | hc
      · exact hk
      · exact Nat.lt_trans hk ((List.pairwise_cons.mp hp).1 c hc)
    · rintro ⟨⟨h1, hp⟩, hb, hz⟩
      exact ⟨⟨hb, h1 (k', b') (List.mem_cons_self ..)⟩, hp, hz⟩

/-- Removing an address leaves a sublist. -/
theorem Memory.del_sublist (m : List Host.Cell) (a : Nat) : (Memory.del m a).Sublist m := by
  induction m with
  | nil => exact List.Sublist.refl _
  | cons x t ih =>
    rw [Memory.del]
    split
    · exact List.sublist_cons_self ..
    · exact ih.cons_cons _

/-- Dropping entries keeps the canonical form. -/
theorem Memory.wf_sublist {l m : List Host.Cell} (h : l.Sublist m) (w : Memory.wf m = true) : Memory.wf l = true := by
  rw [Memory.wf_iff] at *
  exact ⟨w.1.sublist h, fun c hc => w.2 c (h.subset hc)⟩

theorem Memory.wf_filter (f : Host.Cell → Bool) {m : List Host.Cell} (w : Memory.wf m = true) : Memory.wf (m.filter f) = true :=
  Memory.wf_sublist List.filter_sublist w

theorem Memory.mem_put {m : List Host.Cell} {a : Nat} {v : Byte} {c : Host.Cell} (h : c ∈ Memory.put m a v) :
    c = (a, v) ∨ c ∈ m := by
  fun_induction Memory.put m a v <;> grind

theorem Memory.wf_put {m : List Host.Cell} (a : Nat) {v : Byte} (hv : v ≠ 0) (w : Memory.wf m = true) :
    Memory.wf (Memory.put m a v) = true := by
  rw [Memory.wf_iff] at *
  refine ⟨?_, fun c hc => (Memory.mem_put hc).elim (fun e => e ▸ hv) (w.2 c)⟩
  have hp := w.1
  clear w
  induction m with
  | nil => simp [Memory.put]
  | cons x t ih =>
    rw [List.pairwise_cons] at hp
    rw [Memory.put]
    split
    · rename_i h
      refine List.pairwise_cons.mpr ⟨fun c hc => ?_, List.pairwise_cons.mpr hp⟩
      rcases List.mem_cons.mp hc with rfl | hc
      · exact h
      · exact Nat.lt_trans h (hp.1 c hc)
    · split
      · rename_i h
        exact List.pairwise_cons.mpr ⟨fun c hc => h ▸ hp.1 c hc, hp.2⟩
      · refine List.pairwise_cons.mpr ⟨fun c hc => ?_, ih hp.2⟩
        rcases Memory.mem_put hc with rfl | hc
        · exact Nat.lt_of_le_of_ne (Nat.le_of_not_lt ‹_›) (fun e => ‹¬a = x.1› e.symm)
        · exact hp.1 c hc

/-- Writing one byte keeps the canonical form. -/
theorem Memory.wf_set {m : List Host.Cell} (a : Nat) (v : Byte) (w : Memory.wf m = true) : Memory.wf (Memory.set m a v) = true := by
  rw [Memory.set]
  split
  · exact Memory.wf_sublist (Memory.del_sublist m a) w
  · exact Memory.wf_put a ‹_› w

/-- Writing bytes keeps the canonical form. -/
theorem Memory.wf_write {m : List Host.Cell} (a : Nat) (bs : List Byte) (w : Memory.wf m = true) :
    Memory.wf (Memory.write m a bs) = true := by
  induction bs generalizing m a with
  | nil => exact w
  | cons b t ih => exact ih _ (Memory.wf_set a b w)

/-- Applying stores keeps the canonical form. -/
theorem Memory.wf_stores {m : List Host.Cell} (cs : List Host.Cell) (w : Memory.wf m = true) :
    Memory.wf (Memory.stores m cs) = true := by
  rw [Memory.stores]
  induction cs generalizing m with
  | nil => exact w
  | cons c t ih => exact ih (Memory.wf_set c.1 c.2 w)

theorem Memory.get_of_lt {m : List Host.Cell} {a : Nat} (h : ∀ c ∈ m, a < c.1) : Memory.get m a = 0 := by
  induction m with
  | nil => rfl
  | cons x t ih =>
    have hx := h x (List.mem_cons_self ..)
    rw [Memory.get, if_neg (by omega), ih fun c hc => h c (List.mem_cons_of_mem _ hc)]

/-- An address above every listed one reads 0. -/
theorem Memory.get_of_gt {m : List Host.Cell} {a : Nat} (h : ∀ c ∈ m, c.1 < a) : Memory.get m a = 0 := by
  induction m with
  | nil => rfl
  | cons c t ih =>
    rw [Memory.get, if_neg (Nat.ne_of_lt (h c List.mem_cons_self))]
    exact ih fun x hx => h x (List.mem_cons_of_mem _ hx)

/-- A run of bytes above every listed address reads as zeros. -/
theorem Memory.read_of_gt {m : List Host.Cell} {a : Nat} (h : ∀ c ∈ m, c.1 < a) (n : Nat) : Memory.read m a n = List.replicate n 0 := by
  induction n generalizing a with
  | zero => rfl
  | succ n ih =>
    rw [Memory.read, Memory.get_of_gt h, ih fun c hc => Nat.lt_succ_of_lt (h c hc)]
    rfl

/-- A run of bytes, byte by byte. -/
theorem Memory.read_eq_map (m : List Host.Cell) (a n : Nat) : Memory.read m a n = (List.range n).map fun i => Memory.get m (a + i) := by
  induction n generalizing a with
  | zero => rfl
  | succ n ih =>
    rw [Memory.read, ih, List.range_succ_eq_map, List.map_cons, List.map_map, Nat.add_zero]
    exact congrArg _ (List.map_congr_left fun i _ => by rw [Function.comp_apply, Nat.succ_eq_add_one, Nat.add_assoc, Nat.add_comm 1 i])

/-- A run of bytes reads as its two parts. -/
theorem Memory.read_append (m : List Host.Cell) (a i j : Nat) : Memory.read m a (i + j) = Memory.read m a i ++ Memory.read m (a + i) j := by
  induction i generalizing a with
  | zero => rw [Nat.zero_add]; rfl
  | succ i ih => rw [Nat.add_right_comm, Memory.read, ih, Memory.read, Nat.add_assoc a 1 i, Nat.add_comm 1 i]; rfl

theorem Memory.get_del {m : List Host.Cell} (w : m.Pairwise (fun x y => x.1 < y.1)) (a b : Nat) :
    Memory.get (Memory.del m a) b = if a = b then 0 else Memory.get m b := by
  induction m with
  | nil => simp [Memory.del, Memory.get]
  | cons x t ih =>
    rw [List.pairwise_cons] at w
    rw [Memory.del]
    by_cases hx : x.1 = a
    · rw [if_pos hx]
      by_cases hab : a = b
      · rw [if_pos hab]
        exact Memory.get_of_lt fun c hc => by have := w.1 c hc; omega
      · rw [if_neg hab, Memory.get, if_neg (by omega)]
    · rw [if_neg hx, Memory.get, Memory.get, ih w.2]
      by_cases hxb : x.1 = b
      · rw [if_pos hxb, if_pos hxb, if_neg (by omega)]
      · rw [if_neg hxb, if_neg hxb]

theorem Memory.get_put {m : List Host.Cell} (w : m.Pairwise (fun x y => x.1 < y.1)) (a b : Nat) (v : Byte) :
    Memory.get (Memory.put m a v) b = if a = b then v else Memory.get m b := by
  induction m with
  | nil => simp [Memory.put, Memory.get]
  | cons x t ih =>
    rw [List.pairwise_cons] at w
    rw [Memory.put]
    split
    · rw [Memory.get]
    · split
      · rename_i h
        rw [Memory.get, Memory.get]
        by_cases hab : a = b
        · rw [if_pos hab, if_pos hab]
        · rw [if_neg hab, if_neg hab, if_neg (by omega)]
      · rw [Memory.get, Memory.get, ih w.2]
        by_cases hxb : x.1 = b
        · rw [if_pos hxb, if_pos hxb, if_neg (by omega)]
        · rw [if_neg hxb, if_neg hxb]

/-- A byte read after a write: the one written at its address, the old one elsewhere. -/
theorem Memory.get_set {m : List Host.Cell} (w : Memory.wf m = true) (a b : Nat) (v : Byte) :
    Memory.get (Memory.set m a v) b = if a = b then v else Memory.get m b := by
  have hp := ((Memory.wf_iff m).mp w).1
  rw [Memory.set]
  split
  · rename_i h
    rw [Memory.get_del hp, h]
  · exact Memory.get_put hp a b v

/-- A byte read after a write of several: one of those written within their range, the old one outside it. -/
theorem Memory.get_write {m : List Host.Cell} (w : Memory.wf m = true) (a b : Nat) (bs : List Byte) :
    Memory.get (Memory.write m a bs) b = if a ≤ b ∧ b < a + bs.length then bs.getD (b - a) 0 else Memory.get m b := by
  induction bs generalizing m a with
  | nil => rw [Memory.write, List.length_nil, if_neg (by omega)]
  | cons x t ih =>
    rw [Memory.write, ih (Memory.wf_set a x w), Memory.get_set w, List.length_cons]
    by_cases h : a = b
    · subst h
      rw [if_neg (by omega), if_pos rfl, if_pos (by omega)]
      simp
    · by_cases h2 : a + 1 ≤ b ∧ b < a + 1 + t.length
      · rw [if_pos h2, if_pos (by omega)]
        obtain ⟨k, rfl⟩ : ∃ k, b = a + 1 + k := ⟨b - (a + 1), by omega⟩
        have e1 : a + 1 + k - (a + 1) = k := by omega
        have e2 : a + 1 + k - a = k + 1 := by omega
        rw [e1, e2, List.getD_cons_succ]
      · rw [if_neg h2, if_neg h, if_neg (by omega)]

end Sys2Proof.Machine
end

