-- ==== Sys2Proof/Laws/View.lean ====
section
/-!
SUPPORT. What the frame laws follow of a state: the queue, the fuses, the active registers, the time base and the two memories; and
how this goes through folds, choices and the writes of memory.
-/
namespace Sys2Proof.Machine

/-- The parts of a state that the frame laws follow: the queue, the fuses and the two memories. -/
structure View where
  pending : List Instr
  fuses : Fuses
  act : Staged
  count : W64
  cells : List Host.Cell
  host : List Host.Cell

/-- What a state shows of those parts. -/
def view (s : State) : View := ⟨s.pending, s.fuses, s.act, s.clk.count, s.mem.cells, s.host⟩

/-- The queue and the fuses are as given, the active registers satisfy `a`, the time base satisfies `t`, the cells of
device memory satisfy `c`, and host memory
has its canonical form. -/
def Good (k : List Instr) (u : Fuses) (a : Staged → Prop) (t : W64 → Prop) (c : List Host.Cell → Prop) (v : View) : Prop :=
  v.pending = k ∧ v.fuses = u ∧ a v.act ∧ t v.count ∧ c v.cells ∧ Memory.wf v.host = true

/-- AnyRegs active registers. -/
def AnyRegs (_ : Staged) : Prop := True

/-- The time base is a multiple of 8 (14 R404). -/
def Eights (t : W64) : Prop := t.toNat % 8 = 0

/-- Memory in its canonical form. -/
def Canon (c : List Host.Cell) : Prop := Memory.wf c = true

@[simp ↓] theorem view_mk (a1 a2 a3 a4 a5 a6 a7 a8 a9 a10 a11 a12 a13 a14 a15 a16 a17 a18 a19 a20 a21 a22 a23 a24 a25) :
    view (State.mk a1 a2 a3 a4 a5 a6 a7 a8 a9 a10 a11 a12 a13 a14 a15 a16 a17 a18 a19 a20 a21 a22 a23 a24 a25) =
      View.mk a1 a5 a12 a9.count a20.cells a4 := (rfl : view _ = _).trans rfl

@[simp ↓] theorem view_eta (s : State) : View.mk s.pending s.fuses s.act s.clk.count s.mem.cells s.host = view s :=
  (rfl : _ = view s).trans rfl

@[simp ↓] theorem view_foldl {α : Type} (f : State → α → State) (h : ∀ s x, view (f s x) = view s) (l : List α) (s : State) :
    view (l.foldl f s) = view s := by
  induction l generalizing s with
  | nil => rfl
  | cons x t ih => rw [List.foldl_cons, ih, h]

@[simp ↓] theorem view_foldl_snd {α β : Type} (f : β × State → α → β × State) (h : ∀ p x, view (f p x).2 = view p.2) (l : List α)
    (p : β × State) : view (l.foldl f p).2 = view p.2 := by
  induction l generalizing p with
  | nil => rfl
  | cons x t ih => rw [List.foldl_cons, ih, h]

theorem view_foldl_to {α : Type} {v : View} (f : State → α → State) (l : List α) (s : State) (h : ∀ s x, view (f s x) = view s)
    (hs : view s = v) : view (l.foldl f s) = v := by rw [view_foldl f h, hs]

theorem view_foldl_snd_to {α β : Type} {v : View} (f : β × State → α → β × State) (l : List α) (p : β × State)
    (h : ∀ p x, view (f p x).2 = view p.2) (hs : view p.2 = v) : view (l.foldl f p).2 = v := by rw [view_foldl_snd f h, hs]

@[simp ↓] theorem view_ite (c : Prop) [Decidable c] (a b : State) : view (if c then a else b) = if c then view a else view b := by
  split <;> rfl

@[simp ↓] theorem snd_ite {α β : Type} (c : Prop) [Decidable c] (a b : α × β) : (if c then a else b).2 = if c then a.2 else b.2 := by
  split <;> rfl

@[simp ↓] theorem good_view_ite {K : List Instr} {U : Fuses} {A : Staged → Prop} {T : W64 → Prop} {C : List Host.Cell → Prop} (c : Prop) [Decidable c] (a b : State) (ha : Good K U A T C (view a))
    (hb : Good K U A T C (view b)) : Good K U A T C (view (if c then a else b)) := by split <;> assumption

@[simp ↓] theorem good_snd_ite {α : Type} {K : List Instr} {U : Fuses} {A : Staged → Prop} {T : W64 → Prop} {C : List Host.Cell → Prop} (c : Prop) [Decidable c] (a b : α × State)
    (ha : Good K U A T C (view a.2)) (hb : Good K U A T C (view b.2)) : Good K U A T C (view (if c then a else b).2) := by split <;> assumption

@[simp ↓] theorem good_pair {α : Type} {K : List Instr} {U : Fuses} {A : Staged → Prop} {T : W64 → Prop} {C : List Host.Cell → Prop} (a : α) (s : State) (h : Good K U A T C (view s)) :
    Good K U A T C (view (a, s).2) := h

theorem good_foldl {α : Type} {K : List Instr} {U : Fuses} {A : Staged → Prop} {T : W64 → Prop} {C : List Host.Cell → Prop} (f : State → α → State)
    (h : ∀ s x, Good K U A T C (view s) → Good K U A T C (view (f s x))) (l : List α) (s : State) (hs : Good K U A T C (view s)) :
    Good K U A T C (view (l.foldl f s)) := by
  induction l generalizing s with
  | nil => exact hs
  | cons x t ih => exact ih _ (h s x hs)

theorem good_foldl_snd {α β : Type} {K : List Instr} {U : Fuses} {A : Staged → Prop} {T : W64 → Prop} {C : List Host.Cell → Prop} (f : β × State → α → β × State)
    (h : ∀ a x, Good K U A T C (view a.2) → Good K U A T C (view (f a x).2)) (l : List α) (a : β × State) (hs : Good K U A T C (view a.2)) :
    Good K U A T C (view (l.foldl f a).2) := by
  induction l generalizing a with
  | nil => exact hs
  | cons x t ih => exact ih _ (h a x hs)

@[simp ↓] theorem good_write_host {K : List Instr} {U : Fuses} {A : Staged → Prop} {T : W64 → Prop} {C : List Host.Cell → Prop} {s : State} (a : Nat) (bs : List Byte) (h : Good K U A T C (view s)) :
    Good K U A T C ⟨s.pending, s.fuses, s.act, s.clk.count, s.mem.cells, Memory.write s.host a bs⟩ :=
  ⟨h.1, h.2.1, h.2.2.1, h.2.2.2.1, h.2.2.2.2.1, Memory.wf_write a bs h.2.2.2.2.2⟩

@[simp ↓] theorem good_stores_host {K : List Instr} {U : Fuses} {A : Staged → Prop} {T : W64 → Prop} {C : List Host.Cell → Prop} {s : State} (cs : List Host.Cell) (h : Good K U A T C (view s)) :
    Good K U A T C ⟨s.pending, s.fuses, s.act, s.clk.count, s.mem.cells, Memory.stores s.host cs⟩ :=
  ⟨h.1, h.2.1, h.2.2.1, h.2.2.2.1, h.2.2.2.2.1, Memory.wf_stores cs h.2.2.2.2.2⟩

@[simp ↓] theorem good_write_cells {K : List Instr} {U : Fuses} {A : Staged → Prop} {T : W64 → Prop} {s : State} (a : Nat) (bs : List Byte) (h : Good K U A T Canon (view s)) :
    Good K U A T Canon ⟨s.pending, s.fuses, s.act, s.clk.count, Memory.write s.mem.cells a bs, s.host⟩ :=
  ⟨h.1, h.2.1, h.2.2.1, h.2.2.2.1, Memory.wf_write a bs h.2.2.2.2.1, h.2.2.2.2.2⟩

@[simp ↓] theorem good_set_cells {K : List Instr} {U : Fuses} {A : Staged → Prop} {T : W64 → Prop} {s : State} (a : Nat) (b : Byte) (h : Good K U A T Canon (view s)) :
    Good K U A T Canon ⟨s.pending, s.fuses, s.act, s.clk.count, Memory.set s.mem.cells a b, s.host⟩ :=
  ⟨h.1, h.2.1, h.2.2.1, h.2.2.2.1, Memory.wf_set a b h.2.2.2.2.1, h.2.2.2.2.2⟩

@[simp ↓] theorem good_move_cells {K : List Instr} {U : Fuses} {A : Staged → Prop} {T : W64 → Prop} {s : State} (f : Host.Cell → Bool) (cs : List Host.Cell)
    (h : Good K U A T Canon (view s)) : Good K U A T Canon ⟨s.pending, s.fuses, s.act, s.clk.count, Memory.stores (s.mem.cells.filter f) cs, s.host⟩ :=
  ⟨h.1, h.2.1, h.2.2.1, h.2.2.2.1, Memory.wf_stores cs (Memory.wf_filter f h.2.2.2.2.1), h.2.2.2.2.2⟩

@[simp ↓] theorem good_filter_cells {K : List Instr} {U : Fuses} {A : Staged → Prop} {T : W64 → Prop} {s : State} (f : Host.Cell → Bool)
    (h : Good K U A T Canon (view s)) : Good K U A T Canon ⟨s.pending, s.fuses, s.act, s.clk.count, s.mem.cells.filter f, s.host⟩ :=
  ⟨h.1, h.2.1, h.2.2.1, h.2.2.2.1, Memory.wf_filter f h.2.2.2.2.1, h.2.2.2.2.2⟩

@[simp ↓] theorem good_act {K : List Instr} {U : Fuses} {T : W64 → Prop} {C : List Host.Cell → Prop} {s : State} (a : Staged) (h : Good K U AnyRegs T C (view s)) :
    Good K U AnyRegs T C ⟨s.pending, s.fuses, a, s.clk.count, s.mem.cells, s.host⟩ := ⟨h.1, h.2.1, trivial, h.2.2.2⟩

@[simp ↓] theorem good_count {K : List Instr} {U : Fuses} {A : Staged → Prop} {C : List Host.Cell → Prop} {s : State} (t : W64)
    (ht : Eights t) (h : Good K U A Eights C (view s)) : Good K U A Eights C ⟨s.pending, s.fuses, s.act, t, s.mem.cells, s.host⟩ :=
  ⟨h.1, h.2.1, h.2.2.1, ht, h.2.2.2.2⟩

theorem good_drop_cells {K : List Instr} {U : Fuses} {s : State} (a : Staged) (t : W64) (ht : Eights t)
    (h : Good K U AnyRegs Eights Canon (view s)) : Good K U AnyRegs Eights Canon ⟨s.pending, s.fuses, a, t, [], s.host⟩ :=
  ⟨h.1, h.2.1, trivial, ht, rfl, h.2.2.2.2.2⟩

theorem good_foldl_tri {α β γ : Type} {K : List Instr} {U : Fuses} {A : Staged → Prop} {T : W64 → Prop} {C : List Host.Cell → Prop} (f : β × γ × State → α → β × γ × State)
    (h : ∀ a x, Good K U A T C (view a.2.2) → Good K U A T C (view (f a x).2.2)) (l : List α) (a : β × γ × State) (hs : Good K U A T C (view a.2.2)) :
    Good K U A T C (view (l.foldl f a).2.2) := by
  induction l generalizing a with
  | nil => exact hs
  | cons x t ih => exact ih _ (h a x hs)

end Sys2Proof.Machine
end

