-- ==== Sys2Proof/Laws/Frame.lean ====
section
/-!
SUPPORT. Frame laws: one lemma for each function of the model that gives a state. `f_view`: f changes no part of the view. `f_good`: f leaves the queue and the fuses, keeps host memory canonical, and keeps whatever
holds of the active registers (except where it says `AnyRegs`: f is a reset or an edge at which a group applies), of the time base
(except `Eights`: f moves time, which stays a multiple of 8) and of the cells of device memory (except `Canon`: f writes device memory,
which stays canonical).
-/
set_option linter.unusedTactic false
set_option linter.unreachableTactic false
set_option linter.unusedSimpArgs false
namespace Sys2Proof.Machine

@[simp ↓] theorem hostWrite_good {K : List Instr} {U : Fuses} {A : Staged → Prop} {T : W64 → Prop} {C : List Host.Cell → Prop} (s : State) (a : Nat) (bs : List Byte) (h : Good K U A T C (view s)) : Good K U A T C (view (hostWrite s a bs)) := by
  simp [hostWrite, h]

@[simp ↓] theorem takeFree_view (s : State) : view (takeFree s).2 = view s := by simp [takeFree]

@[simp ↓] theorem emit_view (o : Output) (s : State) : view (emit o s) = view s := by simp [emit]

theorem eights_ofNat {n : Nat} (h : n % 8 = 0) : Eights (BitVec.ofNat 64 n) := by
  simp only [Eights, BitVec.toNat_ofNat]
  omega

@[simp ↓] theorem advanceTo_good {K : List Instr} {U : Fuses} {A : Staged → Prop} {C : List Host.Cell → Prop} (t : Nat) (s : State) (h : Good K U A Eights C (view s)) :
    Good K U A Eights C (view (advanceTo t s)) := by
  unfold advanceTo
  split
  · exact good_count (s := s) _ (eights_ofNat (by simp [roundUp])) h
  · exact h

@[simp ↓] theorem serveBg_view (i u : Nat) (s : State) : view (serveBg i u s) = view s := by simp [serveBg]

@[simp ↓] theorem count_view (slot : Nat) (n : Nat) (s : State) : view (count slot n s) = view s := by simp [count]

@[simp ↓] theorem crumbKeep_view (c : Crumb) (s : State) : view (crumbKeep c s) = view s := by simp [crumbKeep]

@[simp ↓] theorem crumbQueue_view (c : Crumb) (s : State) : view (crumbQueue c s) = view s := by simp [crumbQueue]

@[simp ↓] theorem crumbSkip_view (s : State) : view (crumbSkip s) = view s := by simp [crumbSkip]

@[simp ↓] theorem crumb_view (kind : Nat) (subject : Nat) (payload : W64) (s : State) : view (crumb kind subject payload s) = view s := by
  simp [crumb]

@[simp ↓] theorem crumbFlush1_view (s : State) : view (crumbFlush1 s) = view s := by
  unfold crumbFlush1
  split
  · rfl
  · rw [crumbSkip_view, view_mk]
    exact view_eta s

theorem view_iterate (f : State → State) (h : ∀ s, view (f s) = view s) (n : Nat) (s : State) : view (iterate f n s) = view s := by
  induction n generalizing s with
  | zero => rfl
  | succ n ih => rw [iterate, ih, h]

@[simp ↓] theorem crumbFlush_view (s : State) : view (crumbFlush s) = view s := view_iterate _ crumbFlush1_view _ s

@[simp ↓] theorem fifoPush_view (kind : Nat) (unit : Nat) (stage : Nat) (st : W64) (p2 : W64) (p3 : W64) (s : State) : view (fifoPush kind unit stage st p2 p3 s) = view s := by
  simp [fifoPush]

@[simp ↓] theorem fifoGap_view (s : State) : view (fifoGap s) = view s := by simp [fifoGap]

@[simp ↓] theorem fifoEnter_view (kind : Nat) (unit : Nat) (stage : Nat) (st : W64) (p2 : W64) (p3 : W64) (s : State) : view (fifoEnter kind unit stage st p2 p3 s) = view s := by
  simp [fifoEnter]

@[simp ↓] theorem eventRecord_good {K : List Instr} {U : Fuses} {A : Staged → Prop} {T : W64 → Prop} {C : List Host.Cell → Prop} (src : Nat) (st : W64) (payload : W64) (s : State) (h : Good K U A T C (view s)) : Good K U A T C (view (eventRecord src st payload s)) := by
  simp only [eventRecord]; repeat' (first | (simp [*]; done) | (refine good_foldl _ ?_ _ _ ?_) | (refine good_foldl_snd _ ?_ _ _ ?_) | split | intro _)

@[simp ↓] theorem setSource_view (src : Nat) (x : Source) (s : State) : view (setSource src x s) = view s := by simp [setSource]

@[simp ↓] theorem setVec_view (v : Nat) (x : Vec) (s : State) : view (setVec v x s) = view s := by simp [setVec]

@[simp ↓] theorem msixWrite_view (v : Nat) (s : State) : view (msixWrite v s) = view s := by simp [msixWrite]

@[simp ↓] theorem disarm_good {K : List Instr} {U : Fuses} {A : Staged → Prop} {T : W64 → Prop} {C : List Host.Cell → Prop} (v : Nat) (s : State) (h : Good K U A T C (view s)) : Good K U A T C (view (disarm v s)) := by
  simp [disarm, h]

@[simp ↓] theorem deliver_good {K : List Instr} {U : Fuses} {A : Staged → Prop} {T : W64 → Prop} {C : List Host.Cell → Prop} (v : Nat) (s : State) (h : Good K U A T C (view s)) : Good K U A T C (view (deliver v s)) := by
  simp only [deliver]; repeat' (first | (simp [*]; done) | (refine good_foldl _ ?_ _ _ ?_) | (refine good_foldl_snd _ ?_ _ _ ?_) | split | intro _)

@[simp ↓] theorem syncPba_view (v : Nat) (s : State) : view (syncPba v s) = view s := by
  simp [syncPba]

@[simp ↓] theorem checkVec_good {K : List Instr} {U : Fuses} {A : Staged → Prop} {T : W64 → Prop} {C : List Host.Cell → Prop} (v : Nat) (s : State) (h : Good K U A T C (view s)) : Good K U A T C (view (checkVec v s)) := by
  simp only [checkVec]; repeat' (first | (simp [*]; done) | (refine good_foldl _ ?_ _ _ ?_) | (refine good_foldl_snd _ ?_ _ _ ?_) | split | intro _)

@[simp ↓] theorem request_good {K : List Instr} {U : Fuses} {A : Staged → Prop} {T : W64 → Prop} {C : List Host.Cell → Prop} (v : Nat) (s : State) (h : Good K U A T C (view s)) : Good K U A T C (view (request v s)) := by
  simp [request, h]

@[simp ↓] theorem checkFast_view (src : Nat) (s : State) : view (checkFast src s) = view s := by simp [checkFast]

@[simp ↓] theorem hostPend_good {K : List Instr} {U : Fuses} {A : Staged → Prop} {T : W64 → Prop} {C : List Host.Cell → Prop} (src : Nat) (s : State) (h : Good K U A T C (view s)) : Good K U A T C (view (hostPend src s)) := by
  simp only [hostPend]; repeat' (first | (simp [*]; done) | (refine good_foldl _ ?_ _ _ ?_) | (refine good_foldl_snd _ ?_ _ _ ?_) | split | intro _)

@[simp ↓] theorem coreDeliver_view (s : State) : view (coreDeliver s) = view s := by simp only [coreDeliver]; (repeat' split) <;> simp

@[simp ↓] theorem coreService_view (s : State) : view (coreService s) = view s := by simp only [coreService]; (repeat' split) <;> simp

@[simp ↓] theorem raiseRoutes_good {K : List Instr} {U : Fuses} {A : Staged → Prop} {T : W64 → Prop} {C : List Host.Cell → Prop} (src : Nat) (s : State) (h : Good K U A T C (view s)) : Good K U A T C (view (raiseRoutes src s)) := by
  simp only [raiseRoutes]; repeat' (first | (simp [*]; done) | (refine good_foldl _ ?_ _ _ ?_) | (refine good_foldl_snd _ ?_ _ _ ?_) | split | intro _)

@[simp ↓] theorem raiseCore_good {K : List Instr} {U : Fuses} {A : Staged → Prop} {T : W64 → Prop} {C : List Host.Cell → Prop} (src : Nat) (st : W64) (payload : W64) (s : State) (h : Good K U A T C (view s)) : Good K U A T C (view (raiseCore src st payload s)) := by
  simp only [raiseCore]; repeat' (first | (simp [*]; done) | (refine good_foldl _ ?_ _ _ ?_) | (refine good_foldl_snd _ ?_ _ _ ?_) | split | intro _)

@[simp ↓] theorem latchEdge_view (src : Nat) (payload : W64) (s : State) : view (latchEdge src payload s) = view s := by
  simp [latchEdge]

@[simp ↓] theorem raiseTrigger_good {K : List Instr} {U : Fuses} {A : Staged → Prop} {T : W64 → Prop} {C : List Host.Cell → Prop} (st payload : W64) (s : State) (h : Good K U A T C (view s)) : Good K U A T C (view (raiseTrigger st payload s)) := by
  simp only [raiseTrigger]; repeat' (first | (simp (maxDischargeDepth := 99) [h, *]; done) | (refine good_foldl _ ?_ _ _ ?_) | (refine good_foldl_snd _ ?_ _ _ ?_) | (refine good_foldl_tri _ ?_ _ _ ?_) | split | intro _)

@[simp ↓] theorem trigger_good {K : List Instr} {U : Fuses} {A : Staged → Prop} {T : W64 → Prop} {C : List Host.Cell → Prop} (cause : Nat) (what : Nat) (s : State) (h : Good K U A T C (view s)) : Good K U A T C (view (trigger cause what s)) := by
  simp only [trigger]; repeat' (first | (simp [*]; done) | (refine good_foldl _ ?_ _ _ ?_) | (refine good_foldl_snd _ ?_ _ _ ?_) | split | intro _)

@[simp ↓] theorem traceAt_good {K : List Instr} {U : Fuses} {A : Staged → Prop} {T : W64 → Prop} {C : List Host.Cell → Prop} (st : W64) (kind : Nat) (unit : Nat) (stage : Nat) (p2 : W64) (p3 : W64) (s : State) (h : Good K U A T C (view s)) : Good K U A T C (view (traceAt st kind unit stage p2 p3 s)) := by
  simp only [traceAt]; repeat' (first | (simp [*]; done) | (refine good_foldl _ ?_ _ _ ?_) | (refine good_foldl_snd _ ?_ _ _ ?_) | split | intro _)

@[simp ↓] theorem trace_good {K : List Instr} {U : Fuses} {A : Staged → Prop} {T : W64 → Prop} {C : List Host.Cell → Prop} (kind : Nat) (unit : Nat) (stage : Nat) (p2 : W64) (p3 : W64) (s : State) (h : Good K U A T C (view s)) : Good K U A T C (view (trace kind unit stage p2 p3 s)) := by
  simp [trace, h]

@[simp ↓] theorem raiseNow_good {K : List Instr} {U : Fuses} {A : Staged → Prop} {T : W64 → Prop} {C : List Host.Cell → Prop} (src : Nat) (st : W64) (payload : W64) (s : State) (h : Good K U A T C (view s)) : Good K U A T C (view (raiseNow src st payload s)) := by
  simp only [raiseNow]; repeat' (first | (simp (maxDischargeDepth := 99) [h, *]; done) | (refine good_foldl _ ?_ _ _ ?_) | (refine good_foldl_snd _ ?_ _ _ ?_) | split | intro _)

@[simp ↓] theorem raise_good {K : List Instr} {U : Fuses} {A : Staged → Prop} {T : W64 → Prop} {C : List Host.Cell → Prop} (src : Nat) (payload : W64) (s : State) (h : Good K U A T C (view s)) : Good K U A T C (view (raise src payload s)) := by
  simp only [raise]; repeat' (first | (simp (maxDischargeDepth := 99) [h, *]; done) | (refine good_foldl _ ?_ _ _ ?_) | (refine good_foldl_snd _ ?_ _ _ ?_) | split | intro _)

@[simp ↓] theorem tagRecord_good {K : List Instr} {U : Fuses} {A : Staged → Prop} {T : W64 → Prop} {C : List Host.Cell → Prop} (st tag : W64) (s : State) (h : Good K U A T C (view s)) : Good K U A T C (view (tagRecord st tag s)) := by
  simp only [tagRecord]; repeat' (first | (simp (maxDischargeDepth := 99) [h, *]; done) | (refine good_foldl _ ?_ _ _ ?_) | (refine good_foldl_snd _ ?_ _ _ ?_) | (refine good_foldl_tri _ ?_ _ _ ?_) | split | intro _)

@[simp ↓] theorem raiseTag_good {K : List Instr} {U : Fuses} {A : Staged → Prop} {T : W64 → Prop} {C : List Host.Cell → Prop} (tile : Nat) (tag : W64) (s : State) (h : Good K U A T C (view s)) : Good K U A T C (view (raiseTag tile tag s)) := by
  have hl : view (latchEdge 0x01 (at' 64 32 tile) s) = view s := latchEdge_view _ _ s
  simp only [raiseTag]
  split
  · simp (maxDischargeDepth := 99) [h]
  · rw [view_mk, view_eta, hl]
    exact h

@[simp ↓] theorem assertLevel_good {K : List Instr} {U : Fuses} {A : Staged → Prop} {T : W64 → Prop} {C : List Host.Cell → Prop} (src : Nat) (payload : W64) (s : State) (h : Good K U A T C (view s)) : Good K U A T C (view (assertLevel src payload s)) := by
  simp only [assertLevel]; repeat' (first | (simp (maxDischargeDepth := 99) [h, *]; done) | (refine good_foldl _ ?_ _ _ ?_) | (refine good_foldl_snd _ ?_ _ _ ?_) | split | intro _)

@[simp ↓] theorem deassertLevel_view (src : Nat) (s : State) : view (deassertLevel src s) = view s := by simp [deassertLevel]

@[simp ↓] theorem releaseEdge_good {K : List Instr} {U : Fuses} {A : Staged → Prop} {T : W64 → Prop} {C : List Host.Cell → Prop} (src : Nat) (st payload : W64) (s : State) (h : Good K U A T C (view s)) : Good K U A T C (view (releaseEdge src st payload s)) := by
  simp only [releaseEdge]; repeat' (first | (simp (maxDischargeDepth := 99) [h, *]; done) | (refine good_foldl _ ?_ _ _ ?_) | (refine good_foldl_snd _ ?_ _ _ ?_) | (refine good_foldl_tri _ ?_ _ _ ?_) | split | intro _)

@[simp ↓] theorem releaseLatches_good {K : List Instr} {U : Fuses} {A : Staged → Prop} {T : W64 → Prop} {C : List Host.Cell → Prop} (s : State) (h : Good K U A T C (view s)) : Good K U A T C (view (releaseLatches s)) := by
  simp only [releaseLatches]; repeat' (first | (simp (maxDischargeDepth := 99) [h, *]; done) | (refine good_foldl _ ?_ _ _ ?_) | (refine good_foldl_snd _ ?_ _ _ ?_) | split | intro _)

@[simp ↓] theorem deliverAll_good {K : List Instr} {U : Fuses} {A : Staged → Prop} {T : W64 → Prop} {C : List Host.Cell → Prop} (s : State) (h : Good K U A T C (view s)) : Good K U A T C (view (deliverAll s)) := by
  simp only [deliverAll]; repeat' (first | (simp [*]; done) | (refine good_foldl _ ?_ _ _ ?_) | (refine good_foldl_snd _ ?_ _ _ ?_) | split | intro _)

@[simp ↓] theorem freeFast_view (src : Nat) (s : State) : view (freeFast src s) = view s := by
  simp [freeFast]

@[simp ↓] theorem complete_good {K : List Instr} {U : Fuses} {A : Staged → Prop} {T : W64 → Prop} {C : List Host.Cell → Prop} (fastBank : Bool) (src : Nat) (s : State) (h : Good K U A T C (view s)) : Good K U A T C (view (complete fastBank src s)) := by
  simp only [complete]; repeat' (first | (simp [*]; done) | (refine good_foldl _ ?_ _ _ ?_) | (refine good_foldl_snd _ ?_ _ _ ?_) | split | intro _)

@[simp ↓] theorem liveIgnored_good {K : List Instr} {U : Fuses} {A : Staged → Prop} {T : W64 → Prop} {C : List Host.Cell → Prop} (offset : Nat) (s : State) (h : Good K U A T C (view s)) : Good K U A T C (view (liveIgnored offset s)) := by
  simp (maxDischargeDepth := 99) [liveIgnored, h]

@[simp ↓] theorem badAddr_view (s : State) : view (badAddr s) = view s := by simp [badAddr]

@[simp ↓] theorem snoopLine_view (l : Nat) (s : State) : view (snoopLine l s) = view s := by simp [snoopLine]

@[simp ↓] theorem touchLine_view (l : Nat) (s : State) : view (touchLine l s) = view s := by simp [touchLine]

@[simp ↓] theorem touch_view (a : Nat) (n : Nat) (s : State) : view (touch a n s) = view s := by simp [touch]

@[simp ↓] theorem devRead_view (a : Nat) (n : Nat) (s : State) : view (devRead a n s).2.2 = view s := by simp [devRead]

@[simp ↓] theorem markDirty_view (a : Nat) (n : Nat) (s : State) : view (markDirty a n s) = view s := by simp [markDirty]

@[simp ↓] theorem devWriteLine_good {K : List Instr} {U : Fuses} {A : Staged → Prop} {T : W64 → Prop} (a : Nat) (bs : List Byte) (s : State) (h : Good K U A T Canon (view s)) : Good K U A T Canon (view (devWriteLine a bs s)) := by
  simp only [devWriteLine]; repeat' (first | (simp [*]; done) | (refine good_foldl _ ?_ _ _ ?_) | (refine good_foldl_snd _ ?_ _ _ ?_) | split | intro _)

@[simp ↓] theorem devWrite_good {K : List Instr} {U : Fuses} {A : Staged → Prop} {T : W64 → Prop} (a : Nat) (bs : List Byte) (s : State) (h : Good K U A T Canon (view s)) : Good K U A T Canon (view (devWrite a bs s)) := by
  simp only [devWrite]; repeat' (first | (simp [*]; done) | (refine good_foldl _ ?_ _ _ ?_) | (refine good_foldl_snd _ ?_ _ _ ?_) | split | intro _)

@[simp ↓] theorem snoopWhere_view (hit : Nat → Bool) (s : State) : view (snoopWhere hit s) = view s := by
  simp [snoopWhere]

@[simp ↓] theorem devPoisonRange_view (a : Nat) (n : Nat) (s : State) : view (devPoisonRange a n s) = view s := by
  simp [devPoisonRange]

@[simp ↓] theorem onStep_view (f : OpenStep → OpenStep) (s : State) : view (onStep f s) = view s := by
  unfold onStep; (repeat' split) <;> simp

@[simp ↓] theorem replayDiffers_view (sec : Nat) (entry : Nat) (s : State) : view (replayDiffers sec entry s) = view s := by
  unfold replayDiffers; (repeat' split) <;> (try rw [onStep_view]) <;> simp

@[simp ↓] theorem formDigest_view (kind : Nat) (id : Nat) (micro : Nat) (beat : Nat) (bs : List Byte) (elems : Nat) (s : State) : view (formDigest kind id micro beat bs elems s) = view s := by
  unfold formDigest; (repeat' split) <;> (try rw [onStep_view]) <;> simp

@[simp ↓] theorem setRing_view (q : Nat) (r : Ring) (s : State) : view (setRing q r s) = view s := by simp [setRing]

@[simp ↓] theorem setCtx_view (c : Nat) (x : Ctx) (s : State) : view (setCtx c x s) = view s := by simp [setCtx]

@[simp ↓] theorem setSync_view (i : Nat) (x : SyncObj) (s : State) : view (setSync i x s) = view s := by simp [setSync]

@[simp ↓] theorem voteStepBit_view (s : State) : view (voteStepBit s) = view s := by
  simp [voteStepBit]

@[simp ↓] theorem voteSlot_view (slot : Nat) (s : State) : view (voteSlot slot s) = view s := by
  unfold voteSlot; (repeat' split) <;> simp

@[simp ↓] theorem voteNonfinite_view (slot : Nat) (s : State) : view (voteNonfinite slot s) = view s := by
  simp [voteNonfinite]

@[simp ↓] theorem voteOfStatus_view (q : Nat) (op : Nat) (st : Byte) (s : State) : view (voteOfStatus q op st s) = view s := by
  unfold voteOfStatus; (repeat' split) <;> simp

@[simp ↓] theorem addCmd_view (q : Nat) (c : Cmd) (s : State) : view (addCmd q c s) = view s := by
  simp [addCmd]

@[simp ↓] theorem fetchDesc_view (q : Nat) (d : Desc) (s : State) : view (fetchDesc q d s) = view s := by
  simp only [fetchDesc]; split <;> simp

@[simp ↓] theorem ringError_view (q : Nat) (s : State) : view (ringError q s) = view s := by simp [ringError]

@[simp ↓] theorem doorbellRing_good {K : List Instr} {U : Fuses} {A : Staged → Prop} {T : W64 → Prop} {C : List Host.Cell → Prop} (q : Nat) (s : State) (h : Good K U A T C (view s)) : Good K U A T C (view (doorbellRing q s)) := by
  simp only [doorbellRing]; repeat' (first | (simp (maxDischargeDepth := 99) [h, *]; done) | (refine good_foldl _ ?_ _ _ ?_) | (refine good_foldl_snd _ ?_ _ _ ?_) | split | intro _)

@[simp ↓] theorem takeLine_good {K : List Instr} {U : Fuses} {A : Staged → Prop} {T : W64 → Prop} {C : List Host.Cell → Prop} (a : Nat) (s : State) (h : Good K U A T C (view s)) : Good K U A T C (view (takeLine a s).2) := by
  simp [takeLine, h]

@[simp ↓] theorem doorbellLine_good {K : List Instr} {U : Fuses} {A : Staged → Prop} {T : W64 → Prop} {C : List Host.Cell → Prop} (line : Nat) (s : State) (h : Good K U A T C (view s)) : Good K U A T C (view (doorbellLine line s)) := by
  simp only [doorbellLine]; repeat' (first | (simp (maxDischargeDepth := 99) [h, *]; done) | (refine good_foldl _ ?_ _ _ ?_) | (refine good_foldl_snd _ ?_ _ _ ?_) | split | intro _)

@[simp ↓] theorem fetchOne_view (q : Nat) (s : State) : view (fetchOne q s) = view s := by
  simp only [fetchOne]; split <;> simp

@[simp ↓] theorem fetchServe_view (k n : Nat) (s : State) : view (fetchServe k n s) = view s := by
  induction n generalizing s with
  | zero => rfl
  | succ n ih => simp only [fetchServe]; split <;> simp [ih]

@[simp ↓] theorem fetchRound_view (s : State) : view (fetchRound s) = view s := by simp [fetchRound]

@[simp ↓] theorem fetchRounds_view (n : Nat) (s : State) : view (fetchRounds n s) = view s := by
  induction n generalizing s with
  | zero => rfl
  | succ n ih => simp only [fetchRounds]; split <;> simp [ih]

@[simp ↓] theorem fetchAll_view (s : State) : view (fetchAll s) = view s := by
  simp only [fetchAll]; split <;> simp

@[simp ↓] theorem setCmd_view (q : Nat) (i : W32) (f : Cmd → Cmd) (s : State) : view (setCmd q i f s) = view s := by simp [setCmd]

@[simp ↓] theorem finish_view (q : Nat) (c : Cmd) (r : Result) (s : State) : view (finish q c r s) = view s := by simp [finish]

@[simp ↓] theorem setPhase_view (q : Nat) (c : Cmd) (p : Phase) (s : State) : view (setPhase q c p s) = view s := by
  unfold setPhase; (repeat' split) <;> simp

theorem fetchNow_view {q : Nat} {d : Desc} {s s' : State} {c : Cmd} (h : fetchNow q d s = some (c, s')) : view s' = view s := by
  simp only [fetchNow] at h
  split at h
  · simp only [Option.map_eq_some_iff] at h
    obtain ⟨x, -, hx⟩ := h
    cases hx
    simp
  · cases h

theorem offer_view {q : Nat} {d : Desc} {s s' : State} {c : Cmd} (h : offer q d s = some (c, s')) : view s' = view s := by
  simp only [offer] at h
  repeat' split at h
  all_goals first | (cases h; rfl) | (cases h; done) | exact fetchNow_view h

@[simp ↓] theorem waitTrackers_view (s : State) : view (waitTrackers s) = view s := by
  simp [waitTrackers]

@[simp ↓] theorem traceStart_good {K : List Instr} {U : Fuses} {A : Staged → Prop} {T : W64 → Prop} {C : List Host.Cell → Prop} (q : Nat) (r : Ring) (c : Cmd) (s : State) (h : Good K U A T C (view s)) : Good K U A T C (view (traceStart q r c s)) := by
  simp [traceStart, h]

@[simp ↓] theorem digestInputs_view (r : Ring) (c : Cmd) (s : State) : view (digestInputs r c s) = view s := by simp only [digestInputs]; (repeat' (first | rfl | split | (refine view_foldl_to _ _ _ ?_ ?_) | (refine view_foldl_snd_to _ _ _ ?_ ?_) | intro _)); all_goals simp

/-- The body of a command keeps what the frame laws follow. -/
def Meaning.Good (m : Meaning) (K : List Instr) (U : Fuses) (A : Staged → Prop) (T : W64 → Prop) (C : List Host.Cell → Prop) : Prop :=
  ∀ q r c s, Machine.Good K U A T C (view s) → Machine.Good K U A T C (view (m.body q r c s).2)

theorem startCmd_good {K : List Instr} {U : Fuses} {A : Staged → Prop} {T : W64 → Prop} {C : List Host.Cell → Prop} (m : Meaning) (hm : m.Good K U A T C) (q : Nat) (c : Cmd) (s : State) (h : Good K U A T C (view s)) :
    Good K U A T C (view (startCmd m q c s)) := by
  have hb := hm q (ringOf s q) c s h
  simp only [startCmd]
  repeat' (first | (simp (maxDischargeDepth := 99) [*]; done) | split)

theorem runCmd_good {K : List Instr} {U : Fuses} {A : Staged → Prop} {T : W64 → Prop} {C : List Host.Cell → Prop} (op : Nat) (m : Meaning) (hm : m.Good K U A T C) (q : Nat) (d : Desc) (s : State)
    (h : Good K U A T C (view s)) : Good K U A T C (view (runCmd op m q d s)) := by
  simp only [runCmd]
  split
  · exact h
  · split
    · exact h
    · rename_i c s' hc
      have hs : view s' = view s := offer_view hc
      split
      · exact startCmd_good m hm q c s' (hs ▸ h)
      · exact hs ▸ h

@[simp ↓] theorem wakeRing_view (q : Nat) (s : State) : view (wakeRing q s) = view s := by
  simp only [wakeRing]; (repeat' (first | rfl | split | (refine view_foldl_to _ _ _ ?_ ?_) | (refine view_foldl_snd_to _ _ _ ?_ ?_) | intro _)); all_goals simp

@[simp ↓] theorem wakeWaits_view (s : State) : view (wakeWaits s) = view s := by simp [wakeWaits]

@[simp ↓] theorem putSync_view (i : Nat) (x : SyncObj) (s : State) : view (putSync i x s) = view s := by simp [putSync]

@[simp ↓] theorem cqError_view (ctx : Nat) (s : State) : view (cqError ctx s) = view s := by simp [cqError]

@[simp ↓] theorem traceDone_good {K : List Instr} {U : Fuses} {A : Staged → Prop} {T : W64 → Prop} {C : List Host.Cell → Prop} (r : Ring) (c : Cmd) (x : Result) (s : State) (h : Good K U A T C (view s)) : Good K U A T C (view (traceDone r c x s)) := by
  simp [traceDone, h]

@[simp ↓] theorem popCmd_view (q : Nat) (s : State) : view (popCmd q s) = view s := by simp [popCmd]

@[simp ↓] theorem completeHead_good {K : List Instr} {U : Fuses} {A : Staged → Prop} {T : W64 → Prop} {C : List Host.Cell → Prop} (q : Nat) (s : State) (h : Good K U A T C (view s)) : Good K U A T C (view (completeHead q s).2) := by
  simp only [completeHead]; repeat' (first | (simp (maxDischargeDepth := 99) [h, *]; done) | (refine good_foldl _ ?_ _ _ ?_) | (refine good_foldl_snd _ ?_ _ _ ?_) | split | intro _)

@[simp ↓] theorem drainRing_good {K : List Instr} {U : Fuses} {A : Staged → Prop} {T : W64 → Prop} {C : List Host.Cell → Prop} (q : Nat) (n : Nat) (s : State) (h : Good K U A T C (view s)) :
    Good K U A T C (view (drainRing q n s)) := by
  induction n generalizing s with
  | zero => exact h
  | succ n ih =>
    have hc := completeHead_good q s h
    simp only [drainRing]
    split <;> rename_i s' he <;> rw [he] at hc
    · exact ih s' hc
    · exact hc

@[simp ↓] theorem poisonStageOut_view (stage : Nat) (beat : Nat) (s : State) : view (poisonStageOut stage beat s) = view s := by
  simp [poisonStageOut]

@[simp ↓] theorem abortVote_view (c : Cmd) (s : State) : view (abortVote c s) = view s := by unfold abortVote; (repeat' split) <;> simp

@[simp ↓] theorem closeStep_view (n : W64) (discarded : Bool) (slots : BitVec 16384) (s : State) : view (closeStep n discarded slots s) = view s := by
  simp [closeStep]

@[simp ↓] theorem dropStaged_view (s : State) : view (dropStaged s) = view s := by simp [dropStaged]

@[simp ↓] theorem abortCommit_view (c : Cmd) (s : State) : view (abortCommit c s) = view s := by
  unfold abortCommit; (repeat' split) <;> simp

@[simp ↓] theorem abortCmd_view (q : Nat) (c : Cmd) (s : State) : view (abortCmd q c s) = view s := by simp [abortCmd]

@[simp ↓] theorem fetchRest_view (q : Nat) (x1 : Nat) (x2 : State) : view (fetchRest q x1 x2) = view x2 := by
  induction x1 generalizing x2 <;> simp only [fetchRest] <;> (repeat' split) <;> simp_all

theorem view_abortCmds (q : Nat) (keep : Option W32) (l : List Cmd) (s : State) :
    view (l.foldl (fun s c => if keep = some c.index then s else abortCmd q c s) s) = view s :=
  view_foldl _ (fun s c => by split <;> simp) l s

@[simp ↓] theorem abortTail_view (q : Nat) (s : State) : view (abortTail q s) = view s := by
  simp only [abortTail]; (repeat' split) <;> simp

@[simp ↓] theorem abortRing_good {K : List Instr} {U : Fuses} {A : Staged → Prop} {T : W64 → Prop} {C : List Host.Cell → Prop} (keep : Option W32) (q : Nat) (s : State) (h : Good K U A T C (view s)) : Good K U A T C (view (abortRing keep q s)) := by
  simp only [abortRing]
  have hv : view ((ringOf (abortTail q s) q).cmds.foldl (fun s c => if keep = some c.index then s else abortCmd q c s) (abortTail q s)) = view s := by
    rw [view_abortCmds, abortTail_view]
  split
  · apply drainRing_good
    rw [setRing_view, hv]
    exact h
  · rw [setRing_view, hv]
    exact h

@[simp ↓] theorem abortContext_good {K : List Instr} {U : Fuses} {A : Staged → Prop} {T : W64 → Prop} {C : List Host.Cell → Prop} (ctx : Nat) (self : Option (Nat × W32)) (s : State)
    (h : Good K U A T C (view s)) : Good K U A T C (view (abortContext ctx self s)) := by
  unfold abortContext
  refine good_foldl _ (fun s q hs => ?_) _ _ h
  split
  · exact abortRing_good _ q s hs
  · exact hs

@[simp ↓] theorem setPort_view (p : Nat) (x : Port) (s : State) : view (setPort p x s) = view s := by simp [setPort]

@[simp ↓] theorem setDetours_view (s : State) : view (setDetours s) = view s := by simp [setDetours]

@[simp ↓] theorem portLevel_good {K : List Instr} {U : Fuses} {A : Staged → Prop} {T : W64 → Prop} {C : List Host.Cell → Prop} (s : State) (h : Good K U A T C (view s)) : Good K U A T C (view (portLevel s)) := by
  simp only [portLevel]; repeat' (first | (simp (maxDischargeDepth := 99) [h, *]; done) | (refine good_foldl _ ?_ _ _ ?_) | (refine good_foldl_snd _ ?_ _ _ ?_) | split | intro _)

@[simp ↓] theorem sayIdle_view (p : Nat) (syms : List W64) (s : State) : view (sayIdle p syms s) = view s := by simp [sayIdle]

@[simp ↓] theorem slotBegan_good {K : List Instr} {U : Fuses} {A : Staged → Prop} {T : W64 → Prop} {C : List Host.Cell → Prop} (p : Nat) (s : State) (o : Outgoing) (h : Good K U A T C (view s)) : Good K U A T C (view (slotBegan p s o)) := by
  simp only [slotBegan]; repeat' (first | (simp (maxDischargeDepth := 99) [h, *]; done) | (refine good_foldl _ ?_ _ _ ?_) | (refine good_foldl_snd _ ?_ _ _ ?_) | (refine good_foldl_tri _ ?_ _ _ ?_) | split | intro _)

@[simp ↓] theorem slotEnded_view (p : Nat) (s : State) (o : Outgoing) : view (slotEnded p s o) = view s := by simp [slotEnded]

@[simp ↓] theorem sendFlit_good {K : List Instr} {U : Fuses} {A : Staged → Prop} {T : W64 → Prop} {C : List Host.Cell → Prop} (p : Nat) (s : State) (h : Good K U A T C (view s)) : Good K U A T C (view (sendFlit p s)) := by
  simp only [sendFlit]; repeat' (first | (simp (maxDischargeDepth := 99) [h, *]; done) | (refine good_foldl _ ?_ _ _ ?_) | (refine good_foldl_snd _ ?_ _ _ ?_) | (refine good_foldl_tri _ ?_ _ _ ?_) | split | intro _)

@[simp ↓] theorem pump_good {K : List Instr} {U : Fuses} {A : Staged → Prop} {T : W64 → Prop} {C : List Host.Cell → Prop} (p : Nat) (x1 : Nat) (x2 : State) (h : Good K U A T C (view x2)) : Good K U A T C (view (pump p x1 x2)) := by
  induction x1 generalizing x2 <;> simp only [pump] <;> repeat' (first | (simp [*]; done) | (refine good_foldl _ ?_ _ _ ?_) | (refine good_foldl_snd _ ?_ _ _ ?_) | split | intro _)

@[simp ↓] theorem flushPort_good {K : List Instr} {U : Fuses} {A : Staged → Prop} {T : W64 → Prop} {C : List Host.Cell → Prop} (p : Nat) (s : State) (h : Good K U A T C (view s)) : Good K U A T C (view (flushPort p s)) := by
  simp [flushPort, h]

@[simp ↓] theorem oweSlots_good {K : List Instr} {U : Fuses} {A : Staged → Prop} {T : W64 → Prop} {C : List Host.Cell → Prop} (p vc : Nat) (second : Bool) (n : Nat) (s : State) (h : Good K U A T C (view s)) : Good K U A T C (view (oweSlots p vc second n s)) := by
  simp (maxDischargeDepth := 99) [oweSlots, h]

@[simp ↓] theorem oweArrived_good {K : List Instr} {U : Fuses} {A : Staged → Prop} {T : W64 → Prop} {C : List Host.Cell → Prop} (from_ : Option (Nat × Bool)) (vc n : Nat) (s : State) (h : Good K U A T C (view s)) : Good K U A T C (view (oweArrived from_ vc n s)) := by
  simp only [oweArrived]; repeat' (first | (simp (maxDischargeDepth := 99) [h, *]; done) | (refine good_foldl _ ?_ _ _ ?_) | (refine good_foldl_snd _ ?_ _ _ ?_) | (refine good_foldl_tri _ ?_ _ _ ?_) | split | intro _)

@[simp ↓] theorem queueOut_view (o : Outgoing) (s : State) : view (queueOut o s) = view s := by
  unfold queueOut; split <;> simp

@[simp ↓] theorem flushPorts_good {K : List Instr} {U : Fuses} {A : Staged → Prop} {T : W64 → Prop} {C : List Host.Cell → Prop} (s : State) (h : Good K U A T C (view s)) : Good K U A T C (view (flushPorts s)) := by
  simp only [flushPorts]; repeat' (first | (simp (maxDischargeDepth := 99) [h, *]; done) | (refine good_foldl _ ?_ _ _ ?_) | (refine good_foldl_snd _ ?_ _ _ ?_) | (refine good_foldl_tri _ ?_ _ _ ?_) | split | intro _)

@[simp ↓] theorem sendOut_good {K : List Instr} {U : Fuses} {A : Staged → Prop} {T : W64 → Prop} {C : List Host.Cell → Prop} (o : Outgoing) (s : State) (h : Good K U A T C (view s)) : Good K U A T C (view (sendOut o s)) := by
  simp only [sendOut]; repeat' (first | (simp [*]; done) | (refine good_foldl _ ?_ _ _ ?_) | (refine good_foldl_snd _ ?_ _ _ ?_) | split | intro _)

@[simp ↓] theorem takeOrder_view (s : State) : view (takeOrder s).2 = view s := by simp [takeOrder]

@[simp ↓] theorem sendPeer_good {K : List Instr} {U : Fuses} {A : Staged → Prop} {T : W64 → Prop} {C : List Host.Cell → Prop} (n k y : Nat) (m : Message) (s : State) (h : Good K U A T C (view s)) : Good K U A T C (view (sendPeer n k y m s)) := by
  simp (maxDischargeDepth := 99) [sendPeer, h]

@[simp ↓] theorem sendAs_good {K : List Instr} {U : Fuses} {A : Staged → Prop} {T : W64 → Prop} {C : List Host.Cell → Prop} (n dev : Nat) (m : Message) (s : State) (h : Good K U A T C (view s)) : Good K U A T C (view (sendAs n dev m s)) := by
  simp only [sendAs]; repeat' (first | (simp (maxDischargeDepth := 99) [h, *]; done) | (refine good_foldl _ ?_ _ _ ?_) | (refine good_foldl_snd _ ?_ _ _ ?_) | (refine good_foldl_tri _ ?_ _ _ ?_) | split | intro _)

@[simp ↓] theorem sendDown_good {K : List Instr} {U : Fuses} {A : Staged → Prop} {T : W64 → Prop} {C : List Host.Cell → Prop} (n dev : Nat) (m : Message) (s : State) (h : Good K U A T C (view s)) : Good K U A T C (view (sendDown n dev m s)) := by
  simp only [sendDown]; repeat' (first | (simp (maxDischargeDepth := 99) [h, *]; done) | (refine good_foldl _ ?_ _ _ ?_) | (refine good_foldl_snd _ ?_ _ _ ?_) | (refine good_foldl_tri _ ?_ _ _ ?_) | split | intro _)

@[simp ↓] theorem sendTo_good {K : List Instr} {U : Fuses} {A : Staged → Prop} {T : W64 → Prop} {C : List Host.Cell → Prop} (dev : Nat) (m : Message) (s : State) (h : Good K U A T C (view s)) : Good K U A T C (view (sendTo dev m s)) := by
  simp only [sendTo]; repeat' (first | (simp [*]; done) | (refine good_foldl _ ?_ _ _ ?_) | (refine good_foldl_snd _ ?_ _ _ ?_) | split | intro _)

@[simp ↓] theorem relayOut_good {K : List Instr} {U : Fuses} {A : Staged → Prop} {T : W64 → Prop} {C : List Host.Cell → Prop} (k y : Nat) (m : Message) (s : State) (h : Good K U A T C (view s)) : Good K U A T C (view (relayOut k y m s)) := by
  simp (maxDischargeDepth := 99) [relayOut, h]

@[simp ↓] theorem unroute_view (p : Nat) (r : List Outgoing × State) : view (unroute p r).2 = view r.2 := by simp [unroute]

@[simp ↓] theorem reroute_good {K : List Instr} {U : Fuses} {A : Staged → Prop} {T : W64 → Prop} {C : List Host.Cell → Prop} (s : State) (h : Good K U A T C (view s)) : Good K U A T C (view (reroute s)) := by
  simp only [reroute]; repeat' (first | (simp [*]; done) | (refine good_foldl _ ?_ _ _ ?_) | (refine good_foldl_snd _ ?_ _ _ ?_) | split | intro _)

@[simp ↓] theorem nextSeq_view (g : Nat) (s : State) : view (nextSeq g s).2 = view s := by simp [nextSeq]

@[simp ↓] theorem nextCmd_view (s : State) : view (nextCmd s).2 = view s := by simp [nextCmd]

@[simp ↓] theorem tell_good {K : List Instr} {U : Fuses} {A : Staged → Prop} {T : W64 → Prop} {C : List Host.Cell → Prop} (dst : Nat) (type : Nat) (ws : List Nat) (s : State) (h : Good K U A T C (view s)) : Good K U A T C (view (tell dst type ws s)) := by
  simp [tell, h]

@[simp ↓] theorem tellPorts_good {K : List Instr} {U : Fuses} {A : Staged → Prop} {T : W64 → Prop} {C : List Host.Cell → Prop} (s : State) (h : Good K U A T C (view s)) : Good K U A T C (view (tellPorts s)) := by
  simp only [tellPorts]; repeat' (first | (simp (maxDischargeDepth := 99) [h, *]; done) | (refine good_foldl _ ?_ _ _ ?_) | (refine good_foldl_snd _ ?_ _ _ ?_) | (refine good_foldl_tri _ ?_ _ _ ?_) | split | intro _)

@[simp ↓] theorem portState_good {K : List Instr} {U : Fuses} {A : Staged → Prop} {T : W64 → Prop} {C : List Host.Cell → Prop} (p : Nat) (st : PortState) (s : State) (h : Good K U A T C (view s)) : Good K U A T C (view (portState p st s)) := by
  simp (maxDischargeDepth := 99) [portState, h]

@[simp ↓] theorem sayIdentity_view (p : Nat) (s : State) : view (sayIdentity p s) = view s := by
  unfold sayIdentity; (repeat' split) <;> simp

@[simp ↓] theorem voteRetired_view (s : State) : view (voteRetired s) = view s := by unfold voteRetired; (repeat' split) <;> simp

@[simp ↓] theorem unitRetired_good {K : List Instr} {U : Fuses} {A : Staged → Prop} {T : W64 → Prop} {C : List Host.Cell → Prop} (cls : Nat) (idx : Nat) (cause : Nat) (s : State) (h : Good K U A T C (view s)) : Good K U A T C (view (unitRetired cls idx cause s)) := by
  simp (maxDischargeDepth := 99) [unitRetired, h]

@[simp ↓] theorem retireUnit_good {K : List Instr} {U : Fuses} {A : Staged → Prop} {T : W64 → Prop} {C : List Host.Cell → Prop} (cls : Nat) (idx : Nat) (cause : Nat) (s : State) (h : Good K U A T C (view s)) : Good K U A T C (view (retireUnit cls idx cause s)) := by
  simp only [retireUnit]; repeat' (first | (simp (maxDischargeDepth := 99) [h, *]; done) | (refine good_foldl _ ?_ _ _ ?_) | (refine good_foldl_snd _ ?_ _ _ ?_) | split | intro _)

@[simp ↓] theorem flashRetire_view (cls : Nat) (idx : Nat) (cause : Nat) (s : State) : view (flashRetire cls idx cause s) = view s := by
  simp [flashRetire]

@[simp ↓] theorem condemn_good {K : List Instr} {U : Fuses} {A : Staged → Prop} {T : W64 → Prop} {C : List Host.Cell → Prop} (cls : Nat) (idx : Nat) (cause : Nat) (s : State) (h : Good K U A T C (view s)) : Good K U A T C (view (condemn cls idx cause s)) := by
  simp only [condemn]; repeat' (first | (simp (maxDischargeDepth := 99) [h, *]; done) | (refine good_foldl _ ?_ _ _ ?_) | (refine good_foldl_snd _ ?_ _ _ ?_) | split | intro _)

@[simp ↓] theorem noteFault_view (cls : Nat) (idx : Nat) (cause : Nat) (window : Nat) (t : Nat) (s : State) : view (noteFault cls idx cause window t s).2 = view s := by
  simp [noteFault]

@[simp ↓] theorem addCorrection_good {K : List Instr} {U : Fuses} {A : Staged → Prop} {T : W64 → Prop} {C : List Host.Cell → Prop} (cls : Nat) (idx : Nat) (s : State) (h : Good K U A T C (view s)) : Good K U A T C (view (addCorrection cls idx s)) := by
  simp only [addCorrection]; repeat' (first | (simp (maxDischargeDepth := 99) [h, *]; done) | (refine good_foldl _ ?_ _ _ ?_) | (refine good_foldl_snd _ ?_ _ _ ?_) | split | intro _)

@[simp ↓] theorem nearPoison_good {K : List Instr} {U : Fuses} {A : Staged → Prop} {T : W64 → Prop} {C : List Host.Cell → Prop} (line : Nat) (s : State) (h : Good K U A T C (view s)) : Good K U A T C (view (nearPoison line s)) := by
  simp only [nearPoison]; repeat' (first | (simp (maxDischargeDepth := 99) [h, *]; done) | (refine good_foldl _ ?_ _ _ ?_) | (refine good_foldl_snd _ ?_ _ _ ?_) | split | intro _)

@[simp ↓] theorem farPoison_good {K : List Instr} {U : Fuses} {A : Staged → Prop} {T : W64 → Prop} {C : List Host.Cell → Prop} (line : Nat) (s : State) (h : Good K U A T C (view s)) : Good K U A T C (view (farPoison line s)) := by
  simp only [farPoison]; repeat' (first | (simp (maxDischargeDepth := 99) [h, *]; done) | (refine good_foldl _ ?_ _ _ ?_) | (refine good_foldl_snd _ ?_ _ _ ?_) | split | intro _)

@[simp ↓] theorem dropHeld_view (off : Nat) (size : Nat) (s : State) : view (dropHeld off size s) = view s := by
  unfold dropHeld; (repeat' split) <;> simp

@[simp ↓] theorem busWrite_view (off : Nat) (size : Nat) (s : State) : view (busWrite off size s).2 = view s := by simp [busWrite]

theorem onBus_good {K : List Instr} {U : Fuses} {A : Staged → Prop} {T : W64 → Prop} {C : List Host.Cell → Prop} (off : Nat) (size : Nat) (f : State → State)
    (hf : ∀ s, Good K U A T C (view s) → Good K U A T C (view (f s))) (s : State) (h : Good K U A T C (view s)) :
    Good K U A T C (view (onBus off size f s)) := by
  have hb := busWrite_view off size s
  simp only [onBus]
  split <;> rename_i s' he <;> rw [he] at hb
  · exact hf s' (hb ▸ h)
  · exact hb ▸ h

theorem onBus_view (off : Nat) (size : Nat) (f : State → State) (hf : ∀ s, view (f s) = view s) (s : State) :
    view (onBus off size f s) = view s := by
  have hb := busWrite_view off size s
  simp only [onBus]
  split <;> rename_i s' he <;> rw [he] at hb
  · rw [hf]; exact hb
  · exact hb

@[simp ↓] theorem setDomain_view (c : Nat) (d : Domain) (s : State) : view (setDomain c d s) = view s := by simp [setDomain]

@[simp ↓] theorem setLocked_good {K : List Instr} {U : Fuses} {A : Staged → Prop} {T : W64 → Prop} {C : List Host.Cell → Prop} (b : Bool) (s : State) (h : Good K U A T C (view s)) : Good K U A T C (view (setLocked b s)) := by
  simp only [setLocked]; repeat' (first | (simp (maxDischargeDepth := 99) [h, *]; done) | (refine good_foldl _ ?_ _ _ ?_) | (refine good_foldl_snd _ ?_ _ _ ?_) | (refine good_foldl_tri _ ?_ _ _ ?_) | split | intro _)

@[simp ↓] theorem loseLock_good {K : List Instr} {U : Fuses} {A : Staged → Prop} {T : W64 → Prop} {C : List Host.Cell → Prop} (s : State) (h : Good K U A T C (view s)) : Good K U A T C (view (loseLock s)) := by
  simp (maxDischargeDepth := 99) [loseLock, h]

@[simp ↓] theorem relock_good {K : List Instr} {U : Fuses} {A : Staged → Prop} {T : W64 → Prop} {C : List Host.Cell → Prop} (s : State) (h : Good K U A T C (view s)) : Good K U A T C (view (relock s)) := by
  simp only [relock]; repeat' (first | (simp (maxDischargeDepth := 99) [h, *]; done) | (refine good_foldl _ ?_ _ _ ?_) | (refine good_foldl_snd _ ?_ _ _ ?_) | (refine good_foldl_tri _ ?_ _ _ ?_) | split | intro _)

@[simp ↓] theorem noteClocks_good {K : List Instr} {U : Fuses} {A : Staged → Prop} {T : W64 → Prop} {C : List Host.Cell → Prop} (s : State) (h : Good K U A T C (view s)) : Good K U A T C (view (noteClocks s)) := by
  simp (maxDischargeDepth := 99) [noteClocks, h]

theorem eights_add {t : W64} (h : Eights t) (n : Nat) (hn : n % 8 = 0) : Eights (t + BitVec.ofNat 64 n) := by
  simp only [Eights, BitVec.toNat_add, BitVec.toNat_ofNat] at *
  omega

theorem eights_slew {c : Clk} (h : Eights c.count) : Eights (slew c).count := by
  simp only [slew]
  repeat' split
  all_goals exact eights_add h _ rfl

@[simp ↓] theorem timeCycle_good {K : List Instr} {U : Fuses} {A : Staged → Prop} {C : List Host.Cell → Prop} (s : State) (h : Good K U A Eights C (view s)) :
    Good K U A Eights C (view (timeCycle s)) := by
  unfold timeCycle
  split
  · exact good_count (s := s) _ (eights_add h.2.2.2.1 320 rfl) h
  · split
    · exact good_count (s := s) _ (eights_slew h.2.2.2.1) h
    · exact good_count (s := s) _ (eights_add h.2.2.2.1 40 rfl) h

@[simp ↓] theorem idle_good {K : List Instr} {U : Fuses} {A : Staged → Prop} {C : List Host.Cell → Prop} (s : State) (h : Good K U A Eights C (view s)) : Good K U A Eights C (view (idle s)) := by
  simp only [idle]; repeat' (first | (simp (maxDischargeDepth := 99) [h, *]; done) | (refine good_foldl _ ?_ _ _ ?_) | (refine good_foldl_snd _ ?_ _ _ ?_) | split | intro _)

@[simp ↓] theorem tbSet_good {K : List Instr} {U : Fuses} {A : Staged → Prop} {C : List Host.Cell → Prop} (value : W64) (s : State) (h : Good K U A Eights C (view s)) :
    Good K U A Eights C (view (tbSet value s)) := by
  unfold tbSet
  split
  · exact good_count (s := s) _ (eights_ofNat (by simp)) h
  · exact liveIgnored_good _ _ h

@[simp ↓] theorem enterState_view (b : BootState) (s : State) : view (enterState b s) = view s := by simp [enterState]

@[simp ↓] theorem declareDead_good {K : List Instr} {U : Fuses} {A : Staged → Prop} {T : W64 → Prop} {C : List Host.Cell → Prop} (c : Nat) (timeout : Nat) (s : State) (h : Good K U A T C (view s)) : Good K U A T C (view (declareDead c timeout s)) := by
  simp (maxDischargeDepth := 99) [declareDead, h]

@[simp ↓] theorem monitorWindow_good {K : List Instr} {U : Fuses} {A : Staged → Prop} {T : W64 → Prop} {C : List Host.Cell → Prop} (c : Nat) (edges : Nat) (s : State) (h : Good K U A T C (view s)) : Good K U A T C (view (monitorWindow c edges s)) := by
  simp only [monitorWindow]; repeat' (first | (simp (maxDischargeDepth := 99) [h, *]; done) | (refine good_foldl _ ?_ _ _ ?_) | (refine good_foldl_snd _ ?_ _ _ ?_) | split | intro _)

@[simp ↓] theorem switchTimeout_good {K : List Instr} {U : Fuses} {A : Staged → Prop} {T : W64 → Prop} {C : List Host.Cell → Prop} (c : Nat) (s : State) (h : Good K U A T C (view s)) : Good K U A T C (view (switchTimeout c s)) := by
  simp only [switchTimeout]; repeat' (first | (simp (maxDischargeDepth := 99) [h, *]; done) | (refine good_foldl _ ?_ _ _ ?_) | (refine good_foldl_snd _ ?_ _ _ ?_) | split | intro _)

@[simp ↓] theorem abortBox_view (b : Nat) (s : State) : view (abortBox b s) = view s := by simp [abortBox]

@[simp ↓] theorem dropBox_view (b : Nat) (s : State) : view (dropBox b s) = view s := by simp [dropBox]

@[simp ↓] theorem restartCore_good {K : List Instr} {U : Fuses} {A : Staged → Prop} {T : W64 → Prop} {C : List Host.Cell → Prop} (c : Nat) (s : State) (h : Good K U A T C (view s)) : Good K U A T C (view (restartCore c s)) := by
  simp only [restartCore]; repeat' (first | (simp (maxDischargeDepth := 99) [h, *]; done) | (refine good_foldl _ ?_ _ _ ?_) | (refine good_foldl_snd _ ?_ _ _ ?_) | split | intro _)

@[simp ↓] theorem halt_good {K : List Instr} {U : Fuses} {A : Staged → Prop} {T : W64 → Prop} {C : List Host.Cell → Prop} (s : State) (h : Good K U A T C (view s)) : Good K U A T C (view (halt s)) := by
  simp only [halt]; repeat' (first | (simp (maxDischargeDepth := 99) [h, *]; done) | (refine good_foldl _ ?_ _ _ ?_) | (refine good_foldl_snd _ ?_ _ _ ?_) | (refine good_foldl_tri _ ?_ _ _ ?_) | split | intro _)

@[simp ↓] theorem watchdogExpiry_good {K : List Instr} {U : Fuses} {A : Staged → Prop} {T : W64 → Prop} {C : List Host.Cell → Prop} (core : Nat) (s : State) (h : Good K U A T C (view s)) : Good K U A T C (view (watchdogExpiry core s)) := by
  simp only [watchdogExpiry]; repeat' (first | (simp (maxDischargeDepth := 99) [h, *]; done) | (refine good_foldl _ ?_ _ _ ?_) | (refine good_foldl_snd _ ?_ _ _ ?_) | split | intro _)

@[simp ↓] theorem poisonDie_view (die : Nat) (s : State) : view (poisonDie die s) = view s := by
  unfold poisonDie; (repeat' split) <;> simp

@[simp ↓] theorem portRetrainNow_good {K : List Instr} {U : Fuses} {A : Staged → Prop} {T : W64 → Prop} {C : List Host.Cell → Prop} (p : Nat) (s : State) (h : Good K U A T C (view s)) : Good K U A T C (view (portRetrainNow p s)) := by
  simp only [portRetrainNow]; repeat' (first | (simp (maxDischargeDepth := 99) [h, *]; done) | (refine good_foldl _ ?_ _ _ ?_) | (refine good_foldl_snd _ ?_ _ _ ?_) | split | intro _)

@[simp ↓] theorem linkDown_view (s : State) : view (linkDown s) = view s := by
  simp [linkDown]

@[simp ↓] theorem forcedEffects_good {K : List Instr} {U : Fuses} {A : Staged → Prop} {T : W64 → Prop} {C : List Host.Cell → Prop} (c : Nat) (s : State) (h : Good K U A T C (view s)) : Good K U A T C (view (forcedEffects c s)) := by
  simp only [forcedEffects]; repeat' (first | (simp (maxDischargeDepth := 99) [h, *]; done) | (refine good_foldl _ ?_ _ _ ?_) | (refine good_foldl_snd _ ?_ _ _ ?_) | split | intro _)

@[simp ↓] theorem forcedPath_good {K : List Instr} {U : Fuses} {A : Staged → Prop} {T : W64 → Prop} {C : List Host.Cell → Prop} (c : Nat) (s : State) (h : Good K U A T C (view s)) : Good K U A T C (view (forcedPath c s)) := by
  simp only [forcedPath]; repeat' (first | (simp (maxDischargeDepth := 99) [h, *]; done) | (refine good_foldl _ ?_ _ _ ?_) | (refine good_foldl_snd _ ?_ _ _ ?_) | split | intro _)

@[simp ↓] theorem outOfService_good {K : List Instr} {U : Fuses} {A : Staged → Prop} {T : W64 → Prop} {C : List Host.Cell → Prop} (u : Nat × Nat) (s : State) (h : Good K U A T C (view s)) : Good K U A T C (view (outOfService u s)) := by
  simp only [outOfService]; repeat' (first | (simp (maxDischargeDepth := 99) [h, *]; done) | (refine good_foldl _ ?_ _ _ ?_) | (refine good_foldl_snd _ ?_ _ _ ?_) | split | intro _)

@[simp ↓] theorem relockFail_good {K : List Instr} {U : Fuses} {A : Staged → Prop} {T : W64 → Prop} {C : List Host.Cell → Prop} (c : Nat) (s : State) (h : Good K U A T C (view s)) : Good K U A T C (view (relockFail c s)) := by
  simp only [relockFail]; repeat' (first | (simp (maxDischargeDepth := 99) [h, *]; done) | (refine good_foldl _ ?_ _ _ ?_) | (refine good_foldl_snd _ ?_ _ _ ?_) | split | intro _)

@[simp ↓] theorem holdDomains_view (s : State) : view (holdDomains s) = view s := by simp [holdDomains]

@[simp ↓] theorem xtalLoss_good {K : List Instr} {U : Fuses} {A : Staged → Prop} {T : W64 → Prop} {C : List Host.Cell → Prop} (s : State) (h : Good K U A T C (view s)) : Good K U A T C (view (xtalLoss s)) := by
  simp only [xtalLoss]; repeat' (first | (simp (maxDischargeDepth := 99) [h, *]; done) | (refine good_foldl _ ?_ _ _ ?_) | (refine good_foldl_snd _ ?_ _ _ ?_) | split | intro _)

@[simp ↓] theorem stepAclk_view (s : State) : view (stepAclk s) = view s := by simp [stepAclk]

@[simp ↓] theorem capStep_view (w : Nat) (s : State) : view (capStep w s) = view s := by simp [capStep]

@[simp ↓] theorem thermStep_view (s : State) : view (thermStep s) = view s := by simp [thermStep]

@[simp ↓] theorem thermTrip_good {K : List Instr} {U : Fuses} {A : Staged → Prop} {T : W64 → Prop} {C : List Host.Cell → Prop} (s : State) (h : Good K U A T C (view s)) : Good K U A T C (view (thermTrip s)) := by
  simp only [thermTrip]; repeat' (first | (simp (maxDischargeDepth := 99) [h, *]; done) | (refine good_foldl _ ?_ _ _ ?_) | (refine good_foldl_snd _ ?_ _ _ ?_) | split | intro _)

@[simp ↓] theorem throttleOn_good {K : List Instr} {U : Fuses} {A : Staged → Prop} {T : W64 → Prop} {C : List Host.Cell → Prop} (s : State) (h : Good K U A T C (view s)) : Good K U A T C (view (throttleOn s)) := by
  simp (maxDischargeDepth := 99) [throttleOn, h]

@[simp ↓] theorem thermThrottle_good {K : List Instr} {U : Fuses} {A : Staged → Prop} {T : W64 → Prop} {C : List Host.Cell → Prop} (s : State) (h : Good K U A T C (view s)) : Good K U A T C (view (thermThrottle s)) := by
  simp only [thermThrottle]; repeat' (first | (simp (maxDischargeDepth := 99) [h, *]; done) | (refine good_foldl _ ?_ _ _ ?_) | (refine good_foldl_snd _ ?_ _ _ ?_) | split | intro _)

@[simp ↓] theorem throttleEnd_view (s : State) : view (throttleEnd s) = view s := by simp [throttleEnd]

@[simp ↓] theorem thermMeasured_good {K : List Instr} {U : Fuses} {A : Staged → Prop} {T : W64 → Prop} {C : List Host.Cell → Prop} (s : State) (h : Good K U A T C (view s)) : Good K U A T C (view (thermMeasured s)) := by
  simp only [thermMeasured]; repeat' (first | (simp (maxDischargeDepth := 99) [h, *]; done) | (refine good_foldl _ ?_ _ _ ?_) | (refine good_foldl_snd _ ?_ _ _ ?_) | split | intro _)

@[simp ↓] theorem powerMeasure_good {K : List Instr} {U : Fuses} {A : Staged → Prop} {C : List Host.Cell → Prop} (volt10mV : BitVec 16) (powerW : BitVec 16) (computeC : Byte) (otherC : Byte) (s : State) (h : Good K U A Eights C (view s)) : Good K U A Eights C (view (powerMeasure volt10mV powerW computeC otherC s)) := by
  simp only [powerMeasure]; repeat' (first | (simp (maxDischargeDepth := 99) [h, *]; done) | (refine good_foldl _ ?_ _ _ ?_) | (refine good_foldl_snd _ ?_ _ _ ?_) | split | intro _)

@[simp ↓] theorem pwrFail_good {K : List Instr} {U : Fuses} {A : Staged → Prop} {T : W64 → Prop} {C : List Host.Cell → Prop} (pin : Bool) (low : Bool) (s : State) (h : Good K U A T C (view s)) : Good K U A T C (view (pwrFail pin low s)) := by
  simp only [pwrFail]; repeat' (first | (simp (maxDischargeDepth := 99) [h, *]; done) | (refine good_foldl _ ?_ _ _ ?_) | (refine good_foldl_snd _ ?_ _ _ ?_) | split | intro _)

@[simp ↓] theorem pwrFailEnd_view (s : State) : view (pwrFailEnd s) = view s := by simp [pwrFailEnd]

@[simp ↓] theorem tblResult_view (r : BitVec 2) (s : State) : view (tblResult r s) = view s := by simp [tblResult]

@[simp ↓] theorem readCqHead_view (ctx : Nat) (s : State) : view (readCqHead ctx s) = view s := by simp [readCqHead]

@[simp ↓] theorem tblWrite_good {K : List Instr} {U : Fuses} {A : Staged → Prop} {T : W64 → Prop} {C : List Host.Cell → Prop} (s : State) (h : Good K U A T C (view s)) : Good K U A T C (view (tblWrite s)) := by
  simp only [tblWrite]; repeat' (first | (simp (maxDischargeDepth := 99) [h, *]; done) | (refine good_foldl _ ?_ _ _ ?_) | (refine good_foldl_snd _ ?_ _ _ ?_) | split | intro _)

@[simp ↓] theorem setTblData_view (ws : List W64) (s : State) : view (setTblData ws s) = view s := by simp [setTblData]

@[simp ↓] theorem tblRead_view (s : State) : view (tblRead s) = view s := by unfold tblRead; (repeat' split) <;> simp

@[simp ↓] theorem tblEnable_view (s : State) : view (tblEnable s) = view s := by simp [tblEnable]

@[simp ↓] theorem tblDisable_view (s : State) : view (tblDisable s) = view s := by simp [tblDisable]

@[simp ↓] theorem fetchEnable_good {K : List Instr} {U : Fuses} {A : Staged → Prop} {T : W64 → Prop} {C : List Host.Cell → Prop} (s : State) (h : Good K U A T C (view s)) : Good K U A T C (view (fetchEnable s)) := by
  simp only [fetchEnable]; repeat' (first | (simp (maxDischargeDepth := 99) [h, *]; done) | (refine good_foldl _ ?_ _ _ ?_) | (refine good_foldl_snd _ ?_ _ _ ?_) | split | intro _)

@[simp ↓] theorem fetchDisable_view (s : State) : view (fetchDisable s) = view s := by simp [fetchDisable]

@[simp ↓] theorem doorbell_good {K : List Instr} {U : Fuses} {A : Staged → Prop} {T : W64 → Prop} {C : List Host.Cell → Prop} (line : Nat) (stores : List Host.Cell) (s : State) (h : Good K U A T C (view s)) : Good K U A T C (view (doorbell line stores s)) := by
  simp only [doorbell]; repeat' (first | (simp (maxDischargeDepth := 99) [h, *]; done) | (refine good_foldl _ ?_ _ _ ?_) | (refine good_foldl_snd _ ?_ _ _ ?_) | split | intro _)

@[simp ↓] theorem cqHeadUpdate_good {K : List Instr} {U : Fuses} {A : Staged → Prop} {T : W64 → Prop} {C : List Host.Cell → Prop} (ctx : Nat) (stores : List Host.Cell) (s : State) (h : Good K U A T C (view s)) : Good K U A T C (view (cqHeadUpdate ctx stores s)) := by
  simp [cqHeadUpdate, h]

@[simp ↓] theorem settleAborts_view (s : State) : view (settleAborts s) = view s := by
  simp only [settleAborts]; (repeat' (first | rfl | split | (refine view_foldl_to _ _ _ ?_ ?_) | (refine view_foldl_snd_to _ _ _ ?_ ?_) | intro _)); all_goals simp

@[simp ↓] theorem commandComplete_good {K : List Instr} {U : Fuses} {A : Staged → Prop} {T : W64 → Prop} {C : List Host.Cell → Prop} (q : Nat) (s : State) (h : Good K U A T C (view s)) :
    Good K U A T C (view (commandComplete q s)) := by
  have hc := completeHead_good q s h
  simp only [commandComplete]
  split
  · exact h
  · split <;> rename_i s' he <;> rw [he] at hc
    · rw [settleAborts_view, fetchAll_view]; exact hc
    · exact hc

@[simp ↓] theorem ringDisabled_view (q : Nat) (s : State) : view (ringDisabled q s) = view s := by simp [ringDisabled]

@[simp ↓] theorem signalLocal_view (d : Desc) (s : State) : view (signalLocal d s).2 = view s := by simp [signalLocal]

@[simp ↓] theorem remoteApply_view (index : Nat) (value : W64) (s : State) : view (remoteApply index value s).2 = view s := by
  simp [remoteApply]

@[simp ↓] theorem signalBody_good {K : List Instr} {U : Fuses} {A : Staged → Prop} {T : W64 → Prop} {C : List Host.Cell → Prop} (q : Nat) (x1 : Ring) (c : Cmd) (s : State) (h : Good K U A T C (view s)) : Good K U A T C (view (signalBody q x1 c s).2) := by
  simp only [signalBody]; repeat' (first | (simp [*]; done) | (refine good_foldl _ ?_ _ _ ?_) | (refine good_foldl_snd _ ?_ _ _ ?_) | split | intro _)

@[simp ↓] theorem waitBody_view (x0 : Nat) (x1 : Ring) (c : Cmd) (s : State) : view (waitBody x0 x1 c s).2 = view s := by
  simp [waitBody]

@[simp ↓] theorem waitTimeout_good {K : List Instr} {U : Fuses} {A : Staged → Prop} {C : List Host.Cell → Prop} (q : Nat) (s : State) (h : Good K U A Eights C (view s)) : Good K U A Eights C (view (waitTimeout q s)) := by
  simp only [waitTimeout]; repeat' (first | (simp (maxDischargeDepth := 99) [h, *]; done) | (refine good_foldl _ ?_ _ _ ?_) | (refine good_foldl_snd _ ?_ _ _ ?_) | split | intro _)

@[simp ↓] theorem fenceBody_view (x0 : Nat) (r : Ring) (c : Cmd) (s : State) : view (fenceBody x0 r c s).2 = view s := by
  simp [fenceBody]

@[simp ↓] theorem tickMarkBody_view (q : Nat) (r : Ring) (c : Cmd) (s : State) : view (tickMarkBody q r c s).2 = view s := by
  simp [tickMarkBody]

@[simp ↓] theorem abortBody_good {K : List Instr} {U : Fuses} {A : Staged → Prop} {T : W64 → Prop} {C : List Host.Cell → Prop} (q : Nat) (x1 : Ring) (c : Cmd) (s : State) (h : Good K U A T C (view s)) :
    Good K U A T C (view (abortBody q x1 c s).2) := abortContext_good _ _ s h

@[simp ↓] theorem queryBody_good {K : List Instr} {U : Fuses} {A : Staged → Prop} {T : W64 → Prop} {C : List Host.Cell → Prop} (x0 : Nat) (r : Ring) (c : Cmd) (s : State) (h : Good K U A T C (view s)) : Good K U A T C (view (queryBody x0 r c s).2) := by
  simp only [queryBody]; repeat' (first | (simp [*]; done) | (refine good_foldl _ ?_ _ _ ?_) | (refine good_foldl_snd _ ?_ _ _ ?_) | split | intro _)

@[simp ↓] theorem countDup_view (source : Nat) (s : State) : view (countDup source s) = view s := by
  unfold countDup; (repeat' split) <;> simp

@[simp ↓] theorem remoteSignalReceive_good {K : List Instr} {U : Fuses} {A : Staged → Prop} {T : W64 → Prop} {C : List Host.Cell → Prop} (source : Nat) (cmd msgIndex : W32) (value word1 : W64) (s : State) (h : Good K U A T C (view s)) : Good K U A T C (view (remoteSignalReceive source cmd msgIndex value word1 s)) := by
  simp only [remoteSignalReceive]; repeat' (first | (simp (maxDischargeDepth := 99) [h, *]; done) | (refine good_foldl _ ?_ _ _ ?_) | (refine good_foldl_snd _ ?_ _ _ ?_) | (refine good_foldl_tri _ ?_ _ _ ?_) | split | intro _)

@[simp ↓] theorem remoteSignalAnswer_good {K : List Instr} {U : Fuses} {A : Staged → Prop} {T : W64 → Prop} {C : List Host.Cell → Prop} (source : Nat) (cmd msgIndex : W32) (reject : Bool) (s : State) (h : Good K U A T C (view s)) : Good K U A T C (view (remoteSignalAnswer source cmd msgIndex reject s)) := by
  simp only [remoteSignalAnswer]; repeat' (first | (simp (maxDischargeDepth := 99) [h, *]; done) | (refine good_foldl _ ?_ _ _ ?_) | (refine good_foldl_snd _ ?_ _ _ ?_) | (refine good_foldl_tri _ ?_ _ _ ?_) | split | intro _)

@[simp ↓] theorem boxWrite_good {K : List Instr} {U : Fuses} {A : Staged → Prop} {T : W64 → Prop} {C : List Host.Cell → Prop} (b : Nat) (w : W64) (s : State) (h : Good K U A T C (view s)) : Good K U A T C (view (boxWrite b w s)) := by
  simp only [boxWrite]; repeat' (first | (simp (maxDischargeDepth := 99) [h, *]; done) | (refine good_foldl _ ?_ _ _ ?_) | (refine good_foldl_snd _ ?_ _ _ ?_) | split | intro _)

@[simp ↓] theorem sendOwed_good {K : List Instr} {U : Fuses} {A : Staged → Prop} {T : W64 → Prop} {C : List Host.Cell → Prop} (pair : Nat) (s : State) (h : Good K U A T C (view s)) : Good K U A T C (view (sendOwed pair s)) := by
  simp only [sendOwed]; repeat' (first | (simp (maxDischargeDepth := 99) [h, *]; done) | (refine good_foldl _ ?_ _ _ ?_) | (refine good_foldl_snd _ ?_ _ _ ?_) | (refine good_foldl_tri _ ?_ _ _ ?_) | split | intro _)

@[simp ↓] theorem boxTake_view (b : Nat) (s : State) : view (boxTake b s).2 = view s := by simp [boxTake]

@[simp ↓] theorem busRead_view (off size : Nat) (s : State) : view (busRead off size s).2 = view s := by
  unfold busRead; (repeat' split) <;> simp

@[simp ↓] theorem takeRecv_good {K : List Instr} {U : Fuses} {A : Staged → Prop} {T : W64 → Prop} {C : List Host.Cell → Prop} (off : Nat) (s : State) (h : Good K U A T C (view s)) : Good K U A T C (view (takeRecv off s)) := by
  unfold takeRecv; split
  · exact sendOwed_good _ _ (by rwa [boxTake_view])
  · exact h

@[simp ↓] theorem registerRead_good {K : List Instr} {U : Fuses} {A : Staged → Prop} {T : W64 → Prop} {C : List Host.Cell → Prop} (off size : Nat) (s : State) (h : Good K U A T C (view s)) : Good K U A T C (view (registerRead off size s)) := by
  have ht : Good K U A T C (view (takeRecv off (busRead off size s).2)) := takeRecv_good _ _ (by rwa [busRead_view])
  simp only [registerRead]
  repeat' split
  all_goals first | (simp [emit, h]; done) | (rw [emit_view]; exact good_pair _ _ ht) | skip

@[simp ↓] theorem mbxRecv_good {K : List Instr} {U : Fuses} {A : Staged → Prop} {T : W64 → Prop} {C : List Host.Cell → Prop} (box : Nat) (s : State) (h : Good K U A T C (view s)) : Good K U A T C (view (mbxRecv box s)) := by
  simp only [mbxRecv]; split <;> first | exact registerRead_good _ _ _ h | exact h

@[simp ↓] theorem reply_good {K : List Instr} {U : Fuses} {A : Staged → Prop} {T : W64 → Prop} {C : List Host.Cell → Prop} (pair : Nat) (cmd : W64) (result : Nat) (data : Nat) (s : State) (h : Good K U A T C (view s)) : Good K U A T C (view (reply pair cmd result data s)) := by
  simp only [reply]; repeat' (first | (simp (maxDischargeDepth := 99) [h, *]; done) | (refine good_foldl _ ?_ _ _ ?_) | (refine good_foldl_snd _ ?_ _ _ ?_) | (refine good_foldl_tri _ ?_ _ _ ?_) | split | intro _)

@[simp ↓] theorem hostAsked_view (s : State) : view (hostAsked s) = view s := by
  simp [hostAsked]

theorem serve_good {K : List Instr} {U : Fuses} {A : Staged → Prop} {T : W64 → Prop} {C : List Host.Cell → Prop} (ops : Nat → Bool) (run : Nat → W64 → State → State)
    (hr : ∀ p w s, Good K U A T C (view s) → Good K U A T C (view (run p w s))) (pair : Nat) (s : State) (h : Good K U A T C (view s)) :
    Good K U A T C (view (serve ops run pair s)) := by
  have ht : Good K U A T C (view (boxTake pair s).2) := by rwa [boxTake_view]
  simp only [serve]
  repeat' split
  · exact reply_good _ _ _ _ _ ht
  · exact reply_good _ _ _ _ _ ht
  · exact hr _ _ _ ht
  · exact h

@[simp ↓] theorem ping_good {K : List Instr} {U : Fuses} {A : Staged → Prop} {T : W64 → Prop} {C : List Host.Cell → Prop} (pair : Nat) (s : State) (h : Good K U A T C (view s)) : Good K U A T C (view (ping pair s)) :=
  serve_good _ _ (fun p w s hs => by split <;> exact reply_good _ _ _ _ _ hs) pair s h

@[simp ↓] theorem stateOp_good {K : List Instr} {U : Fuses} {A : Staged → Prop} {T : W64 → Prop} {C : List Host.Cell → Prop} (pair : Nat) (s : State) (h : Good K U A T C (view s)) :
    Good K U A T C (view (stateOp pair s)) := serve_good _ _ (fun _ _ _ hs => reply_good _ _ _ _ _ hs) pair s h

@[simp ↓] theorem crumbRead_good {K : List Instr} {U : Fuses} {A : Staged → Prop} {T : W64 → Prop} {C : List Host.Cell → Prop} (pair : Nat) (s : State) (h : Good K U A T C (view s)) : Good K U A T C (view (crumbRead pair s)) := by
  refine serve_good _ _ (fun _ _ s hs => ?_) pair s h
  have ha : Good K U A T C (view (hostAsked s)) := by rwa [hostAsked_view]
  dsimp only
  split
  · exact reply_good _ _ _ _ _ ha
  · exact reply_good _ _ _ _ _ (hostWrite_good _ _ _ ha)

@[simp ↓] theorem updateStatusOp_good {K : List Instr} {U : Fuses} {A : Staged → Prop} {T : W64 → Prop} {C : List Host.Cell → Prop} (pair : Nat) (s : State) (h : Good K U A T C (view s)) :
    Good K U A T C (view (updateStatusOp pair s)) := serve_good _ _ (fun _ _ _ hs => reply_good _ _ _ _ _ hs) pair s h

@[simp ↓] theorem setUpdate_good {K : List Instr} {U : Fuses} {A : Staged → Prop} {T : W64 → Prop} {C : List Host.Cell → Prop} (st : Nat) (result : Nat) (img : List Byte) (s : State) (h : Good K U A T C (view s)) : Good K U A T C (view (setUpdate st result img s)) := by
  simp only [setUpdate]; repeat' (first | (simp (maxDischargeDepth := 99) [h, *]; done) | (refine good_foldl _ ?_ _ _ ?_) | (refine good_foldl_snd _ ?_ _ _ ?_) | split | intro _)

@[simp ↓] theorem fwUpdate_good {K : List Instr} {U : Fuses} {A : Staged → Prop} {T : W64 → Prop} (pair : Nat) (s : State) (h : Good K U A T Canon (view s)) : Good K U A T Canon (view (fwUpdate pair s)) := by
  refine serve_good _ _ (fun p w s hs => ?_) pair s h
  dsimp only
  split
  · exact reply_good _ _ _ _ _ hs
  · split
    · exact reply_good _ _ _ _ _ (setUpdate_good _ _ _ _ (setUpdate_good _ _ _ _ (by rwa [hostAsked_view])))
    · have ha : Good K U A T Canon (view (hostAsked s)) := by rwa [hostAsked_view]
      generalize hostAsked s = t at ha
      repeat' (first | (simp (maxDischargeDepth := 99) [ha]; done) | split)

@[simp ↓] theorem fwUpdateComplete_good {K : List Instr} {U : Fuses} {A : Staged → Prop} {T : W64 → Prop} {C : List Host.Cell → Prop} (flashOk : Bool) (s : State) (h : Good K U A T C (view s)) : Good K U A T C (view (fwUpdateComplete flashOk s)) := by
  simp only [fwUpdateComplete]; repeat' (first | (simp (maxDischargeDepth := 99) [h, *]; done) | (refine good_foldl _ ?_ _ _ ?_) | (refine good_foldl_snd _ ?_ _ _ ?_) | split | intro _)

@[simp ↓] theorem interruptUpdate_view (s : State) : view (interruptUpdate s) = view s := by simp [interruptUpdate]

@[simp ↓] theorem setSessions_view (t : SpdmTransport) (n : Nat) (s : State) : view (setSessions t n s) = view s := by
  unfold setSessions; (repeat' split) <;> simp

@[simp ↓] theorem spdmRequest_view (t : SpdmTransport) (k : SpdmKind) (s : State) : view (spdmRequest t k s) = view s := by
  unfold spdmRequest; (repeat' split) <;> simp

@[simp ↓] theorem ideKmKey_view (stream : Nat) (substream : Nat) (key : BitVec 256) (s : State) : view (ideKmKey stream substream key s) = view s := by
  simp [ideKmKey]

@[simp ↓] theorem mctpControl_view (command : Byte) (eid : Byte) (s : State) : view (mctpControl command eid s) = view s := by
  simp [mctpControl]

@[simp ↓] theorem pldmBase_view (command : Byte) (s : State) : view (pldmBase command s) = view s := by simp [pldmBase]

@[simp ↓] theorem sensorRead_view (n : Nat) (s : State) : view (sensorRead n s) = view s := by simp [sensorRead]

@[simp ↓] theorem sensorRefresh_view (inletC10 : BitVec 16) (outletC10 : BitVec 16) (s : State) : view (sensorRefresh inletC10 outletC10 s) = view s := by
  simp [sensorRefresh]

@[simp ↓] theorem fruRead_view (s : State) : view (fruRead s) = view s := by simp [fruRead]

@[simp ↓] theorem crumbRange_view (s : State) : view (crumbRange s) = view s := by simp [crumbRange]

@[simp ↓] theorem crumbEntries_view (seq : W32) (n : Nat) (s : State) : view (crumbEntries seq n s) = view s := by simp [crumbEntries]

@[simp ↓] theorem noteDiffering_view (dim peer : Nat) (same : Bool) (s : State) : view (noteDiffering dim peer same s) = view s := by simp [noteDiffering]

@[simp ↓] theorem relayDone_view (dim target : Nat) (w : W64) (s : State) : view (relayDone dim target w s) = view s := by
  unfold relayDone; (repeat' split) <;> simp

@[simp ↓] theorem doneSymbolReceive_view (dim peer : Nat) (w : W64) (s : State) : view (doneSymbolReceive dim peer w s) = view s := by
  simp only [doneSymbolReceive]; repeat' (first | (simp; done) | (refine view_foldl_to _ _ _ (fun _ _ => ?_) ?_) | (refine view_foldl_snd_to _ _ _ (fun _ _ => ?_) ?_) | split)

@[simp ↓] theorem sayTime_view (k y : Nat) (syms : List W64) (s : State) : view (sayTime k y syms s) = view s := by
  unfold sayTime; (repeat' split) <;> simp

@[simp ↓] theorem timeRequestReceive_view (dim : Nat) (peer : Nat) (_t1 : BitVec 56) (s : State) : view (timeRequestReceive dim peer _t1 s) = view s := by
  simp [timeRequestReceive]

@[simp ↓] theorem skipExchange_good {K : List Instr} {U : Fuses} {A : Staged → Prop} {T : W64 → Prop} {C : List Host.Cell → Prop} (s : State) (h : Good K U A T C (view s)) : Good K U A T C (view (skipExchange s)) := by
  simp only [skipExchange]; repeat' (first | (simp (maxDischargeDepth := 99) [h, *]; done) | (refine good_foldl _ ?_ _ _ ?_) | (refine good_foldl_snd _ ?_ _ _ ?_) | (refine good_foldl_tri _ ?_ _ _ ?_) | split | intro _)

@[simp ↓] theorem timeExchangeStart_good {K : List Instr} {U : Fuses} {A : Staged → Prop} {C : List Host.Cell → Prop} (s : State) (h : Good K U A Eights C (view s)) : Good K U A Eights C (view (timeExchangeStart s)) := by
  simp only [timeExchangeStart]; repeat' (first | (simp (maxDischargeDepth := 99) [h, *]; done) | (refine good_foldl _ ?_ _ _ ?_) | (refine good_foldl_snd _ ?_ _ _ ?_) | split | intro _)

theorem round8_mod (o : Int) : round8 o % 8 = 0 := by simp [round8]

/-- A step of the time base keeps it a multiple of 8, where the offset is one. -/
theorem applyOffset_good {K : List Instr} {U : Fuses} {A : Staged → Prop} {C : List Host.Cell → Prop} (o : Int) (ho : o % 8 = 0) (cycles : Nat) (s : State) (h : Good K U A Eights C (view s)) :
    Good K U A Eights C (view (applyOffset o cycles s)) := by
  unfold applyOffset
  split
  · refine good_count (s := s) _ ?_ h
    have hc : Eights s.clk.count := h.2.2.2.1
    have h8 : (o % 18446744073709551616).toNat % 8 = 0 := by omega
    simp only [Eights, BitVec.toNat_add, BitVec.toNat_ofInt] at *
    norm_num at *
    omega
  · exact h

@[simp ↓] theorem settleLock_good {K : List Instr} {U : Fuses} {A : Staged → Prop} {T : W64 → Prop} {C : List Host.Cell → Prop} (offset o : Int) (s : State) (h : Good K U A T C (view s)) : Good K U A T C (view (settleLock offset o s)) := by
  simp only [settleLock]; repeat' (first | (simp (maxDischargeDepth := 99) [h, *]; done) | (refine good_foldl _ ?_ _ _ ?_) | (refine good_foldl_snd _ ?_ _ _ ?_) | (refine good_foldl_tri _ ?_ _ _ ?_) | split | intro _)

@[simp ↓] theorem endExchange_good {K : List Instr} {U : Fuses} {A : Staged → Prop} {C : List Host.Cell → Prop} (offset : Int) (cycles : Nat) (s : State)
    (h : Good K U A Eights C (view s)) : Good K U A Eights C (view (endExchange offset cycles s)) :=
  settleLock_good _ _ _ (applyOffset_good _ (round8_mod _) _ _ h)

@[simp ↓] theorem timeResponseReceive_good {K : List Instr} {U : Fuses} {A : Staged → Prop} {C : List Host.Cell → Prop} (t2 t3 t4 : W64) (cycles : Nat) (s : State)
    (h : Good K U A Eights C (view s)) : Good K U A Eights C (view (timeResponseReceive t2 t3 t4 cycles s)) := by
  unfold timeResponseReceive
  repeat' split
  all_goals first | exact h | exact endExchange_good _ _ _ h

@[simp ↓] theorem takeTime_good {K : List Instr} {U : Fuses} {A : Staged → Prop} {C : List Host.Cell → Prop} (k y : Nat) (w : W64) (s : State)
    (h : Good K U A Eights C (view s)) : Good K U A Eights C (view (takeTime k y w s)) := by
  unfold takeTime
  split
  · exact h
  · dsimp only
    split
    · exact h
    · exact endExchange_good _ _ _ h
    · exact h

@[simp ↓] theorem lockStateMessage_good {K : List Instr} {U : Fuses} {A : Staged → Prop} {T : W64 → Prop} {C : List Host.Cell → Prop} (locked : Bool) (s : State) (h : Good K U A T C (view s)) : Good K U A T C (view (lockStateMessage locked s)) := by
  simp only [lockStateMessage]; repeat' (first | (simp (maxDischargeDepth := 99) [h, *]; done) | (refine good_foldl _ ?_ _ _ ?_) | (refine good_foldl_snd _ ?_ _ _ ?_) | (refine good_foldl_tri _ ?_ _ _ ?_) | split | intro _)

@[simp ↓] theorem resendFrom_view (p : Nat) (n : Nat) (s : State) : view (resendFrom p n s) = view s := by simp [resendFrom]

@[simp ↓] theorem ackFlits_view (p : Nat) (a : Nat) (s : State) : view (ackFlits p a s) = view s := by simp [ackFlits]

@[simp ↓] theorem takeCredit_view (p : Nat) (w : W64) (s : State) : view (takeCredit p w s) = view s := by simp [takeCredit]

@[simp ↓] theorem takeSymbol_good {K : List Instr} {U : Fuses} {A : Staged → Prop} {C : List Host.Cell → Prop} (p k y : Nat) (w : W64) (s : State) (h : Good K U A Eights C (view s)) : Good K U A Eights C (view (takeSymbol p k y w s)) := by
  simp only [takeSymbol]; repeat' (first | (simp (maxDischargeDepth := 99) [h, *]; done) | (refine good_foldl _ ?_ _ _ ?_) | (refine good_foldl_snd _ ?_ _ _ ?_) | (refine good_foldl_tri _ ?_ _ _ ?_) | split | intro _)

@[simp ↓] theorem rejectFlit_view (p : Nat) (s : State) : view (rejectFlit p s) = view s := by simp [rejectFlit]

@[simp ↓] theorem acceptFlit_view (p : Nat) (f : Flit) (s : State) : view (acceptFlit p f s) = view s := by simp [acceptFlit]

@[simp ↓] theorem flitReceive_good {K : List Instr} {U : Fuses} {A : Staged → Prop} {C : List Host.Cell → Prop} (p : Nat) (f : Flit) (s : State)
    (h : Good K U A Eights C (view s)) : Good K U A Eights C (view (flitReceive p f s)) := by
  unfold flitReceive
  repeat' split
  · exact h
  · exact h
  · rwa [rejectFlit_view, count_view]
  · rwa [rejectFlit_view, count_view]
  · extract_lets s1 s2 s3
    have h1 : Good K U A Eights C (view s1) := by rwa [ackFlits_view]
    have h2 : Good K U A Eights C (view s2) := good_foldl _ (fun s w hs => takeSymbol_good _ _ _ _ s hs) _ _ h1
    have h3 : Good K U A Eights C (view s3) := by
      unfold s3
      split
      · rwa [acceptFlit_view]
      · exact h2
    refine flushPort_good _ _ ?_
    split
    · exact h3
    · rwa [sayIdle_view]

@[simp ↓] theorem replayTimeout_good {K : List Instr} {U : Fuses} {A : Staged → Prop} {C : List Host.Cell → Prop} (p : Nat) (s : State) (h : Good K U A Eights C (view s)) : Good K U A Eights C (view (replayTimeout p s)) := by
  simp only [replayTimeout]; repeat' (first | (simp (maxDischargeDepth := 99) [h, *]; done) | (refine good_foldl _ ?_ _ _ ?_) | (refine good_foldl_snd _ ?_ _ _ ?_) | split | intro _)

@[simp ↓] theorem returnToTraining_good {K : List Instr} {U : Fuses} {A : Staged → Prop} {T : W64 → Prop} {C : List Host.Cell → Prop} (p : Nat) (s : State) (h : Good K U A T C (view s)) : Good K U A T C (view (returnToTraining p s)) := by
  simp only [returnToTraining]; repeat' (first | (simp (maxDischargeDepth := 99) [h, *]; done) | (refine good_foldl _ ?_ _ _ ?_) | (refine good_foldl_snd _ ?_ _ _ ?_) | (refine good_foldl_tri _ ?_ _ _ ?_) | split | intro _)

@[simp ↓] theorem portTrainingDone_good {K : List Instr} {U : Fuses} {A : Staged → Prop} {T : W64 → Prop} {C : List Host.Cell → Prop} (p : Nat) (identity : W64) (rtt : W32) (lanes : BitVec 4) (s : State) (h : Good K U A T C (view s)) : Good K U A T C (view (portTrainingDone p identity rtt lanes s)) := by
  simp only [portTrainingDone]; repeat' (first | (simp (maxDischargeDepth := 99) [h, *]; done) | (refine good_foldl _ ?_ _ _ ?_) | (refine good_foldl_snd _ ?_ _ _ ?_) | split | intro _)

@[simp ↓] theorem portRetrain_good {K : List Instr} {U : Fuses} {A : Staged → Prop} {T : W64 → Prop} {C : List Host.Cell → Prop} (p : Nat) (cause : RetrainCause) (lanes : BitVec 4) (s : State) (h : Good K U A T C (view s)) : Good K U A T C (view (portRetrain p cause lanes s)) := by
  simp only [portRetrain]; repeat' (first | (simp (maxDischargeDepth := 99) [h, *]; done) | (refine good_foldl _ ?_ _ _ ?_) | (refine good_foldl_snd _ ?_ _ _ ?_) | split | intro _)

@[simp ↓] theorem portRetrainTimeout_good {K : List Instr} {U : Fuses} {A : Staged → Prop} {C : List Host.Cell → Prop} (p : Nat) (s : State) (h : Good K U A Eights C (view s)) : Good K U A Eights C (view (portRetrainTimeout p s)) := by
  simp only [portRetrainTimeout]; repeat' (first | (simp (maxDischargeDepth := 99) [h, *]; done) | (refine good_foldl _ ?_ _ _ ?_) | (refine good_foldl_snd _ ?_ _ _ ?_) | split | intro _)

@[simp ↓] theorem setHalf_view (key : Nat) (h : Half) (s : State) : view (setHalf key h s) = view s := by simp [setHalf]

@[simp ↓] theorem touchRows_view (l : Loc) (first : Nat) (n : Nat) (s : State) : view (touchRows l first n s) = view s := by
  simp [touchRows]

@[simp ↓] theorem storeRows_good {K : List Instr} {U : Fuses} {A : Staged → Prop} {T : W64 → Prop} (l : Loc) (c : ConvOut) (s : State) (h : Good K U A T Canon (view s)) : Good K U A T Canon (view (storeRows l c s)) := by
  simp only [storeRows]; repeat' (first | (simp [*]; done) | (refine good_foldl _ ?_ _ _ ?_) | (refine good_foldl_snd _ ?_ _ _ ?_) | split | intro _)

@[simp ↓] theorem poisonRows_view (l : Loc) (first : Nat) (n : Nat) (s : State) : view (poisonRows l first n s) = view s := by
  simp [poisonRows]

@[simp ↓] theorem updStat_view (key : Nat) (recipe : Nat) (rung : Nat) (f : StatRec → StatRec) (s : State) : view (updStat key recipe rung f s) = view s := by
  simp [updStat]

@[simp ↓] theorem observe_view (l : Loc) (slice : Nat) (x : Fv) (s : State) : view (observe l slice x s) = view s := by
  unfold observe; (repeat' split) <;> simp

@[simp ↓] theorem countConvWith_view (outs : List Nat) (cv : Conv) (l : Loc) (c : ConvOut) (s : State) : view (countConvWith outs cv l c s) = view s := by
  unfold countConvWith; (repeat' split) <;> simp

@[simp ↓] theorem countConv_view (cv : Conv) (l : Loc) (c : ConvOut) (s : State) : view (countConv cv l c s) = view s := by
  simp [countConv]

@[simp ↓] theorem markNonfiniteWith_view (outs : List Nat) (cv : Conv) (l : Loc) (c : ConvOut) (s : State) : view (markNonfiniteWith outs cv l c s) = view s := by
  unfold markNonfiniteWith; (repeat' split) <;> simp

@[simp ↓] theorem markNonfinite_view (cv : Conv) (l : Loc) (c : ConvOut) (s : State) : view (markNonfinite cv l c s) = view s := by
  unfold markNonfinite; (repeat' split) <;> simp

@[simp ↓] theorem markMissed_view (owner : Option (Nat × Nat × Nat × Nat)) (unit : Nat) (missed : Bool) (s : State) : view (markMissed owner unit missed s) = view s := by
  unfold markMissed; (repeat' split) <;> simp

@[simp ↓] theorem putRows_good {K : List Instr} {U : Fuses} {A : Staged → Prop} {T : W64 → Prop} (cv : Conv) (l : Loc) (first : Nat) (rows : List (List Fv)) (s : State) (h : Good K U A T Canon (view s)) : Good K U A T Canon (view (putRows cv l first rows s).2) := by
  simp [putRows, h]

@[simp ↓] theorem setArray_view (tile : Nat) (x : TileState) (s : State) : view (setArray tile x s) = view s := by simp [setArray]

@[simp ↓] theorem loadShadow_view (tile : Nat) (c : CellSet) (s : State) : view (loadShadow tile c s) = view s := by simp [loadShadow]

@[simp ↓] theorem passParity_good {K : List Instr} {U : Fuses} {A : Staged → Prop} {T : W64 → Prop} {C : List Host.Cell → Prop} (tile : Nat) (x : TileState) (s : State) (h : Good K U A T C (view s)) : Good K U A T C (view (passParity tile x s).2) := by
  simp only [passParity]; repeat' (first | (simp (maxDischargeDepth := 99) [h, *]; done) | (refine good_foldl _ ?_ _ _ ?_) | (refine good_foldl_snd _ ?_ _ _ ?_) | split | intro _)

@[simp ↓] theorem passTagError_good {K : List Instr} {U : Fuses} {A : Staged → Prop} {T : W64 → Prop} {C : List Host.Cell → Prop} (tile : Nat) (tag : BitVec 34) (s : State) (h : Good K U A T C (view s)) : Good K U A T C (view (passTagError tile tag s)) := by
  simp (maxDischargeDepth := 99) [passTagError, h]

@[simp ↓] theorem passCount_view (tile use lost fresh stall : Nat) (drain again : Bool) (s : State) : view (passCount tile use lost fresh stall drain again s) = view s := by
  simp [passCount]

@[simp ↓] theorem passFound_good {K : List Instr} {U : Fuses} {A : Staged → Prop} {T : W64 → Prop} {C : List Host.Cell → Prop} (tile : Nat) (tag : BitVec 34) (found : PassFault) (y : TileState) (s : State) (h : Good K U A T C (view s)) : Good K U A T C (view (passFound tile tag found y s).2) := by
  simp only [passFound]; repeat' (first | (simp (maxDischargeDepth := 99) [h, *]; done) | (refine good_foldl _ ?_ _ _ ?_) | (refine good_foldl_snd _ ?_ _ _ ?_) | split | intro _)

@[simp ↓] theorem passStart_good {K : List Instr} {U : Fuses} {A : Staged → Prop} {T : W64 → Prop} {C : List Host.Cell → Prop} (tile : Nat) (tag : BitVec 34) (first : Bool) (rows : List (List Elem × Nat)) (ready : Nat) (found : PassFault) (s : State) (h : Good K U A T C (view s)) : Good K U A T C (view (passStart tile tag first rows ready found s)) := by
  simp (maxDischargeDepth := 99) [passStart, h]

@[simp ↓] theorem slicePass_good {K : List Instr} {U : Fuses} {A : Staged → Prop} {T : W64 → Prop} {C : List Host.Cell → Prop} (tile : Nat) (tag : BitVec 34) (af wf : Form) (rows : List (List Elem × Nat)) (cols : List (List Elem × List Int)) (ks : Nat) (s : State) (h : Good K U A T C (view s)) : Good K U A T C (view (slicePass tile tag af wf rows cols ks s)) := by
  simp (maxDischargeDepth := 99) [slicePass, h]

@[simp ↓] theorem sharePasses_good {K : List Instr} {U : Fuses} {A : Staged → Prop} {T : W64 → Prop} {C : List Host.Cell → Prop} (lim : Option Nat) (tile : Nat) (tag : BitVec 34) (af wf : Form) (rows : List (List Elem × Nat)) (cols : List (List Elem × List Int)) (k : Nat) (s : State) (h : Good K U A T C (view s)) : Good K U A T C (view (sharePasses lim tile tag af wf rows cols k s)) := by
  simp only [sharePasses]; repeat' (first | (simp (maxDischargeDepth := 99) [h, *]; done) | (refine good_foldl _ ?_ _ _ ?_) | (refine good_foldl_snd _ ?_ _ _ ?_) | (refine good_foldl_tri _ ?_ _ _ ?_) | split | intro _)

@[simp ↓] theorem runShare_good {K : List Instr} {U : Fuses} {A : Staged → Prop} {T : W64 → Prop} {C : List Host.Cell → Prop} (again : Bool) (lim : Option Nat) (tile : Nat) (tag : BitVec 34) (af wf : Form) (rows : List (List Elem × Nat)) (cols : List (List Elem × List Int)) (k : Nat) (s : State) (h : Good K U A T C (view s)) : Good K U A T C (view (runShare again lim tile tag af wf rows cols k s)) := by
  simp only [runShare]; repeat' (first | (simp (maxDischargeDepth := 99) [h, *]; done) | (refine good_foldl _ ?_ _ _ ?_) | (refine good_foldl_snd _ ?_ _ _ ?_) | (refine good_foldl_tri _ ?_ _ _ ?_) | split | intro _)

@[simp ↓] theorem countShare_view (path cls af wf k tile : Nat) (x : Share) (ds : List (List Dot)) (s : State) : view (countShare path cls af wf k tile x ds s) = view s := by
  unfold countShare; (repeat' split) <;> simp

@[simp ↓] theorem tileProduct_good {K : List Instr} {U : Fuses} {A : Staged → Prop} {T : W64 → Prop} {C : List Host.Cell → Prop} (layer path cls : Nat) (again : List Nat) (lim : Share → Option Nat) (a w : Side) (k : Nat) (ds : List (List Dot)) (x : Share × Nat) (s : State) (h : Good K U A T C (view s)) : Good K U A T C (view (tileProduct layer path cls again lim a w k ds x s)) := by
  simp only [tileProduct]; repeat' (first | (simp (maxDischargeDepth := 99) [h, *]; done) | (refine good_foldl _ ?_ _ _ ?_) | (refine good_foldl_snd _ ?_ _ _ ?_) | (refine good_foldl_tri _ ?_ _ _ ?_) | split | intro _)

@[simp ↓] theorem tilesProduct_good {K : List Instr} {U : Fuses} {A : Staged → Prop} {T : W64 → Prop} {C : List Host.Cell → Prop} (layer path cls : Nat) (again : List Nat) (lim : Share → Option Nat) (a w : Side) (k : Nat) (xs : List (Share × Nat)) (ds : List (List Dot)) (s : State) (h : Good K U A T C (view s)) : Good K U A T C (view (tilesProduct layer path cls again lim a w k xs ds s)) := by
  simp only [tilesProduct]; repeat' (first | (simp (maxDischargeDepth := 99) [h, *]; done) | (refine good_foldl _ ?_ _ _ ?_) | (refine good_foldl_snd _ ?_ _ _ ?_) | (refine good_foldl_tri _ ?_ _ _ ?_) | split | intro _)

@[simp ↓] theorem countOver_view (first : Nat) (cv : Conv) (o : AttemptOut) (s : State) : view (countOver first cv o s) = view s := by
  unfold countOver; (repeat' split) <;> simp

@[simp ↓] theorem freeCaptures_view (was : List Capture) (s : State) : view (freeCaptures was s) = view s := by simp [freeCaptures]

@[simp ↓] theorem noteNonfin_view (cv : Conv) (o : AttemptOut) (s : State) : view (noteNonfin cv o s) = view s := by simp [noteNonfin]

theorem attempts_good {K : List Instr} {U : Fuses} {A : Staged → Prop} {T : W64 → Prop} (i : Instn) (float : Bool)
    (mk : Nat → Bool → Nat → AttemptOut) (work : Nat → Bool → Nat → Option Nat → State → State) (cap : Nat → Nat → AttemptOut → State → State)
    (hm : ∀ a b c d s, Good K U A T Canon (view s) → Good K U A T Canon (view (work a b c d s)))
    (hc : ∀ a b c s, Good K U A T Canon (view s) → Good K U A T Canon (view (cap a b c s))) (fuel rung n : Nat) (s : State)
    (h : Good K U A T Canon (view s)) : Good K U A T Canon (view (attempts i float mk work cap fuel rung n s).2) := by
  induction fuel generalizing rung n s with
  | zero => exact h
  | succ fuel ih =>
    have hk : ∀ (cs : List (AttemptOut × Loc × Conv × ConvOut)) (s : State), Good K U A T Canon (view s) →
        Good K U A T Canon (view (cs.foldl (fun s p =>
          storeRows p.2.1 p.2.2.2 (if i.dry then s else noteNonfin p.2.2.1 p.1 (markNonfinite p.2.2.1 p.2.1 p.2.2.2 s))) s)) :=
      fun cs s hs => good_foldl _ (fun s x hs => by
        refine storeRows_good _ _ _ ?_
        split
        · exact hs
        · rwa [noteNonfin_view, markNonfinite_view]) _ _ hs
    have h1 : ∀ (run : List (Nat × AttemptOut)) (stop : Option Nat), Good K U A T Canon (view (run.foldl (fun s p =>
        cap rung p.1 p.2 (work rung (decide (0 < n)) p.1 stop s)) s)) :=
      fun run stop => good_foldl _ (fun s x hs => hc _ _ _ _ (hm _ _ _ _ _ hs)) _ _ h
    have h2 : ∀ (cs : List (AttemptOut × Loc × Conv × ConvOut)) (s : State), Good K U A T Canon (view s) →
        Good K U A T Canon (view (cs.foldl (fun s p => countOver i.out.first p.2.2.1 p.1 (countConv p.2.2.1 p.2.1 p.2.2.2 s)) s)) :=
      fun cs s hs => good_foldl _ (fun s x hs => by rwa [countOver_view, countConv_view]) _ _ hs
    unfold attempts
    extract_lets t form was run conv found cause stop s1 s2 keep kept
    clear_value cause stop run conv found
    cases cause with
    | none => exact hk _ _ (h2 _ _ (h1 _ _))
    | some cause =>
      simp only []
      split
      · exact hk _ _ (h2 _ _ (h1 _ _))
      · split
        · exact raise_good _ _ _ (hk _ _ (h2 _ _ (h1 _ _)))
        · refine ih _ _ _ ?_
          rw [freeCaptures_view]
          refine raise_good _ _ _ ?_
          split
          · exact h2 _ _ (h1 _ _)
          · rw [updStat_view]; exact h2 _ _ (h1 _ _)

@[simp ↓] theorem captureTile_view (c : Capture) (s : State) : view (captureTile c s) = view s := by simp [captureTile]

@[simp ↓] theorem captureShare_view (i : Instn) (k : Nat) (rung : Nat) (tile : Nat) (a : Side) (w : Side) (pre : List (List F32)) (sh : Share) (s : State) : view (captureShare i k rung tile a w pre sh s) = view s := by
  simp [captureShare]

@[simp ↓] theorem captureAll_view (i : Instn) (rung : Nat) (rep : Nat) (a : Side) (w : Side) (o : AttemptOut) (s : State) : view (captureAll i rung rep a w o s) = view s := by
  simp [captureAll]

@[simp ↓] theorem takeTileFlag_view (acc : List Nat × List Nat × State) (t : Nat) : view (takeTileFlag acc t).2.2 = view acc.2.2 := by
  unfold takeTileFlag; (repeat' split) <;> simp

theorem view_foldl_tri {α β γ : Type} (f : β × γ × State → α → β × γ × State) (h : ∀ p x, view (f p x).2.2 = view p.2.2) (l : List α)
    (p : β × γ × State) : view (l.foldl f p).2.2 = view p.2.2 := by
  induction l generalizing p with
  | nil => rfl
  | cons x t ih => rw [List.foldl_cons, ih, h]

@[simp ↓] theorem failTile_good {K : List Instr} {U : Fuses} {A : Staged → Prop} {T : W64 → Prop} {C : List Host.Cell → Prop} (tile : Nat) (s : State) (h : Good K U A T C (view s)) : Good K U A T C (view (failTile s tile)) := by
  simp only [failTile]; repeat' (first | (simp (maxDischargeDepth := 99) [h, *]; done) | (refine good_foldl _ ?_ _ _ ?_) | (refine good_foldl_snd _ ?_ _ _ ?_) | (refine good_foldl_tri _ ?_ _ _ ?_) | split | intro _)

theorem tileFlags_view (stage : Nat) (s : State) :
    view ((List.range (stageReplicas s stage)).foldl (fun acc r => (stageTiles s stage r).foldl takeTileFlag acc) ([], [], s)).2.2 = view s :=
  view_foldl_tri _ (fun p _ => view_foldl_tri _ (fun p x => takeTileFlag_view p x) _ p) _ _

@[simp ↓] theorem takeTileFlags_good {K : List Instr} {U : Fuses} {A : Staged → Prop} {T : W64 → Prop} {C : List Host.Cell → Prop} (stage : Nat) (s : State) (h : Good K U A T C (view s)) : Good K U A T C (view (takeTileFlags stage s).2.2) := by
  simp only [takeTileFlags]
  exact good_foldl _ (fun s x hs => failTile_good x s hs) _ _ ((tileFlags_view stage s).symm ▸ h)

@[simp ↓] theorem poisonOut_view (i : Instn) (rung : Nat) (n : Nat) (s : State) : view (poisonOut i rung n s) = view s := by
  simp only [poisonOut]; (repeat' (first | rfl | split | (refine view_foldl_to _ _ _ ?_ ?_) | (refine view_foldl_snd_to _ _ _ ?_ ?_) | intro _)); all_goals simp

@[simp ↓] theorem poisonShare_view (l : Loc) (i : Instn) (x : Share) (s : State) : view (poisonShare l i x s) = view s := by simp [poisonShare]

@[simp ↓] theorem poisonTiles_view (i : Instn) (tiles : List Nat) (s : State) : view (poisonTiles i tiles s) = view s := by
  simp only [poisonTiles]; repeat' (first | (simp; done) | (refine view_foldl_to _ _ _ (fun _ _ => ?_) ?_) | (refine view_foldl_snd_to _ _ _ (fun _ _ => ?_) ?_) | split)

@[simp ↓] theorem noteMissed_view (i : Instn) (rung : Nat) (missed : Bool) (s : State) : view (noteMissed i rung missed s) = view s := by simp [noteMissed]

@[simp ↓] theorem touchOperand_view (stage : Nat) (o : Operand) (beat : Nat) (n : Nat) (s : State) : view (touchOperand stage o beat n s) = view s := by
  simp only [touchOperand]; (repeat' (first | rfl | split | (refine view_foldl_to _ _ _ ?_ ?_) | (refine view_foldl_snd_to _ _ _ ?_ ?_) | intro _)); all_goals simp

@[simp ↓] theorem emptyEpilogue_view (rung : Nat) (xs : List (Share × Nat)) (s : State) : view (emptyEpilogue rung xs s) = view s := by simp [emptyEpilogue]

@[simp ↓] theorem prodWork_good {K : List Instr} {U : Fuses} {A : Staged → Prop} {T : W64 → Prop} {C : List Host.Cell → Prop} (i : Instn) (pass m k rung : Nat) (rep : Bool) (stop : Option Nat) (again tiles : List Nat) (p : Prod) (s : State) (h : Good K U A T C (view s)) : Good K U A T C (view (prodWork i pass m k rung rep stop again tiles p s)) := by
  simp only [prodWork]; repeat' (first | (simp (maxDischargeDepth := 99) [h, *]; done) | (refine good_foldl _ ?_ _ _ ?_) | (refine good_foldl_snd _ ?_ _ _ ?_) | (refine good_foldl_tri _ ?_ _ _ ?_) | split | intro _)

@[simp ↓] theorem matRun_good {K : List Instr} {U : Fuses} {A : Staged → Prop} {T : W64 → Prop} (i : Instn) (again : List Nat) (r : Ring) (c : Cmd) (s : State)
    (h : Good K U A T Canon (view s)) : Good K U A T Canon (view (matRun i again r c s).2) := by
  unfold matRun
  exact attempts_good _ _ _ _ _ (fun _ _ _ _ s hs => prodWork_good _ _ _ _ _ _ _ _ _ _ s hs) (fun _ _ _ s hs => by rwa [captureAll_view]) _ _ _ _ h

@[simp ↓] theorem arrayEnd_view (i : Instn) (fl : List Nat × List Nat) (bad : List Nat) (k : Kept × State) : view (arrayEnd i fl bad k).2 = view k.2 := by simp [arrayEnd]

theorem view_touches (stage beat : Nat) (l : List (Operand × Nat)) (s : State) :
    view (l.foldl (fun s x => touchOperand stage x.1 beat x.2 s) s) = view s := view_foldl _ (fun s x => touchOperand_view _ _ _ _ s) l s

@[simp ↓] theorem matBody_good {K : List Instr} {U : Fuses} {A : Staged → Prop} {T : W64 → Prop} (_q : Nat) (r : Ring) (c : Cmd) (s : State) (h : Good K U A T Canon (view s)) :
    Good K U A T Canon (view (matBody _q r c s).2) := by
  unfold matBody
  extract_lets d i b rung reads s1 wbad bad fl s2 good missed
  have h1 : Good K U A T Canon (view s1) := by unfold s1; rwa [view_touches]
  have h2 : Good K U A T Canon (view s2) := by unfold s2; rw [poisonOut_view]; exact takeTileFlags_good _ _ h1
  clear_value s2 fl good bad wbad s1 missed
  split
  · exact h
  · split
    · exact h
    · split
      · rwa [poisonOut_view]
      · split
        · exact h2
        · rw [arrayEnd_view]
          exact matRun_good _ _ _ _ _ (by rwa [noteMissed_view])

@[simp ↓] theorem xuWork_view (tile n fma sfu : Nat) (s : State) : view (xuWork tile n fma sfu s) = view s := by simp [xuWork]

@[simp ↓] theorem countXu_view (i : Instn) (fma : Nat) (sfu : Nat) (rowSfu : Nat) (s : State) : view (countXu i fma sfu rowSfu s) = view s := by
  simp [countXu]

@[simp ↓] theorem poisonAlso_view (i : Instn) (reps : List Nat) (also : List (Operand × Nat)) (s : State) : view (poisonAlso i reps also s) = view s := by
  simp only [poisonAlso]; (repeat' (first | rfl | split | (refine view_foldl_to _ _ _ ?_ ?_) | (refine view_foldl_snd_to _ _ _ ?_ ?_) | intro _)); all_goals simp

theorem xuRun_good {K : List Instr} {U : Fuses} {A : Staged → Prop} {T : W64 → Prop} (i : Instn) (reads also : List (Operand × Nat)) (wbad : Bool) (mk : Nat → List (List Outp))
    (work more : Instn → State → State) (hw : ∀ i s, view (work i s) = view s)
    (hm : ∀ i s, Good K U A T Canon (view s) → Good K U A T Canon (view (more i s))) (s : State) (h : Good K U A T Canon (view s)) :
    Good K U A T Canon (view (xuRun i reads also wbad mk work more s).2) := by
  have h1 := (view_touches i.stage i.beat reads s).symm ▸ h
  simp only [xuRun]
  repeat' split
  all_goals first
    | exact h
    | (rw [poisonAlso_view, poisonOut_view]; exact h1)
    | (refine hm _ _ (attempts_good _ _ _ _ _ (fun _ _ _ _ s hs => by rwa [hw]) (fun _ _ _ s hs => hs) _ _ _ _ ?_)
       rw [noteMissed_view, poisonAlso_view, poisonOut_view]; exact h1)

@[simp ↓] theorem putWords_good {K : List Instr} {U : Fuses} {A : Staged → Prop} {T : W64 → Prop} (o : Operand) (beat : Nat) (rep : Nat) (rows : List (List W32)) (s : State) (h : Good K U A T Canon (view s)) : Good K U A T Canon (view (putWords o beat rep rows s)) := by
  simp only [putWords]; repeat' (first | (simp [*]; done) | (refine good_foldl _ ?_ _ _ ?_) | (refine good_foldl_snd _ ?_ _ _ ?_) | split | intro _)

@[simp ↓] theorem elemWork_view (d : Desc) (i : Instn) (s : State) : view (elemWork d i s) = view s := by
  simp [elemWork]

@[simp ↓] theorem elemAfter_good {K : List Instr} {U : Fuses} {A : Staged → Prop} {T : W64 → Prop} (s0 : State) (d : Desc) (i : Instn) (s : State)
    (h : Good K U A T Canon (view s)) : Good K U A T Canon (view (elemAfter s0 d i s)) := by
  simp only [elemAfter]
  split
  · exact good_foldl _ (fun s x hs => putWords_good _ _ _ _ _ hs) _ _ h
  · exact h

@[simp ↓] theorem elemBody_good {K : List Instr} {U : Fuses} {A : Staged → Prop} {T : W64 → Prop} (_q : Nat) (r : Ring) (c : Cmd) (s : State) (h : Good K U A T Canon (view s)) :
    Good K U A T Canon (view (elemBody _q r c s).2) := by
  unfold elemBody
  exact xuRun_good _ _ _ _ _ _ _ (fun i s => elemWork_view _ i s) (fun i s hs => elemAfter_good _ _ i s hs) s h

@[simp ↓] theorem normWork_view (d : Desc) (i : Instn) (s : State) : view (normWork d i s) = view s := by
  simp [normWork]

@[simp ↓] theorem normAfter_good {K : List Instr} {U : Fuses} {A : Staged → Prop} {T : W64 → Prop} (s0 : State) (d : Desc) (i : Instn) (s : State)
    (h : Good K U A T Canon (view s)) : Good K U A T Canon (view (normAfter s0 d i s)) := by
  simp only [normAfter]
  split
  · exact good_foldl _ (fun s x hs => putWords_good _ _ _ _ _ hs) _ _ h
  · exact h

@[simp ↓] theorem normBody_good {K : List Instr} {U : Fuses} {A : Staged → Prop} {T : W64 → Prop} (_q : Nat) (r : Ring) (c : Cmd) (s : State) (h : Good K U A T Canon (view s)) :
    Good K U A T Canon (view (normBody _q r c s).2) := by
  unfold normBody
  exact xuRun_good _ _ _ _ _ _ _ (fun i s => normWork_view _ i s) (fun i s hs => normAfter_good _ _ i s hs) s h

@[simp ↓] theorem softmaxWork_view (d : Desc) (i : Instn) (s : State) : view (softmaxWork d i s) = view s := by
  simp [softmaxWork]

@[simp ↓] theorem softmaxBody_good {K : List Instr} {U : Fuses} {A : Staged → Prop} {T : W64 → Prop} (_q : Nat) (r : Ring) (c : Cmd) (s : State) (h : Good K U A T Canon (view s)) :
    Good K U A T Canon (view (softmaxBody _q r c s).2) := by
  unfold softmaxBody
  exact xuRun_good _ _ _ _ _ _ _ (fun i s => softmaxWork_view _ i s) (fun _ _ hs => hs) s h

@[simp ↓] theorem countHead_good {K : List Instr} {U : Fuses} {A : Staged → Prop} {T : W64 → Prop} {C : List Host.Cell → Prop} (i : Instn) (d : Desc) (stop : Option Nat) (again tiles : List Nat) (h : Nat)
    (before : List Head) (x : Head) (s : State) (hs : Good K U A T C (view s)) : Good K U A T C (view (countHead i d stop again tiles h before x s)) := by
  simp only [countHead]
  refine tilesProduct_good _ _ _ _ _ _ _ _ _ _ _ (good_foldl _ (fun s p hs => ?_) _ _ (tilesProduct_good _ _ _ _ _ _ _ _ _ _ _ hs))
  split
  · exact hs
  · rwa [xuWork_view]

@[simp ↓] theorem countP_view (cv : Conv) (f : Form) (row0 : Nat) (enc : List EncRow) (s : State) : view (countP cv f row0 enc s) = view s := by
  unfold countP; (repeat' split) <;> simp

@[simp ↓] theorem attendWork_good {K : List Instr} {U : Fuses} {A : Staged → Prop} {T : W64 → Prop} {C : List Host.Cell → Prop} (s0 : State) (i : Instn) (d : Desc) (retry : List Nat) (rg : Nat) (again : Bool)
    (rep : Nat) (stop : Option Nat) (s : State) (h : Good K U A T C (view s)) : Good K U A T C (view (attendWork s0 i d retry rg again rep stop s)) := by
  simp only [attendWork]
  split
  · rwa [emptyEpilogue_view]
  · exact good_foldl _ (fun a x ha => by rw [countP_view]; exact countHead_good _ _ _ _ _ _ _ _ _ ha) _ _ h

@[simp ↓] theorem attendBody_good {K : List Instr} {U : Fuses} {A : Staged → Prop} {T : W64 → Prop} (_q : Nat) (r : Ring) (c : Cmd) (s : State) (h : Good K U A T Canon (view s)) :
    Good K U A T Canon (view (attendBody _q r c s).2) := by
  simp only [attendBody]
  have h1 := fun st b l => (view_touches st b l s).symm ▸ h
  have h2 := fun st b l => takeTileFlags_good st _ (h1 st b l)
  repeat' split
  · exact h
  · rw [poisonOut_view]; exact h1 _ _ _
  · rw [poisonOut_view]; exact h2 _ _ _
  · rw [arrayEnd_view]
    refine attempts_good _ _ _ _ _ (fun _ _ _ _ s hs => attendWork_good _ _ _ _ _ _ _ _ s hs) (fun _ _ _ s hs => hs) _ _ _ _ ?_
    rw [noteMissed_view, poisonOut_view]; exact h2 _ _ _

@[simp ↓] theorem convertRun_good {K : List Instr} {U : Fuses} {A : Staged → Prop} {T : W64 → Prop} (d : Desc) (i : Instn) (s : State) (h : Good K U A T Canon (view s)) : Good K U A T Canon (view (convertRun d i s).2) := by
  simp only [convertRun]; repeat' (first | (simp (maxDischargeDepth := 99) [h, *]; done) | (refine good_foldl _ ?_ _ _ ?_) | (refine good_foldl_snd _ ?_ _ _ ?_) | (refine good_foldl_tri _ ?_ _ _ ?_) | split | intro _)

@[simp ↓] theorem convertBody_good {K : List Instr} {U : Fuses} {A : Staged → Prop} {T : W64 → Prop} (_q : Nat) (r : Ring) (c : Cmd) (s : State) (h : Good K U A T Canon (view s)) : Good K U A T Canon (view (convertBody _q r c s).2) := by
  simp only [convertBody]; repeat' (first | (simp (maxDischargeDepth := 99) [h, *]; done) | (refine good_foldl _ ?_ _ _ ?_) | (refine good_foldl_snd _ ?_ _ _ ?_) | (refine good_foldl_tri _ ?_ _ _ ?_) | split | intro _)

@[simp ↓] theorem addWeights_view (layer : Nat) (w : Weights) (s : State) : view (addWeights layer w s) = view s := by
  simp [addWeights]

@[simp ↓] theorem loadBody_view (_q : Nat) (r : Ring) (c : Cmd) (s : State) : view (loadBody _q r c s).2 = view s := by
  simp only [loadBody]; (repeat' split) <;> simp

@[simp ↓] theorem heat_view (key : Nat) (s : State) : view (heat key s) = view s := by simp [heat]

@[simp ↓] theorem heatFar_good {K : List Instr} {U : Fuses} {A : Staged → Prop} {T : W64 → Prop} (b : Tab) (page : Nat) (s : State) (h : Good K U A T Canon (view s)) : Good K U A T Canon (view (heatFar b page s)) := by
  simp (maxDischargeDepth := 99) [heatFar, h]

@[simp ↓] theorem heatRow_good {K : List Instr} {U : Fuses} {A : Staged → Prop} {T : W64 → Prop} (b : Tab) (again : Bool) (r : Nat) (s : State) (h : Good K U A T Canon (view s)) : Good K U A T Canon (view (heatRow b again r s)) := by
  simp only [heatRow]; repeat' (first | (simp (maxDischargeDepth := 99) [h, *]; done) | (refine good_foldl _ ?_ _ _ ?_) | (refine good_foldl_snd _ ?_ _ _ ?_) | (refine good_foldl_tri _ ?_ _ _ ?_) | split | intro _)

@[simp ↓] theorem heatAcc_view (b : Tab) (again : Bool) (r : Nat) (s : State) : view (heatAcc b again r s) = view s := by
  unfold heatAcc; (repeat' split) <;> simp

@[simp ↓] theorem touchList_view (o : Operand) (size beat rep n : Nat) (s : State) : view (touchList o size beat rep n s) = view s := by
  unfold touchList; (repeat' split) <;> simp

@[simp ↓] theorem countBad_view (stage rep : Nat) (items : List ListItem) (s : State) : view (countBad stage rep items s) = view s := by simp [countBad]

@[simp ↓] theorem noteWeight_view (x : EmbRun) (it : ListItem) (ew : Option Int) (s : State) : view (noteWeight x it ew s) = view s := by
  unfold noteWeight; (repeat' split) <;> simp

@[simp ↓] theorem countTerms_view (nbe : Nat) (narrow : List Bool) (ts : List Term) (s : State) : view (countTerms nbe narrow ts s) = view s := by
  simp [countTerms]

@[simp ↓] theorem countLookups_view (n : Nat) (s : State) : view (countLookups n s) = view s := by
  simp only [countLookups]; (repeat' split) <;> simp

@[simp ↓] theorem cacheRead_view (column a n : Nat) (s : State) : view (cacheRead column a n s) = view s := by simp [cacheRead]

@[simp ↓] theorem embReads_good {K : List Instr} {U : Fuses} {A : Staged → Prop} {T : W64 → Prop} (x : EmbRun) (ctr : Nat) (items : List ListItem) (s : State) (h : Good K U A T Canon (view s)) : Good K U A T Canon (view (embReads x ctr items s)) := by
  simp only [embReads]; repeat' (first | (simp (maxDischargeDepth := 99) [h, *]; done) | (refine good_foldl _ ?_ _ _ ?_) | (refine good_foldl_snd _ ?_ _ _ ?_) | (refine good_foldl_tri _ ?_ _ _ ?_) | split | intro _)

@[simp ↓] theorem poolPartial_view (x : EmbRun) (weighted : Bool) (nbe : Nat) (items : List ListItem) (ew : Option Int) (s : State) : view (poolPartial x weighted nbe items ew s).2 = view s := by
  simp [poolPartial]

@[simp ↓] theorem poolBag_good {K : List Instr} {U : Fuses} {A : Staged → Prop} {T : W64 → Prop} (x : EmbRun) (mode : Nat) (items : List ListItem) (s : State)
    (h : Good K U A T Canon (view s)) : Good K U A T Canon (view (poolBag x mode items s).2) := by
  simp only [poolBag]
  refine good_foldl_snd _ (fun a g ha => by rwa [poolPartial_view]) _ _ ?_
  split
  · exact good_foldl _ (fun s i hs => by rwa [noteWeight_view]) _ _ (embReads_good _ _ _ _ h)
  · exact embReads_good _ _ _ _ h

@[simp ↓] theorem embStore_good {K : List Instr} {U : Fuses} {A : Staged → Prop} {T : W64 → Prop} (x : EmbRun) (o : Operand) (rep : Nat) (unit : Nat → Nat → Nat)
    (rows : List (List F32)) (fuel rung n : Nat) (s : State) (h : Good K U A T Canon (view s)) :
    Good K U A T Canon (view (embStore x o rep unit rows fuel rung n s).2) := by
  induction fuel generalizing rung n s with
  | zero => exact h
  | succ fuel ih =>
    simp only [embStore]
    repeat' split
    all_goals first
      | exact h
      | exact storeRows_good _ _ _ (by rwa [markNonfinite_view, countConv_view])
      | (refine ih _ _ _ (raise_good _ _ _ ?_); first | rwa [countConv_view] | rwa [updStat_view, countConv_view])

@[simp ↓] theorem poisonListed_view (s0 : State) (x : EmbRun) (o : Operand) (rep : Nat) (rows : List Nat) (s : State) : view (poisonListed s0 x o rep rows s) = view s := by
  unfold poisonListed; (repeat' split) <;> simp

@[simp ↓] theorem gatherCopy_good {K : List Instr} {U : Fuses} {A : Staged → Prop} {T : W64 → Prop} (x : EmbRun) (o : Operand) (rep : Nat) (form : Form) (items : List ListItem) (s : State) (h : Good K U A T Canon (view s)) : Good K U A T Canon (view (gatherCopy x o rep form items s)) := by
  simp only [gatherCopy]; repeat' (first | (simp (maxDischargeDepth := 99) [h, *]; done) | (refine good_foldl _ ?_ _ _ ?_) | (refine good_foldl_snd _ ?_ _ _ ?_) | split | intro _)

@[simp ↓] theorem gatherRep_good {K : List Instr} {U : Fuses} {A : Staged → Prop} {T : W64 → Prop} (x : EmbRun) (d : Desc) (rep : Nat) (s : State) (h : Good K U A T Canon (view s)) :
    Good K U A T Canon (view (gatherRep x d rep s).2) := by
  simp only [gatherRep]
  rw [poisonListed_view]
  split
  · exact gatherCopy_good _ _ _ _ _ _ (embReads_good _ _ _ _ h)
  · exact embStore_good _ _ _ _ _ _ _ _ _ (embReads_good _ _ _ _ h)

@[simp ↓] theorem poolRep_good {K : List Instr} {U : Fuses} {A : Staged → Prop} {T : W64 → Prop} (x : EmbRun) (d : Desc) (rep : Nat) (s : State) (h : Good K U A T Canon (view s)) :
    Good K U A T Canon (view (poolRep x d rep s).2) := by
  simp only [poolRep]
  rw [poisonListed_view]
  refine embStore_good _ _ _ _ _ _ _ _ _ (good_foldl_snd _ (fun a g ha => ?_) _ _ h)
  exact poolBag_good _ _ _ _ ha

@[simp ↓] theorem scatterRow_view (x : EmbRun) (mode n nbe : Nat) (narrowG : Bool) (ew : Option Int) (g old : List F32) (i : ListItem) (s : State) : view (scatterRow x mode n nbe narrowG ew g old i s).2 = view s := by
  unfold scatterRow; (repeat' split) <;> simp

@[simp ↓] theorem scatterEntry_good {K : List Instr} {U : Fuses} {A : Staged → Prop} {T : W64 → Prop} (x : EmbRun) (mode : Nat) (n : Nat) (narrowG : Bool) (gBad : Bool) (ew : Option Int) (g : List F32) (i : ListItem) (s : State) (h : Good K U A T Canon (view s)) : Good K U A T Canon (view (scatterEntry x mode n narrowG gBad ew g i s).2) := by
  simp only [scatterEntry]; repeat' (first | (simp [*]; done) | (refine good_foldl _ ?_ _ _ ?_) | (refine good_foldl_snd _ ?_ _ _ ?_) | split | intro _)

@[simp ↓] theorem scatterBag_good {K : List Instr} {U : Fuses} {A : Staged → Prop} {T : W64 → Prop} (x : EmbRun) (d : Desc) (rep : Nat) (s0 : State) (acc : Bool × State) (p : List ListItem × Nat) (h : Good K U A T Canon (view acc.2)) : Good K U A T Canon (view (scatterBag x d rep s0 acc p).2) := by
  simp only [scatterBag]; repeat' (first | (simp (maxDischargeDepth := 99) [h, *]; done) | (refine good_foldl _ ?_ _ _ ?_) | (refine good_foldl_snd _ ?_ _ _ ?_) | split | intro _)

@[simp ↓] theorem scatterRep_good {K : List Instr} {U : Fuses} {A : Staged → Prop} {T : W64 → Prop} (x : EmbRun) (d : Desc) (rep : Nat) (s0 : State) (h : Good K U A T Canon (view s0)) : Good K U A T Canon (view (scatterRep x d rep s0).2) := by
  simp only [scatterRep]; repeat' (first | (simp (maxDischargeDepth := 99) [h, *]; done) | (refine good_foldl _ ?_ _ _ ?_) | (refine good_foldl_snd _ ?_ _ _ ?_) | (refine good_foldl_tri _ ?_ _ _ ?_) | split | intro _)

@[simp ↓] theorem embTouch_view (d : Desc) (x : EmbRun) (rep : Nat) (s : State) : view (embTouch d x rep s) = view s := by
  unfold embTouch; (repeat' split) <;> simp

theorem embReplicas_good {K : List Instr} {U : Fuses} {A : Staged → Prop} {T : W64 → Prop} {C : List Host.Cell → Prop} (one : EmbRun → Desc → Nat → State → EmbOut × State)
    (ho : ∀ x d n s, Good K U A T C (view s) → Good K U A T C (view (one x d n s).2)) (d : Desc) (x : EmbRun) (reps : List Nat) (s : State)
    (h : Good K U A T C (view s)) : Good K U A T C (view (embReplicas one d x reps s).2) := by
  simp only [embReplicas]
  refine good_foldl _ (fun s x hs => by rwa [count_view]) _ _ (good_foldl_snd _ (fun a g ha => ?_) _ _ h)
  rw [countBad_view]
  exact ho _ _ _ _ (by rwa [countLookups_view, embTouch_view])

theorem embBody_good {K : List Instr} {U : Fuses} {A : Staged → Prop} {T : W64 → Prop} {C : List Host.Cell → Prop} (scatter : Bool) (seedTensor : State → Desc → Nat)
    (one : EmbRun → Desc → Nat → State → EmbOut × State)
    (ho : ∀ x d n s, Good K U A T C (view s) → Good K U A T C (view (one x d n s).2)) (q : Nat) (r : Ring) (c : Cmd) (s : State)
    (h : Good K U A T C (view s)) : Good K U A T C (view (embBody scatter seedTensor one q r c s).2) := by
  have hp : ∀ (i : Instn) (a b : Nat), Good K U A T C (view (if scatter then s else poisonOut i a b s)) := fun i a b => by
    split
    · exact h
    · rwa [poisonOut_view]
  simp only [embBody]
  split
  · exact h
  · split
    · exact h
    · split
      · exact hp _ _ _
      · exact embReplicas_good one ho _ _ _ _ (hp _ _ _)

@[simp ↓] theorem writeBack_good {K : List Instr} {U : Fuses} {A : Staged → Prop} {T : W64 → Prop} (e : LogEntry) (s : State) (h : Good K U A T Canon (view s)) : Good K U A T Canon (view (writeBack e s)) := by
  simp only [writeBack]; repeat' (first | (simp [*]; done) | (refine good_foldl _ ?_ _ _ ?_) | (refine good_foldl_snd _ ?_ _ _ ?_) | split | intro _)

@[simp ↓] theorem writeBackRow_good {K : List Instr} {U : Fuses} {A : Staged → Prop} {T : W64 → Prop} (table : Nat) (row : Nat) (s : State) (h : Good K U A T Canon (view s)) : Good K U A T Canon (view (writeBackRow table row s)) := by
  simp only [writeBackRow]; repeat' (first | (simp [*]; done) | (refine good_foldl _ ?_ _ _ ?_) | (refine good_foldl_snd _ ?_ _ _ ?_) | split | intro _)

@[simp ↓] theorem nearScrub_good {K : List Instr} {U : Fuses} {A : Staged → Prop} {T : W64 → Prop} {C : List Host.Cell → Prop} (column : Nat) (word : Nat) (found : EccFinding) (s : State) (h : Good K U A T C (view s)) : Good K U A T C (view (nearScrub column word found s)) := by
  simp only [nearScrub]; repeat' (first | (simp (maxDischargeDepth := 99) [h, *]; done) | (refine good_foldl _ ?_ _ _ ?_) | (refine good_foldl_snd _ ?_ _ _ ?_) | split | intro _)

@[simp ↓] theorem farScrub_good {K : List Instr} {U : Fuses} {A : Staged → Prop} {T : W64 → Prop} {C : List Host.Cell → Prop} (channel : Nat) (sector : Nat) (found : EccFinding) (s : State) (h : Good K U A T C (view s)) : Good K U A T C (view (farScrub channel sector found s)) := by
  simp only [farScrub]; repeat' (first | (simp (maxDischargeDepth := 99) [h, *]; done) | (refine good_foldl _ ?_ _ _ ?_) | (refine good_foldl_snd _ ?_ _ _ ?_) | split | intro _)

@[simp ↓] theorem applyRecipe_good {K : List Instr} {U : Fuses} {A : Staged → Prop} {T : W64 → Prop} {C : List Host.Cell → Prop} (step : Option W32) (id : Nat) (rc : BitVec 512) (s : State) (h : Good K U A T C (view s)) : Good K U A T C (view (applyRecipe step id rc s)) := by
  simp (maxDischargeDepth := 99) [applyRecipe, h]

@[simp ↓] theorem applyRecipes_good {K : List Instr} {U : Fuses} {A : Staged → Prop} {T : W64 → Prop} {C : List Host.Cell → Prop} (step : Option W32) (s : State) (h : Good K U A T C (view s)) : Good K U A T C (view (applyRecipes step s)) := by
  simp only [applyRecipes]; repeat' (first | (simp (maxDischargeDepth := 99) [h, *]; done) | (refine good_foldl _ ?_ _ _ ?_) | (refine good_foldl_snd _ ?_ _ _ ?_) | split | intro _)

@[simp ↓] theorem setRecipeBody_good {K : List Instr} {U : Fuses} {A : Staged → Prop} {T : W64 → Prop} {C : List Host.Cell → Prop} (_q : Nat) (r : Ring) (c : Cmd) (s : State) (h : Good K U A T C (view s)) : Good K U A T C (view (setRecipeBody _q r c s).2) := by
  simp only [setRecipeBody]; repeat' (first | (simp (maxDischargeDepth := 99) [h, *]; done) | (refine good_foldl _ ?_ _ _ ?_) | (refine good_foldl_snd _ ?_ _ _ ?_) | split | intro _)

@[simp ↓] theorem readStatsBody_good {K : List Instr} {U : Fuses} {A : Staged → Prop} {T : W64 → Prop} {C : List Host.Cell → Prop} (_q : Nat) (r : Ring) (c : Cmd) (s : State) (h : Good K U A T C (view s)) : Good K U A T C (view (readStatsBody _q r c s).2) := by
  simp only [readStatsBody]; repeat' (first | (simp [*]; done) | (refine good_foldl _ ?_ _ _ ?_) | (refine good_foldl_snd _ ?_ _ _ ?_) | split | intro _)

@[simp ↓] theorem shadowCfgBody_view (x1 : Nat) (x2 : Ring) (c : Cmd) (s : State) : view (shadowCfgBody x1 x2 c s).2 = view s := by simp [shadowCfgBody]

@[simp ↓] theorem applyShadow_view (s : State) : view (applyShadow s) = view s := by simp [applyShadow]

@[simp ↓] theorem halveFar_good {K : List Instr} {U : Fuses} {A : Staged → Prop} {T : W64 → Prop} (s : State) (h : Good K U A T Canon (view s)) : Good K U A T Canon (view (halveFar s)) := by
  simp only [halveFar]; repeat' (first | (simp (maxDischargeDepth := 99) [h, *]; done) | (refine good_foldl _ ?_ _ _ ?_) | (refine good_foldl_snd _ ?_ _ _ ?_) | (refine good_foldl_tri _ ?_ _ _ ?_) | split | intro _)

@[simp ↓] theorem closeWindow_good {K : List Instr} {U : Fuses} {A : Staged → Prop} {T : W64 → Prop} (step : W64) (s : State) (h : Good K U A T Canon (view s)) : Good K U A T Canon (view (closeWindow step s)) := by
  simp only [closeWindow]; repeat' (first | (simp (maxDischargeDepth := 99) [h, *]; done) | (refine good_foldl _ ?_ _ _ ?_) | (refine good_foldl_snd _ ?_ _ _ ?_) | (refine good_foldl_tri _ ?_ _ _ ?_) | split | intro _)

@[simp ↓] theorem raisePrecision_good {K : List Instr} {U : Fuses} {A : Staged → Prop} {T : W64 → Prop} {C : List Host.Cell → Prop} (id : Nat) (cause : Nat) (step : W32) (s : State) (h : Good K U A T C (view s)) : Good K U A T C (view (raisePrecision id cause step s)) := by
  simp only [raisePrecision]; repeat' (first | (simp (maxDischargeDepth := 99) [h, *]; done) | (refine good_foldl _ ?_ _ _ ?_) | (refine good_foldl_snd _ ?_ _ _ ?_) | split | intro _)

@[simp ↓] theorem raiseAlarms_good {K : List Instr} {U : Fuses} {A : Staged → Prop} {T : W64 → Prop} {C : List Host.Cell → Prop} (step : W32) (s : State) (h : Good K U A T C (view s)) : Good K U A T C (view (raiseAlarms step s)) := by
  simp only [raiseAlarms]; repeat' (first | (simp (maxDischargeDepth := 99) [h, *]; done) | (refine good_foldl _ ?_ _ _ ?_) | (refine good_foldl_snd _ ?_ _ _ ?_) | split | intro _)

@[simp ↓] theorem closeRecords_good {K : List Instr} {U : Fuses} {A : Staged → Prop} {T : W64 → Prop} {C : List Host.Cell → Prop} (step : W32) (s : State) (h : Good K U A T C (view s)) : Good K U A T C (view (closeRecords step s)) := by
  simp (maxDischargeDepth := 99) [closeRecords, h]

@[simp ↓] theorem fixDecisions_good {K : List Instr} {U : Fuses} {A : Staged → Prop} {T : W64 → Prop} {C : List Host.Cell → Prop} (f : VoteFrame) (s : State) (h : Good K U A T C (view s)) : Good K U A T C (view (fixDecisions f s)) := by
  simp only [fixDecisions]; repeat' (first | (simp (maxDischargeDepth := 99) [h, *]; done) | (refine good_foldl _ ?_ _ _ ?_) | (refine good_foldl_snd _ ?_ _ _ ?_) | split | intro _)

@[simp ↓] theorem applyDecisions_view (s : State) : view (applyDecisions s) = view s := by simp [applyDecisions]

@[simp ↓] theorem putScale_good {K : List Instr} {U : Fuses} {A : Staged → Prop} {T : W64 → Prop} (a : Nat) (sc : F32) (z : Nat) (s : State) (h : Good K U A T Canon (view s)) : Good K U A T Canon (view (putScale a sc z s)) := by
  simp [putScale, h]

@[simp ↓] theorem adaptTensor_good {K : List Instr} {U : Fuses} {A : Staged → Prop} {T : W64 → Prop} (p : TensorPl) (s : State) (h : Good K U A T Canon (view s)) : Good K U A T Canon (view (adaptTensor p s)) := by
  simp only [adaptTensor]; repeat' (first | (simp [*]; done) | (refine good_foldl _ ?_ _ _ ?_) | (refine good_foldl_snd _ ?_ _ _ ?_) | split | intro _)

@[simp ↓] theorem adaptScales_good {K : List Instr} {U : Fuses} {A : Staged → Prop} {T : W64 → Prop} (s : State) (h : Good K U A T Canon (view s)) : Good K U A T Canon (view (adaptScales s)) := by
  simp only [adaptScales]; repeat' (first | (simp [*]; done) | (refine good_foldl _ ?_ _ _ ?_) | (refine good_foldl_snd _ ?_ _ _ ?_) | split | intro _)

@[simp ↓] theorem placeFail_view (reason : Nat) (s : State) : view (placeFail reason s) = view s := by simp [placeFail]

@[simp ↓] theorem planState_view (s : State) (imgs : SMap Image) : view (planState s imgs) = view s := by simp [planState]

@[simp ↓] theorem putDir_good {K : List Instr} {U : Fuses} {A : Staged → Prop} {T : W64 → Prop} (table : Nat) (page : Nat) (e : DirEnt) (s : State) (h : Good K U A T Canon (view s)) : Good K U A T Canon (view (putDir table page e s)) := by
  simp only [putDir]; repeat' (first | (simp [*]; done) | (refine good_foldl _ ?_ _ _ ?_) | (refine good_foldl_snd _ ?_ _ _ ?_) | split | intro _)

@[simp ↓] theorem devMove_good {K : List Instr} {U : Fuses} {A : Staged → Prop} {T : W64 → Prop} (moves : List (Nat × Nat × Nat)) (s : State) (h : Good K U A T Canon (view s)) : Good K U A T Canon (view (devMove moves s)) := by
  simp [devMove, h]

@[simp ↓] theorem placeScales_good {K : List Instr} {U : Fuses} {A : Staged → Prop} {T : W64 → Prop} (s0 : State) (q : Placement) (s : State) (h : Good K U A T Canon (view s)) : Good K U A T Canon (view (placeScales s0 q s)) := by
  simp only [placeScales]; repeat' (first | (simp [*]; done) | (refine good_foldl _ ?_ _ _ ?_) | (refine good_foldl_snd _ ?_ _ _ ?_) | split | intro _)

@[simp ↓] theorem placeRecords_good {K : List Instr} {U : Fuses} {A : Staged → Prop} {T : W64 → Prop} (s0 : State) (q : Placement) (s : State) (h : Good K U A T Canon (view s)) : Good K U A T Canon (view (placeRecords s0 q s)) := by
  simp only [placeRecords]; repeat' (first | (simp [*]; done) | (refine good_foldl _ ?_ _ _ ?_) | (refine good_foldl_snd _ ?_ _ _ ?_) | split | intro _)

@[simp ↓] theorem placeGradients_good {K : List Instr} {U : Fuses} {A : Staged → Prop} {T : W64 → Prop} (s0 : State) (q : Placement) (s : State) (h : Good K U A T Canon (view s)) : Good K U A T Canon (view (placeGradients s0 q s)) := by
  simp only [placeGradients]; repeat' (first | (simp (maxDischargeDepth := 99) [h, *]; done) | (refine good_foldl _ ?_ _ _ ?_) | (refine good_foldl_snd _ ?_ _ _ ?_) | (refine good_foldl_tri _ ?_ _ _ ?_) | split | intro _)

@[simp ↓] theorem placeStreams_view (q : Placement) (s : State) : view (placeStreams q s) = view s := by
  simp only [placeStreams]; (repeat' (first | rfl | split | (refine view_foldl_to _ _ _ ?_ ?_) | (refine view_foldl_snd_to _ _ _ ?_ ?_) | intro _)); all_goals simp

@[simp ↓] theorem loseTiles_view (s0 : State) (q : Placement) (s : State) : view (loseTiles s0 q s) = view s := by simp [loseTiles]

@[simp ↓] theorem writeBackAll_good {K : List Instr} {U : Fuses} {A : Staged → Prop} {T : W64 → Prop} (s : State) (h : Good K U A T Canon (view s)) : Good K U A T Canon (view (writeBackAll s)) := by
  simp only [writeBackAll]; repeat' (first | (simp (maxDischargeDepth := 99) [h, *]; done) | (refine good_foldl _ ?_ _ _ ?_) | (refine good_foldl_snd _ ?_ _ _ ?_) | split | intro _)

@[simp ↓] theorem offGroups_good {K : List Instr} {U : Fuses} {A : Staged → Prop} {T : W64 → Prop} (s : State) (h : Good K U A T Canon (view s)) :
    Good K U A T Canon (view (offGroups s)) := good_filter_cells _ h

@[simp ↓] theorem install_good {K : List Instr} {U : Fuses} {A : Staged → Prop} {T : W64 → Prop} (q : Placement) (s : State) (h : Good K U A T Canon (view s)) : Good K U A T Canon (view (install q s)) := by
  simp only [install]
  rw [count_view]
  refine offGroups_good _ ?_
  rw [loseTiles_view, placeStreams_view]
  refine placeGradients_good _ _ _ (placeRecords_good _ _ _ (placeScales_good _ _ _ ?_))
  exact good_foldl _ (fun s e hs => putDir_good _ _ _ _ hs) _ _ (devMove_good _ _ (writeBackAll_good _ h))

@[simp ↓] theorem removePlacement_good {K : List Instr} {U : Fuses} {A : Staged → Prop} {T : W64 → Prop} (s : State) (h : Good K U A T Canon (view s)) :
    Good K U A T Canon (view (removePlacement s)) := good_filter_cells _ h

@[simp ↓] theorem retireCondemned_good {K : List Instr} {U : Fuses} {A : Staged → Prop} {T : W64 → Prop} {C : List Host.Cell → Prop} (s : State) (h : Good K U A T C (view s)) : Good K U A T C (view (retireCondemned s)) := by
  simp only [retireCondemned]; repeat' (first | (simp (maxDischargeDepth := 99) [h, *]; done) | (refine good_foldl _ ?_ _ _ ?_) | (refine good_foldl_snd _ ?_ _ _ ?_) | split | intro _)

@[simp ↓] theorem takeAsked_view (s : State) : view (takeAsked s) = view s := by simp [takeAsked]

@[simp ↓] theorem resendReport_good {K : List Instr} {U : Fuses} {A : Staged → Prop} {T : W64 → Prop} {C : List Host.Cell → Prop} (q : Placement) (s : State) (h : Good K U A T C (view s)) : Good K U A T C (view (resendReport q s)) := by
  simp only [resendReport]; repeat' (first | (simp (maxDischargeDepth := 99) [h, *]; done) | (refine good_foldl _ ?_ _ _ ?_) | (refine good_foldl_snd _ ?_ _ _ ?_) | split | intro _)

@[simp ↓] theorem replaceWith_good {K : List Instr} {U : Fuses} {A : Staged → Prop} {T : W64 → Prop} (imgs : SMap Image) (resend : Bool) (s : State) (h : Good K U A T Canon (view s)) :
    Good K U A T Canon (view (replaceWith imgs resend s)) := by
  simp only [replaceWith]
  split
  · exact raise_good _ _ _ (removePlacement_good _ h)
  · split
    · rwa [placeFail_view]
    · refine raise_good _ _ _ (install_good _ _ ?_)
      split
      · exact resendReport_good _ _ h
      · exact h

@[simp ↓] theorem retireNow_good {K : List Instr} {U : Fuses} {A : Staged → Prop} {T : W64 → Prop} (s : State) (h : Good K U A T Canon (view s)) :
    Good K U A T Canon (view (retireNow s)) := by
  simp only [retireNow]
  repeat' split
  all_goals first | exact h | exact retireCondemned_good _ h | exact replaceWith_good _ _ _ (retireCondemned_good _ h)

@[simp ↓] theorem replaceAsked_good {K : List Instr} {U : Fuses} {A : Staged → Prop} {T : W64 → Prop} (s : State) (h : Good K U A T Canon (view s)) :
    Good K U A T Canon (view (replaceAsked s)) := by
  simp only [replaceAsked]
  repeat' split
  all_goals first | rwa [takeAsked_view] | exact replaceWith_good _ _ _ (by rwa [takeAsked_view])

@[simp ↓] theorem replaceNow_good {K : List Instr} {U : Fuses} {A : Staged → Prop} {T : W64 → Prop} (s : State) (h : Good K U A T Canon (view s)) : Good K U A T Canon (view (replaceNow s)) := by
  simp only [replaceNow]; repeat' (first | (simp (maxDischargeDepth := 99) [h, *]; done) | (refine good_foldl _ ?_ _ _ ?_) | (refine good_foldl_snd _ ?_ _ _ ?_) | split | intro _)

@[simp ↓] theorem askReplace_view (imgs : SMap Image) (s : State) : view (askReplace imgs s) = view s := by simp [askReplace]

@[simp ↓] theorem loadGraphBody_view (_q : Nat) (r : Ring) (c : Cmd) (s : State) : view (loadGraphBody _q r c s).2 = view s := by
  simp only [loadGraphBody]; (repeat' split) <;> simp

@[simp ↓] theorem writeReport_good {K : List Instr} {U : Fuses} {A : Staged → Prop} {T : W64 → Prop} {C : List Host.Cell → Prop} (r : Ring) (q : Placement) (a : W64) (n : Nat) (s : State) (h : Good K U A T C (view s)) : Good K U A T C (view (writeReport r q a n s).2) := by
  simp only [writeReport]; repeat' (first | (simp [*]; done) | (refine good_foldl _ ?_ _ _ ?_) | (refine good_foldl_snd _ ?_ _ _ ?_) | split | intro _)

theorem writeReport_out {r : Ring} {q : Placement} {a : W64} {n : Nat} {s s' : State} {o : Phase × State}
    (h : writeReport r q a n s = (some o, s')) : view o.2 = view s := by
  simp only [writeReport] at h
  split at h
  · cases h; exact placeFail_view _ _
  · split at h <;> cases h
    rfl

@[simp ↓] theorem placeBody_good {K : List Instr} {U : Fuses} {A : Staged → Prop} {T : W64 → Prop} (_q : Nat) (r : Ring) (c : Cmd) (s : State) (h : Good K U A T Canon (view s)) :
    Good K U A T Canon (view (placeBody _q r c s).2) := by
  unfold placeBody
  split
  · rwa [placeFail_view]
  · rename_i q _
    have hw := writeReport_good r q c.desc.w2 (bits c.desc.w3 31 0) s h
    split
    · rename_i o s' he
      exact writeReport_out he ▸ h
    · rename_i s' he
      rw [he] at hw
      split
      · exact install_good _ _ hw
      · rwa [askReplace_view]

@[simp ↓] theorem replaceBody_good {K : List Instr} {U : Fuses} {A : Staged → Prop} {T : W64 → Prop} {C : List Host.Cell → Prop} (_q : Nat) (r : Ring) (c : Cmd) (s : State) (h : Good K U A T C (view s)) :
    Good K U A T C (view (replaceBody _q r c s).2) := by
  unfold replaceBody
  dsimp only
  split
  · split
    · exact h
    · split
      · rwa [placeFail_view]
      · split
        · split
          · exact h
          · split
            · rwa [placeFail_view]
            · rename_i q _
              have hw := writeReport_good r q c.desc.w4 (bits c.desc.w3 31 0) s h
              split
              · rename_i o s' he
                exact writeReport_out he ▸ h
              · rename_i s' he
                rw [he] at hw
                rw [askReplace_view]
                exact hw
        · rwa [placeFail_view]
  · exact h

@[simp ↓] theorem unloadBody_good {K : List Instr} {U : Fuses} {A : Staged → Prop} {T : W64 → Prop} {C : List Host.Cell → Prop} (_q : Nat) (x1 : Ring) (c : Cmd) (s : State) (h : Good K U A T C (view s)) : Good K U A T C (view (unloadBody _q x1 c s).2) := by
  simp only [unloadBody]; repeat' (first | (simp (maxDischargeDepth := 99) [h, *]; done) | (refine good_foldl _ ?_ _ _ ?_) | (refine good_foldl_snd _ ?_ _ _ ?_) | split | intro _)

@[simp ↓] theorem pinBody_view (_q : Nat) (x1 : Ring) (c : Cmd) (s : State) : view (pinBody _q x1 c s).2 = view s := by simp [pinBody]

@[simp ↓] theorem switchGroup_good {K : List Instr} {U : Fuses} {A : Staged → Prop} {T : W64 → Prop} (table : Nat) (page : Nat) (e : DirEnt) (s : State) (h : Good K U A T Canon (view s)) : Good K U A T Canon (view (switchGroup table page e s)) := by
  simp [switchGroup, h]

@[simp ↓] theorem traceMigrate_good {K : List Instr} {U : Fuses} {A : Staged → Prop} {T : W64 → Prop} {C : List Host.Cell → Prop} (c : CopyJob) (outcome : Nat) (s : State) (h : Good K U A T C (view s)) : Good K U A T C (view (traceMigrate c outcome s)) := by
  simp [traceMigrate, h]

@[simp ↓] theorem endCopy_good {K : List Instr} {U : Fuses} {A : Staged → Prop} {T : W64 → Prop} (held : Bool) (c : CopyJob) (s : State) (h : Good K U A T Canon (view s)) : Good K U A T Canon (view (endCopy held c s)) := by
  simp only [endCopy]; repeat' (first | (simp (maxDischargeDepth := 99) [h, *]; done) | (refine good_foldl _ ?_ _ _ ?_) | (refine good_foldl_snd _ ?_ _ _ ?_) | (refine good_foldl_tri _ ?_ _ _ ?_) | split | intro _)

@[simp ↓] theorem ageHolds_good {K : List Instr} {U : Fuses} {A : Staged → Prop} {T : W64 → Prop} (before : SMap DirEnt) (s : State) (h : Good K U A T Canon (view s)) : Good K U A T Canon (view (ageHolds before s)) := by
  simp only [ageHolds]; repeat' (first | (simp [*]; done) | (refine good_foldl _ ?_ _ _ ?_) | (refine good_foldl_snd _ ?_ _ _ ?_) | split | intro _)

@[simp ↓] theorem applyPin_good {K : List Instr} {U : Fuses} {A : Staged → Prop} {T : W64 → Prop} (hinted : Nat → Bool) (s : State) (p : Nat × Nat × Nat × Bool)
    (h : Good K U A T Canon (view s)) : Good K U A T Canon (view (applyPin hinted s p)) :=
  good_foldl _ (fun _ _ hs => putDir_good _ _ _ _ hs) _ _ h

@[simp ↓] theorem applyPins_good {K : List Instr} {U : Fuses} {A : Staged → Prop} {T : W64 → Prop} (s : State) (h : Good K U A T Canon (view s)) : Good K U A T Canon (view (applyPins s)) := by
  have h1 : ∀ f l, Good K U A T Canon (view (List.foldl (applyPin f) s l)) := fun f l => good_foldl _ (fun s p hs => applyPin_good f s p hs) _ _ h
  unfold applyPins
  extract_lets hinted s'
  have h2 : Good K U A T Canon (view s') := h1 _ _
  clear_value s'
  exact h2

@[simp ↓] theorem startCopy_view (seed : W64) (acc : Alloc × State) (g : Nat × Nat) : view (startCopy seed acc g).2 = view acc.2 := by
  simp only [startCopy]; repeat' (first | (simp; done) | (refine view_foldl_to _ _ _ (fun _ _ => ?_) ?_) | (refine view_foldl_snd_to _ _ _ (fun _ _ => ?_) ?_) | split)

@[simp ↓] theorem startCopies_view (s : State) : view (startCopies s) = view s := by simp [startCopies]

@[simp ↓] theorem migrateEdge_good {K : List Instr} {U : Fuses} {A : Staged → Prop} {T : W64 → Prop} (held : Bool) (s : State) (h : Good K U A T Canon (view s)) : Good K U A T Canon (view (migrateEdge held s)) := by
  simp only [migrateEdge]; repeat' (first | (simp (maxDischargeDepth := 99) [h, *]; done) | (refine good_foldl _ ?_ _ _ ?_) | (refine good_foldl_snd _ ?_ _ _ ?_) | (refine good_foldl_tri _ ?_ _ _ ?_) | split | intro _)

@[simp ↓] theorem runSchedules_view (n : Nat) (s : State) : view (runSchedules n s) = view s := by simp [runSchedules]

@[simp ↓] theorem scheduleBody_view (_q : Nat) (r : Ring) (c : Cmd) (s : State) : view (scheduleBody _q r c s).2 = view s := by
  simp [scheduleBody]

@[simp ↓] theorem snapshotRules_view (s : State) : view (snapshotRules s) = view s := by simp [snapshotRules]

@[simp ↓] theorem putStrips_good {K : List Instr} {U : Fuses} {A : Staged → Prop} {T : W64 → Prop} (a : Nat) (k : Nat) (xs : List F32) (s : State) (h : Good K U A T Canon (view s)) : Good K U A T Canon (view (putStrips a k xs s)) := by
  simp only [putStrips]; repeat' (first | (simp [*]; done) | (refine good_foldl _ ?_ _ _ ?_) | (refine good_foldl_snd _ ?_ _ _ ?_) | split | intro _)

@[simp ↓] theorem putExts_good {K : List Instr} {U : Fuses} {A : Staged → Prop} {T : W64 → Prop} (a : Nat) (k : Nat) (bs : List Byte) (s : State) (h : Good K U A T Canon (view s)) : Good K U A T Canon (view (putExts a k bs s)) := by
  simp only [putExts]; repeat' (first | (simp [*]; done) | (refine good_foldl _ ?_ _ _ ?_) | (refine good_foldl_snd _ ?_ _ _ ?_) | split | intro _)

@[simp ↓] theorem raiseFallback_good {K : List Instr} {U : Fuses} {A : Staged → Prop} {T : W64 → Prop} {C : List Host.Cell → Prop} (layer : Nat) (s : State) (f : Nat × Nat) (h : Good K U A T C (view s)) : Good K U A T C (view (raiseFallback layer s f)) := by
  simp (maxDischargeDepth := 99) [raiseFallback, h]

@[simp ↓] theorem putBlock_good {K : List Instr} {U : Fuses} {A : Staged → Prop} {T : W64 → Prop} (l : LayerEnt) (p : LayerPl) (x : LayerState) (s : State) (b : (Nat × Nat × Nat × Nat) × Nat) (h : Good K U A T Canon (view s)) : Good K U A T Canon (view (putBlock l p x s b)) := by
  simp (maxDischargeDepth := 99) [putBlock, h]

@[simp ↓] theorem putLayer_good {K : List Instr} {U : Fuses} {A : Staged → Prop} {T : W64 → Prop} (l : LayerEnt) (p : LayerPl) (x : LayerState) (s : State) (h : Good K U A T Canon (view s)) : Good K U A T Canon (view (putLayer l p x s)) := by
  simp only [putLayer]; repeat' (first | (simp (maxDischargeDepth := 99) [h, *]; done) | (refine good_foldl _ ?_ _ _ ?_) | (refine good_foldl_snd _ ?_ _ _ ?_) | (refine good_foldl_tri _ ?_ _ _ ?_) | split | intro _)

@[simp ↓] theorem stageUpdate_good {K : List Instr} {U : Fuses} {A : Staged → Prop} {T : W64 → Prop} (r : Ring) (c : Cmd) (layer : Nat) (d : BitVec 512) (l : LayerEnt)
    (p : LayerPl) (s : State) (h : Good K U A T Canon (view s)) : Good K U A T Canon (view (stageUpdate r c layer d l p s).2) := by
  have h1 : ∀ (l : List (Nat × Nat)) (s' : State), Good K U A T Canon (view s') → Good K U A T Canon (view (l.foldl (raiseFallback layer) s')) :=
    fun l s' hs => good_foldl _ (fun s x hs => raiseFallback_good _ s x hs) _ _ hs
  have h2 := fun x => putLayer_good l p x s h
  simp only [stageUpdate]
  split
  · rw [voteNonfinite_view, formDigest_view]; exact h1 _ _ (h2 _)
  · rw [formDigest_view]; exact h1 _ _ (h2 _)

@[simp ↓] theorem updateBody_good {K : List Instr} {U : Fuses} {A : Staged → Prop} {T : W64 → Prop} (_q : Nat) (r : Ring) (c : Cmd) (s : State) (h : Good K U A T Canon (view s)) : Good K U A T Canon (view (updateBody _q r c s).2) := by
  simp only [updateBody]; repeat' (first | (simp (maxDischargeDepth := 99) [h, *]; done) | (refine good_foldl _ ?_ _ _ ?_) | (refine good_foldl_snd _ ?_ _ _ ?_) | (refine good_foldl_tri _ ?_ _ _ ?_) | split | intro _)

@[simp ↓] theorem commitLayer_view (layer : Nat) (s : State) : view (commitLayer layer s) = view s := by simp [commitLayer]

@[simp ↓] theorem startRoots_good {K : List Instr} {U : Fuses} {A : Staged → Prop} {T : W64 → Prop} (d : BitVec 512) (l : LayerEnt) (p : LayerPl) (j : Nat) (s : State) (b : (Nat × Nat × Nat × Nat) × Nat) (h : Good K U A T Canon (view s)) : Good K U A T Canon (view (startRoots d l p j s b)) := by
  simp only [startRoots]; repeat' (first | (simp (maxDischargeDepth := 99) [h, *]; done) | (refine good_foldl _ ?_ _ _ ?_) | (refine good_foldl_snd _ ?_ _ _ ?_) | (refine good_foldl_tri _ ?_ _ _ ?_) | split | intro _)

@[simp ↓] theorem commitRoots_good {K : List Instr} {U : Fuses} {A : Staged → Prop} {T : W64 → Prop} (layer : Nat) (s : State) (h : Good K U A T Canon (view s)) : Good K U A T Canon (view (commitRoots layer s)) := by
  simp only [commitRoots]; repeat' (first | (simp (maxDischargeDepth := 99) [h, *]; done) | (refine good_foldl _ ?_ _ _ ?_) | (refine good_foldl_snd _ ?_ _ _ ?_) | (refine good_foldl_tri _ ?_ _ _ ?_) | split | intro _)

@[simp ↓] theorem setRoots_view (t : Nat) (f : List Root → List Root) (s : State) : view (setRoots t f s) = view s := by simp [setRoots]

@[simp ↓] theorem noteRepeats_good {K : List Instr} {U : Fuses} {A : Staged → Prop} {T : W64 → Prop} {C : List Host.Cell → Prop} (b : Tab) (unit rung n : Nat) (s : State) (h : Good K U A T C (view s)) : Good K U A T C (view (noteRepeats b unit rung n s)) := by
  simp only [noteRepeats]; repeat' (first | (simp (maxDischargeDepth := 99) [h, *]; done) | (refine good_foldl _ ?_ _ _ ?_) | (refine good_foldl_snd _ ?_ _ _ ?_) | (refine good_foldl_tri _ ?_ _ _ ?_) | split | intro _)

@[simp ↓] theorem countRow_view (s0 : State) (b : Tab) (unit : Nat) (row : Nat) (e : EncRow) (s : State) : view (countRow s0 b unit row e s) = view s := by
  simp [countRow]

@[simp ↓] theorem updateRow_good {K : List Instr} {U : Fuses} {A : Staged → Prop} {T : W64 → Prop} (d : BitVec 512) (ouvut : Bool) (b : Tab) (e : DirEnt) (row : Nat) (s : State) (h : Good K U A T Canon (view s)) : Good K U A T Canon (view (updateRow d ouvut b e row s).2) := by
  simp only [updateRow]; repeat' (first | (simp (maxDischargeDepth := 99) [h, *]; done) | (refine good_foldl _ ?_ _ _ ?_) | (refine good_foldl_snd _ ?_ _ _ ?_) | (refine good_foldl_tri _ ?_ _ _ ?_) | split | intro _)

@[simp ↓] theorem rowStep_good {K : List Instr} {U : Fuses} {A : Staged → Prop} {T : W64 → Prop} (d : BitVec 512) (ouvut : Bool) (b : Tab) (acc : RowOut × State) (row : Nat) (h : Good K U A T Canon (view acc.2)) : Good K U A T Canon (view (rowStep d ouvut b acc row).2) := by
  simp only [rowStep]; repeat' (first | (simp (maxDischargeDepth := 99) [h, *]; done) | (refine good_foldl _ ?_ _ _ ?_) | (refine good_foldl_snd _ ?_ _ _ ?_) | (refine good_foldl_tri _ ?_ _ _ ?_) | split | intro _)

@[simp ↓] theorem rowRun_good {K : List Instr} {U : Fuses} {A : Staged → Prop} {T : W64 → Prop} (r : Ring) (c : Cmd) (d : BitVec 512) (b : Tab) (items : List (List ListItem))
    (s : State) (h : Good K U A T Canon (view s)) : Good K U A T Canon (view (rowRun r c d b items s).2) := by
  have h1 : ∀ rows o, Good K U A T Canon (view ((rows : List Nat).foldl (rowStep d (ouvutStage s r.stage.toNat) b) (o, s)).2) :=
    fun rows o => good_foldl_snd _ (fun a g ha => rowStep_good _ _ _ _ _ ha) _ _ h
  have h2 : ∀ (xs : List (List ListItem × Nat)) (s' : State), Good K U A T Canon (view s') →
      Good K U A T Canon (view (xs.foldl (fun s p => countBad r.stage.toNat p.2 p.1 s) s')) :=
    fun xs s' hs => good_foldl _ (fun s x hs => by rwa [countBad_view]) _ _ hs
  simp only [rowRun]
  split
  · rw [voteNonfinite_view, formDigest_view]; exact h2 _ _ (h1 _ _)
  · rw [formDigest_view]; exact h2 _ _ (h1 _ _)

@[simp ↓] theorem rowBody_good {K : List Instr} {U : Fuses} {A : Staged → Prop} {T : W64 → Prop} (_q : Nat) (r : Ring) (c : Cmd) (s : State) (h : Good K U A T Canon (view s)) : Good K U A T Canon (view (rowBody _q r c s).2) := by
  simp only [rowBody]; repeat' (first | (simp (maxDischargeDepth := 99) [h, *]; done) | (refine good_foldl _ ?_ _ _ ?_) | (refine good_foldl_snd _ ?_ _ _ ?_) | (refine good_foldl_tri _ ?_ _ _ ?_) | split | intro _)

@[simp ↓] theorem applyGroup_good {K : List Instr} {U : Fuses} {T : W64 → Prop} {C : List Host.Cell → Prop} (g : Nat) (s : State) (h : Good K U AnyRegs T C (view s)) : Good K U AnyRegs T C (view (applyGroup g s)) := by
  simp (maxDischargeDepth := 99) [applyGroup, h]

@[simp ↓] theorem refuseGroup_view (g : Nat) (s : State) : view (refuseGroup g s) = view s := by simp [refuseGroup]

@[simp ↓] theorem sampleSet_good {K : List Instr} {U : Fuses} {A : Staged → Prop} {T : W64 → Prop} {C : List Host.Cell → Prop} (cause : Nat) (s0 : State) (k : Nat) (s : State) (h : Good K U A T C (view s)) : Good K U A T C (view (sampleSet cause s0 k s)) := by
  simp only [sampleSet]; repeat' (first | (simp +contextual [*]; done) | split | intro _)

@[simp ↓] theorem takeSample_good {K : List Instr} {U : Fuses} {T : W64 → Prop} {C : List Host.Cell → Prop} (cause : Nat) (mask : State → W64) (s : State)
    (h : Good K U AnyRegs T C (view s)) : Good K U AnyRegs T C (view (takeSample cause mask s)) := by
  have h1 : Good K U AnyRegs T C (view (if groupPending s 12 then applyGroup 12 s else s)) := by
    split
    · exact applyGroup_good _ _ h
    · exact h
  simp only [takeSample]
  rw [serveBg_view, count_view]
  exact good_foldl _ (fun s x hs => sampleSet_good _ _ _ s hs) _ _ h1

@[simp ↓] theorem sampleTick_good {K : List Instr} {U : Fuses} {C : List Host.Cell → Prop} (s : State) (h : Good K U AnyRegs Eights C (view s)) : Good K U AnyRegs Eights C (view (sampleTick s)) := by
  simp only [sampleTick]; repeat' (first | (simp (maxDischargeDepth := 99) [h, *]; done) | (refine good_foldl _ ?_ _ _ ?_) | (refine good_foldl_snd _ ?_ _ _ ?_) | split | intro _)

@[simp ↓] theorem sampleNowBody_good {K : List Instr} {U : Fuses} {T : W64 → Prop} {C : List Host.Cell → Prop} (x0 : Nat) (x1 : Ring) (c : Cmd) (s : State) (h : Good K U AnyRegs T C (view s)) : Good K U AnyRegs T C (view (sampleNowBody x0 x1 c s).2) := by
  simp only [sampleNowBody]; repeat' (first | (simp (maxDischargeDepth := 99) [h, *]; done) | (refine good_foldl _ ?_ _ _ ?_) | (refine good_foldl_snd _ ?_ _ _ ?_) | split | intro _)

@[simp ↓] theorem traceStore_good {K : List Instr} {U : Fuses} {A : Staged → Prop} {T : W64 → Prop} (slot : Nat) (r : TraceRec) (s : State) (h : Good K U A T Canon (view s)) : Good K U A T Canon (view (traceStore slot r s)) := by
  simp only [traceStore]; repeat' (first | (simp [*]; done) | (refine good_foldl _ ?_ _ _ ?_) | (refine good_foldl_snd _ ?_ _ _ ?_) | split | intro _)

@[simp ↓] theorem gapCount_good {K : List Instr} {U : Fuses} {A : Staged → Prop} {T : W64 → Prop} (slot n : Nat) (s : State) (h : Good K U A T Canon (view s)) : Good K U A T Canon (view (gapCount slot n s)) := by
  simp only [gapCount]; repeat' (first | (simp [*]; done) | (refine good_foldl _ ?_ _ _ ?_) | (refine good_foldl_snd _ ?_ _ _ ?_) | split | intro _)

@[simp ↓] theorem tracePut_good {K : List Instr} {U : Fuses} {A : Staged → Prop} {T : W64 → Prop} (r : TraceRec) (s : State) (h : Good K U A T Canon (view s)) : Good K U A T Canon (view (tracePut r s)) := by
  simp [tracePut, h]

@[simp ↓] theorem traceFull_good {K : List Instr} {U : Fuses} {A : Staged → Prop} {T : W64 → Prop} (s : State) (h : Good K U A T Canon (view s)) : Good K U A T Canon (view (traceFull s)) := by
  simp [traceFull, h]

@[simp ↓] theorem traceDrain1_good {K : List Instr} {U : Fuses} {A : Staged → Prop} {T : W64 → Prop} (r : TraceRec) (s : State) (h : Good K U A T Canon (view s)) : Good K U A T Canon (view (traceDrain1 r s)) := by
  simp only [traceDrain1]; repeat' (first | (simp (maxDischargeDepth := 99) [h, *]; done) | (refine good_foldl _ ?_ _ _ ?_) | (refine good_foldl_snd _ ?_ _ _ ?_) | split | intro _)

@[simp ↓] theorem traceDrainN_good {K : List Instr} {U : Fuses} {A : Staged → Prop} {T : W64 → Prop} (x0 : Nat) (x1 : State) (h : Good K U A T Canon (view x1)) : Good K U A T Canon (view (traceDrainN x0 x1)) := by
  induction x0 generalizing x1 <;> simp only [traceDrainN] <;> repeat' (first | (simp (maxDischargeDepth := 99) [h, *]; done) | (refine good_foldl _ ?_ _ _ ?_) | (refine good_foldl_snd _ ?_ _ _ ?_) | split | intro _)

@[simp ↓] theorem traceDrain_good {K : List Instr} {U : Fuses} {A : Staged → Prop} {T : W64 → Prop} (n : Nat) (s : State) (h : Good K U A T Canon (view s)) : Good K U A T Canon (view (traceDrain n s)) := by
  simp only [traceDrain]; repeat' (first | (simp (maxDischargeDepth := 99) [h, *]; done) | (refine good_foldl _ ?_ _ _ ?_) | (refine good_foldl_snd _ ?_ _ _ ?_) | split | intro _)

@[simp ↓] theorem traceBegin_view (s : State) : view (traceBegin s) = view s := by simp [traceBegin]

@[simp ↓] theorem traceEnd_good {K : List Instr} {U : Fuses} {A : Staged → Prop} {T : W64 → Prop} (s : State) (h : Good K U A T Canon (view s)) : Good K U A T Canon (view (traceEnd s)) := by
  simp only [traceEnd]; repeat' (first | (simp (maxDischargeDepth := 99) [h, *]; done) | (refine good_foldl _ ?_ _ _ ?_) | (refine good_foldl_snd _ ?_ _ _ ?_) | split | intro _)

@[simp ↓] theorem traceSet_view (s : State) : view (traceSet s) = view s := by simp [traceSet]

theorem traceCtl_good {K : List Instr} {U : Fuses} {A : Staged → Prop} {T : W64 → Prop} {C : List Host.Cell → Prop} (op : Nat) (act : Desc → State → State)
    (ha : ∀ d s, Good K U A T C (view s) → Good K U A T C (view (act d s))) (q : Nat) (d : Desc) (s : State) (h : Good K U A T C (view s)) :
    Good K U A T C (view (traceCtl op act q d s)) := by
  simp only [traceCtl]
  split
  · exact runCmd_good _ _ (fun _ _ _ s hs => ha _ s hs) q d s h
  · exact h

@[simp ↓] theorem traceMarkAct_good {K : List Instr} {U : Fuses} {A : Staged → Prop} {T : W64 → Prop} {C : List Host.Cell → Prop} (d : Desc) (s : State) (h : Good K U A T C (view s)) : Good K U A T C (view (traceMarkAct d s)) := by
  simp [traceMarkAct, h]

@[simp ↓] theorem traceSetMaskAct_view (d : Desc) (s : State) : view (traceSetMaskAct d s) = view s := by simp [traceSetMaskAct]

@[simp ↓] theorem bucketDecay_good {K : List Instr} {U : Fuses} {A : Staged → Prop} {C : List Host.Cell → Prop} (s : State) (h : Good K U A Eights C (view s)) : Good K U A Eights C (view (bucketDecay s)) := by
  simp only [bucketDecay]; repeat' (first | (simp (maxDischargeDepth := 99) [h, *]; done) | (refine good_foldl _ ?_ _ _ ?_) | (refine good_foldl_snd _ ?_ _ _ ?_) | split | intro _)

@[simp ↓] theorem eventRingHead_good {K : List Instr} {U : Fuses} {A : Staged → Prop} {T : W64 → Prop} {C : List Host.Cell → Prop} (stores : List Host.Cell) (s : State) (h : Good K U A T C (view s)) : Good K U A T C (view (eventRingHead stores s)) := by
  simp [eventRingHead, h]

@[simp ↓] theorem sampleRingHead_good {K : List Instr} {U : Fuses} {A : Staged → Prop} {T : W64 → Prop} {C : List Host.Cell → Prop} (stores : List Host.Cell) (s : State) (h : Good K U A T C (view s)) : Good K U A T C (view (sampleRingHead stores s)) := by
  simp [sampleRingHead, h]

@[simp ↓] theorem globalEnable_good {K : List Instr} {U : Fuses} {A : Staged → Prop} {T : W64 → Prop} {C : List Host.Cell → Prop} (s : State) (h : Good K U A T C (view s)) : Good K U A T C (view (globalEnable s)) := by
  simp only [globalEnable]; repeat' (first | (simp [*]; done) | (refine good_foldl _ ?_ _ _ ?_) | (refine good_foldl_snd _ ?_ _ _ ?_) | split | intro _)

@[simp ↓] theorem armLine_good {K : List Instr} {U : Fuses} {A : Staged → Prop} {T : W64 → Prop} {C : List Host.Cell → Prop} (line : Nat) (stores : List Host.Cell) (s : State) (h : Good K U A T C (view s)) : Good K U A T C (view (armLine line stores s)) := by
  simp only [armLine]; repeat' (first | (simp [*]; done) | (refine good_foldl _ ?_ _ _ ?_) | (refine good_foldl_snd _ ?_ _ _ ?_) | split | intro _)

@[simp ↓] theorem vectorModTimeout_good {K : List Instr} {U : Fuses} {A : Staged → Prop} {C : List Host.Cell → Prop} (v : Nat) (s : State) (h : Good K U A Eights C (view s)) : Good K U A Eights C (view (vectorModTimeout v s)) := by
  simp only [vectorModTimeout]; repeat' (first | (simp [*]; done) | (refine good_foldl _ ?_ _ _ ?_) | (refine good_foldl_snd _ ?_ _ _ ?_) | split | intro _)

@[simp ↓] theorem unmask_good {K : List Instr} {U : Fuses} {A : Staged → Prop} {T : W64 → Prop} {C : List Host.Cell → Prop} (v : Nat) (s : State) (h : Good K U A T C (view s)) : Good K U A T C (view (unmask v s)) := by
  simp [unmask, h]

@[simp ↓] theorem adaptStreams_view (s : State) : view (adaptStreams s) = view s := by simp [adaptStreams]

@[simp ↓] theorem boundaryGroups_good {K : List Instr} {U : Fuses} {T : W64 → Prop} {C : List Host.Cell → Prop} (s : State) (h : Good K U AnyRegs T C (view s)) : Good K U AnyRegs T C (view (boundaryGroups s)) := by
  simp only [boundaryGroups]; repeat' (first | (simp (maxDischargeDepth := 99) [h, *]; done) | (refine good_foldl _ ?_ _ _ ?_) | (refine good_foldl_snd _ ?_ _ _ ?_) | split | intro _)

@[simp ↓] theorem boundary_good {K : List Instr} {U : Fuses} {T : W64 → Prop} (n : W64) (s : State) (h : Good K U AnyRegs T Canon (view s)) : Good K U AnyRegs T Canon (view (boundary n s)) := by
  simp (maxDischargeDepth := 99) [boundary, h]

@[simp ↓] theorem recordStart_good {K : List Instr} {U : Fuses} {A : Staged → Prop} {T : W64 → Prop} {C : List Host.Cell → Prop} (a : Nat) (n : W64) (s : State) (h : Good K U A T C (view s)) : Good K U A T C (view (recordStart a n s)) := by
  simp only [recordStart]; repeat' (first | (simp (maxDischargeDepth := 99) [h, *]; done) | (refine good_foldl _ ?_ _ _ ?_) | (refine good_foldl_snd _ ?_ _ _ ?_) | (refine good_foldl_tri _ ?_ _ _ ?_) | split | intro _)

@[simp ↓] theorem boundaryIn_good {K : List Instr} {U : Fuses} {T : W64 → Prop} (b : Nat) (n : W64) (s : State) (h : Good K U AnyRegs T Canon (view s)) : Good K U AnyRegs T Canon (view (boundaryIn b n s)) := by
  simp (maxDischargeDepth := 99) [boundaryIn, h]

@[simp ↓] theorem boundaryAt_good {K : List Instr} {U : Fuses} {T : W64 → Prop} (b : Nat) (s : State) (h : Good K U AnyRegs T Canon (view s)) : Good K U AnyRegs T Canon (view (boundaryAt b s)) := by
  simp only [boundaryAt]; repeat' (first | (simp (maxDischargeDepth := 99) [h, *]; done) | (refine good_foldl _ ?_ _ _ ?_) | (refine good_foldl_snd _ ?_ _ _ ?_) | split | intro _)

@[simp ↓] theorem recordEnd_good {K : List Instr} {U : Fuses} {A : Staged → Prop} {T : W64 → Prop} {C : List Host.Cell → Prop} (a : Nat) (o : OpenStep) (f : VoteFrame) (discarded : Bool) (slots : BitVec 16384) (s : State) (h : Good K U A T C (view s)) : Good K U A T C (view (recordEnd a o f discarded slots s)) := by
  simp (maxDischargeDepth := 99) [recordEnd, h]

@[simp ↓] theorem openRecord_good {K : List Instr} {U : Fuses} {A : Staged → Prop} {T : W64 → Prop} {C : List Host.Cell → Prop} (o : OpenStep) (s : State) (h : Good K U A T C (view s)) : Good K U A T C (view (openRecord o s)) := by
  simp only [openRecord]; repeat' (first | (simp (maxDischargeDepth := 99) [h, *]; done) | (refine good_foldl _ ?_ _ _ ?_) | (refine good_foldl_snd _ ?_ _ _ ?_) | (refine good_foldl_tri _ ?_ _ _ ?_) | split | intro _)

@[simp ↓] theorem openReplay_view (o : OpenStep) (s : State) : view (openReplay o s) = view s := by
  unfold openReplay; (repeat' split) <;> simp

@[simp ↓] theorem openStep_good {K : List Instr} {U : Fuses} {A : Staged → Prop} {T : W64 → Prop} {C : List Host.Cell → Prop} (r : Ring) (c : Cmd) (s : State) (h : Good K U A T C (view s)) : Good K U A T C (view (openStep r c s)) := by
  simp only [openStep]; repeat' (first | (simp (maxDischargeDepth := 99) [h, *]; done) | (refine good_foldl _ ?_ _ _ ?_) | (refine good_foldl_snd _ ?_ _ _ ?_) | split | intro _)

@[simp ↓] theorem stepBeginBody_good {K : List Instr} {U : Fuses} {T : W64 → Prop} (_q : Nat) (r : Ring) (c : Cmd) (s : State) (h : Good K U AnyRegs T Canon (view s)) : Good K U AnyRegs T Canon (view (stepBeginBody _q r c s).2) := by
  simp only [stepBeginBody]; repeat' (first | (simp (maxDischargeDepth := 99) [h, *]; done) | (refine good_foldl _ ?_ _ _ ?_) | (refine good_foldl_snd _ ?_ _ _ ?_) | split | intro _)

@[simp ↓] theorem sendFrame_good {K : List Instr} {U : Fuses} {A : Staged → Prop} {T : W64 → Prop} {C : List Host.Cell → Prop} (k : Nat) (f : VoteFrame) (s : State) (h : Good K U A T C (view s)) : Good K U A T C (view (sendFrame k f s)) := by
  simp only [sendFrame]; repeat' (first | (simp (maxDischargeDepth := 99) [h, *]; done) | (refine good_foldl _ ?_ _ _ ?_) | (refine good_foldl_snd _ ?_ _ _ ?_) | (refine good_foldl_tri _ ?_ _ _ ?_) | split | intro _)

@[simp ↓] theorem takeFinal_view (f : VoteFrame) (s : State) : view (takeFinal f s) = view s := by simp [takeFinal]

@[simp ↓] theorem settleVote_good {K : List Instr} {U : Fuses} {A : Staged → Prop} {T : W64 → Prop} {C : List Host.Cell → Prop} (s : State) (h : Good K U A T C (view s)) : Good K U A T C (view (settleVote s)) := by
  simp only [settleVote]; repeat' (first | (simp (maxDischargeDepth := 99) [h, *]; done) | (refine good_foldl _ ?_ _ _ ?_) | (refine good_foldl_snd _ ?_ _ _ ?_) | split | intro _)

@[simp ↓] theorem advanceVote_good {K : List Instr} {U : Fuses} {A : Staged → Prop} {T : W64 → Prop} {C : List Host.Cell → Prop} (x0 : Nat) (x1 : State) (h : Good K U A T C (view x1)) : Good K U A T C (view (advanceVote x0 x1)) := by
  induction x0 generalizing x1 <;> simp only [advanceVote] <;> repeat' (first | (simp (maxDischargeDepth := 99) [h, *]; done) | (refine good_foldl _ ?_ _ _ ?_) | (refine good_foldl_snd _ ?_ _ _ ?_) | split | intro _)

@[simp ↓] theorem freezeFrame_good {K : List Instr} {U : Fuses} {A : Staged → Prop} {T : W64 → Prop} (o : OpenStep) (s : State) (h : Good K U A T Canon (view s)) : Good K U A T Canon (view (freezeFrame o s)) := by
  simp only [freezeFrame]; repeat' (first | (simp (maxDischargeDepth := 99) [h, *]; done) | (refine good_foldl _ ?_ _ _ ?_) | (refine good_foldl_snd _ ?_ _ _ ?_) | (refine good_foldl_tri _ ?_ _ _ ?_) | split | intro _)

theorem view_finishes (q : Nat) (r : Result) (l : List Cmd) (s : State) :
    view (l.foldl (fun s c => finish q c r s) s) = view s := view_foldl _ (fun s c => finish_view q c r s) l s

@[simp ↓] theorem finishVotes_good {K : List Instr} {U : Fuses} {A : Staged → Prop} {T : W64 → Prop} {C : List Host.Cell → Prop} (n : W64) (s : State) (h : Good K U A T C (view s)) :
    Good K U A T C (view (finishVotes n s)) := by
  unfold finishVotes
  refine good_foldl _ (fun s q hs => ?_) _ _ h
  dsimp only
  split
  · exact hs
  · refine drainRing_good _ _ _ ?_
    rwa [view_finishes]

@[simp ↓] theorem resendFrame_good {K : List Instr} {U : Fuses} {A : Staged → Prop} {T : W64 → Prop} {C : List Host.Cell → Prop} (s : State) (h : Good K U A T C (view s)) : Good K U A T C (view (resendFrame s)) := by
  simp only [resendFrame]; repeat' (first | (simp (maxDischargeDepth := 99) [h, *]; done) | (refine good_foldl _ ?_ _ _ ?_) | (refine good_foldl_snd _ ?_ _ _ ?_) | (refine good_foldl_tri _ ?_ _ _ ?_) | split | intro _)

@[simp ↓] theorem contribute_good {K : List Instr} {U : Fuses} {A : Staged → Prop} {T : W64 → Prop} (s : State) (h : Good K U A T Canon (view s)) : Good K U A T Canon (view (contribute s)) := by
  simp only [contribute]; repeat' (first | (simp (maxDischargeDepth := 99) [h, *]; done) | (refine good_foldl _ ?_ _ _ ?_) | (refine good_foldl_snd _ ?_ _ _ ?_) | (refine good_foldl_tri _ ?_ _ _ ?_) | split | intro _)

@[simp ↓] theorem voteFrameReceive_good {K : List Instr} {U : Fuses} {A : Staged → Prop} {T : W64 → Prop} {C : List Host.Cell → Prop} (dim : Nat) (peer : Nat) (f : VoteFrame) (s : State) (h : Good K U A T C (view s)) : Good K U A T C (view (voteFrameReceive dim peer f s)) := by
  simp only [voteFrameReceive]; repeat' (first | (simp (maxDischargeDepth := 99) [h, *]; done) | (refine good_foldl _ ?_ _ _ ?_) | (refine good_foldl_snd _ ?_ _ _ ?_) | split | intro _)

@[simp ↓] theorem setVotePending_view (s : State) : view (setVotePending s) = view s := by simp [setVotePending]

@[simp ↓] theorem voteBody_view (_q : Nat) (r : Ring) (c : Cmd) (s : State) : view (voteBody _q r c s).2 = view s := by
  unfold voteBody; (repeat' split) <;> simp

@[simp ↓] theorem stepCommitBody_view (_q : Nat) (r : Ring) (c : Cmd) (s : State) : view (stepCommitBody _q r c s).2 = view s := by
  unfold stepCommitBody; (repeat' split) <;> simp

@[simp ↓] theorem commitErr_good {K : List Instr} {U : Fuses} {A : Staged → Prop} {T : W64 → Prop} (s : State) (p : Nat × F32) (h : Good K U A T Canon (view s)) : Good K U A T Canon (view (commitErr s p)) := by
  simp only [commitErr]; repeat' (first | (simp (maxDischargeDepth := 99) [h, *]; done) | (refine good_foldl _ ?_ _ _ ?_) | (refine good_foldl_snd _ ?_ _ _ ?_) | (refine good_foldl_tri _ ?_ _ _ ?_) | split | intro _)

@[simp ↓] theorem settleUpdates_good {K : List Instr} {U : Fuses} {A : Staged → Prop} {T : W64 → Prop} (discarded : Bool) (slots : BitVec 16384) (s : State) (h : Good K U A T Canon (view s)) : Good K U A T Canon (view (settleUpdates discarded slots s)) := by
  simp only [settleUpdates]; repeat' (first | (simp (maxDischargeDepth := 99) [h, *]; done) | (refine good_foldl _ ?_ _ _ ?_) | (refine good_foldl_snd _ ?_ _ _ ?_) | split | intro _)

@[simp ↓] theorem compareVote_view (a : Nat) (f : VoteFrame) (s : State) : view (compareVote a f s) = view s := by
  unfold compareVote
  extract_lets bits2 s1 s2
  have h1 : view s1 = view s := by
    unfold s1
    split
    · rw [replayDiffers_view]
    · rfl
  have h2 : view s2 = view s := by
    unfold s2
    split
    · rw [replayDiffers_view, h1]
    · exact h1
  split
  · rw [replayDiffers_view, h2]
  · exact h2

@[simp ↓] theorem replayCheck_view (o : OpenStep) (f : VoteFrame) (s : State) : view (replayCheck o f s) = view s := by
  unfold replayCheck
  split
  · dsimp only
    split
    · rw [replayDiffers_view, compareVote_view]
    · rw [compareVote_view]
  · rfl

@[simp ↓] theorem recordClose_good {K : List Instr} {U : Fuses} {A : Staged → Prop} {T : W64 → Prop} {C : List Host.Cell → Prop} (o : OpenStep) (f : VoteFrame) (discarded : Bool) (slots : BitVec 16384) (s : State) (h : Good K U A T C (view s)) : Good K U A T C (view (recordClose o f discarded slots s)) := by
  simp only [recordClose]; repeat' (first | (simp (maxDischargeDepth := 99) [h, *]; done) | (refine good_foldl _ ?_ _ _ ?_) | (refine good_foldl_snd _ ?_ _ _ ?_) | split | intro _)

@[simp ↓] theorem commitStep_good {K : List Instr} {U : Fuses} {A : Staged → Prop} {T : W64 → Prop} (q : Nat) (c : Cmd) (s : State) (h : Good K U A T Canon (view s)) :
    Good K U A T Canon (view (commitStep q c s)) := by
  unfold commitStep
  split
  · dsimp only
    rw [finish_view]
    simp (maxDischargeDepth := 99) [h]
  · exact h

@[simp ↓] theorem holdCommits_view (q : Nat) (s : State) : view (holdCommits q s) = view s := by
  simp only [holdCommits]; (repeat' (first | rfl | split | (refine view_foldl_to _ _ _ ?_ ?_) | (refine view_foldl_snd_to _ _ _ ?_ ?_) | intro _)); all_goals simp

@[simp ↓] theorem fixVote_good {K : List Instr} {U : Fuses} {A : Staged → Prop} {T : W64 → Prop} {C : List Host.Cell → Prop} (s : State) (h : Good K U A T C (view s)) : Good K U A T C (view (fixVote s)) := by
  simp only [fixVote]; repeat' (first | (simp (maxDischargeDepth := 99) [h, *]; done) | (refine good_foldl _ ?_ _ _ ?_) | (refine good_foldl_snd _ ?_ _ _ ?_) | split | intro _)

@[simp ↓] theorem endAborted_view (s : State) : view (endAborted s) = view s := by
  unfold endAborted; (repeat' split) <;> simp

@[simp ↓] theorem stepEdge_good {K : List Instr} {U : Fuses} {A : Staged → Prop} {T : W64 → Prop} (s : State) (h : Good K U A T Canon (view s)) : Good K U A T Canon (view (stepEdge s)) := by
  simp only [stepEdge]; repeat' (first | (simp (maxDischargeDepth := 99) [h, *]; done) | (refine good_foldl _ ?_ _ _ ?_) | (refine good_foldl_snd _ ?_ _ _ ?_) | (refine good_foldl_tri _ ?_ _ _ ?_) | split | intro _)

@[simp ↓] theorem recordBody_view (_q : Nat) (r : Ring) (c : Cmd) (s : State) : view (recordBody _q r c s).2 = view s := by
  simp [recordBody]

@[simp ↓] theorem loadDirectory_good {K : List Instr} {U : Fuses} {A : Staged → Prop} {T : W64 → Prop} (a : Nat) (s : State) (h : Good K U A T Canon (view s)) : Good K U A T Canon (view (loadDirectory a s)) := by
  simp only [loadDirectory]; repeat' (first | (simp [*]; done) | (refine good_foldl _ ?_ _ _ ?_) | (refine good_foldl_snd _ ?_ _ _ ?_) | split | intro _)

@[simp ↓] theorem loadStart_good {K : List Instr} {U : Fuses} {A : Staged → Prop} {T : W64 → Prop} (a : Nat) (s : State) (h : Good K U A T Canon (view s)) : Good K U A T Canon (view (loadStart a s)) := by
  simp only [loadStart]; repeat' (first | (simp [*]; done) | (refine good_foldl _ ?_ _ _ ?_) | (refine good_foldl_snd _ ?_ _ _ ?_) | split | intro _)

@[simp ↓] theorem replayBody_good {K : List Instr} {U : Fuses} {A : Staged → Prop} {T : W64 → Prop} (_q : Nat) (r : Ring) (c : Cmd) (s : State) (h : Good K U A T Canon (view s)) : Good K U A T Canon (view (replayBody _q r c s).2) := by
  simp only [replayBody]; repeat' (first | (simp [*]; done) | (refine good_foldl _ ?_ _ _ ?_) | (refine good_foldl_snd _ ?_ _ _ ?_) | split | intro _)

@[simp ↓] theorem putTable_good {K : List Instr} {U : Fuses} {A : Staged → Prop} {T : W64 → Prop} (a : Nat) (t : ScaleTable) (s : State) (h : Good K U A T Canon (view s)) : Good K U A T Canon (view (putTable a t s)) := by
  simp (maxDischargeDepth := 99) [putTable, h]

@[simp ↓] theorem putReduction_view (r : Reduction) (s : State) : view (putReduction r s) = view s := by simp [putReduction]

@[simp ↓] theorem dropReduction_view (r : Reduction) (s : State) : view (dropReduction r s) = view s := by simp [dropReduction]

@[simp ↓] theorem sendWave_good {K : List Instr} {U : Fuses} {A : Staged → Prop} {T : W64 → Prop} {C : List Host.Cell → Prop} (k : Nat) (y : Nat) (xs : List (Nat × Contribution)) (a : Reduction × State) (h : Good K U A T C (view a.2)) : Good K U A T C (view (sendWave k y xs a).2) := by
  simp [sendWave, h]

@[simp ↓] theorem enterPhase_good {K : List Instr} {U : Fuses} {A : Staged → Prop} {T : W64 → Prop} {C : List Host.Cell → Prop} (p : Nat) (xs : List (Nat × F32)) (r : Reduction) (s : State) (h : Good K U A T C (view s)) : Good K U A T C (view (enterPhase p xs r s).2) := by
  simp only [enterPhase]; repeat' (first | (simp [*]; done) | (refine good_foldl _ ?_ _ _ ?_) | (refine good_foldl_snd _ ?_ _ _ ?_) | split | intro _)

@[simp ↓] theorem advancePhase_good {K : List Instr} {U : Fuses} {A : Staged → Prop} {T : W64 → Prop} {C : List Host.Cell → Prop} (a : Reduction × State) (p : Nat) (h : Good K U A T C (view a.2)) : Good K U A T C (view (advancePhase a p).2) := by
  simp only [advancePhase]; repeat' (first | (simp [*]; done) | (refine good_foldl _ ?_ _ _ ?_) | (refine good_foldl_snd _ ?_ _ _ ?_) | split | intro _)

@[simp ↓] theorem writeShard_good {K : List Instr} {U : Fuses} {A : Staged → Prop} {T : W64 → Prop} (r : Reduction) (x : Shard) (s : State) (h : Good K U A T Canon (view s)) : Good K U A T Canon (view (writeShard r x s)) := by
  simp only [writeShard]; repeat' (first | (simp [*]; done) | (refine good_foldl _ ?_ _ _ ?_) | (refine good_foldl_snd _ ?_ _ _ ?_) | split | intro _)

@[simp ↓] theorem raiseMisfit_good {K : List Instr} {U : Fuses} {A : Staged → Prop} {T : W64 → Prop} {C : List Host.Cell → Prop} (r : Reduction) (s : State) (h : Good K U A T C (view s)) : Good K U A T C (view (raiseMisfit r s)) := by
  simp (maxDischargeDepth := 99) [raiseMisfit, h]

@[simp ↓] theorem finishIndex_view (q : Nat) (i : W32) (res : Result) (s : State) : view (finishIndex q i res s) = view s := by
  unfold finishIndex; (repeat' split) <;> simp

@[simp ↓] theorem closeReduction_good {K : List Instr} {U : Fuses} {A : Staged → Prop} {T : W64 → Prop} {C : List Host.Cell → Prop} (r : Reduction) (res : Result) (s : State) (h : Good K U A T C (view s)) : Good K U A T C (view (closeReduction r res s)) := by
  simp only [closeReduction]; repeat' (first | (simp (maxDischargeDepth := 99) [h, *]; done) | (refine good_foldl _ ?_ _ _ ?_) | (refine good_foldl_snd _ ?_ _ _ ?_) | (refine good_foldl_tri _ ?_ _ _ ?_) | split | intro _)

@[simp ↓] theorem endReduction_good {K : List Instr} {U : Fuses} {A : Staged → Prop} {T : W64 → Prop} (r : Reduction) (s : State) (h : Good K U A T Canon (view s)) :
    Good K U A T Canon (view (endReduction r s)) := by
  unfold endReduction
  extract_lets s1 misfit s2 base
  have h1 : Good K U A T Canon (view s1) := good_foldl _ (fun s x hs => writeShard_good r x s hs) _ _ (by simpa using h)
  have h2 : Good K U A T Canon (view s2) := by
    unfold s2
    split
    · exact raiseMisfit_good r s1 h1
    · exact h1
  simp (maxDischargeDepth := 99) [h2]

@[simp ↓] theorem advanceReduction_good {K : List Instr} {U : Fuses} {A : Staged → Prop} {T : W64 → Prop} (r : Reduction) (s : State) (h : Good K U A T Canon (view s)) :
    Good K U A T Canon (view (advanceReduction r s)) := by
  have ha : Good K U A T Canon (view (((List.range r.dims.length).map (· + 1)).foldl advancePhase (r, s)).2) :=
    good_foldl_snd _ (fun a p hp => advancePhase_good a p hp) _ _ h
  unfold advanceReduction
  split
  · split
    · exact endReduction_good _ _ h
    · rwa [putReduction_view]
  · dsimp only
    split
    · exact endReduction_good _ _ ha
    · rwa [putReduction_view]

@[simp ↓] theorem stageThin_view (r : Reduction) (x : Shard) (xs : List (Nat × F32)) (t : Thin) (s : State) : view (stageThin r x xs t s) = view s := by
  simp only [stageThin]; (repeat' (first | rfl | split | (refine view_foldl_to _ _ _ ?_ ?_) | (refine view_foldl_snd_to _ _ _ ?_ ?_) | intro _)); all_goals simp

@[simp ↓] theorem thinShard_good {K : List Instr} {U : Fuses} {A : Staged → Prop} {T : W64 → Prop} {C : List Host.Cell → Prop} (x : Shard) (a : Reduction × State) (h : Good K U A T C (view a.2)) : Good K U A T C (view (thinShard x a).2) := by
  simp only [thinShard]; repeat' (first | (simp [*]; done) | (refine good_foldl _ ?_ _ _ ?_) | (refine good_foldl_snd _ ?_ _ _ ?_) | split | intro _)

@[simp ↓] theorem noteShards_view (xs : List Shard) (s : State) : view (noteShards xs s) = view s := by simp [noteShards]

@[simp ↓] theorem touchSource_view (s0 : State) (o : Operand) (beat rep n : Nat) (s : State) : view (touchSource s0 o beat rep n s) = view s := by
  unfold touchSource; (repeat' split) <;> simp

@[simp ↓] theorem startReduction_good {K : List Instr} {U : Fuses} {A : Staged → Prop} {T : W64 → Prop} {C : List Host.Cell → Prop} (xs : List Shard) (red : Reduction) (s : State) (h : Good K U A T C (view s)) : Good K U A T C (view (startReduction xs red s).2) := by
  simp only [startReduction]; repeat' (first | (simp (maxDischargeDepth := 99) [h, *]; done) | (refine good_foldl _ ?_ _ _ ?_) | (refine good_foldl_snd _ ?_ _ _ ?_) | split | intro _)

@[simp ↓] theorem reduceStart_good {K : List Instr} {U : Fuses} {A : Staged → Prop} {T : W64 → Prop} {C : List Host.Cell → Prop} (q : Nat) (c : Cmd) (xs : List Shard) (n beat : Nat) (s : State) (rep : Nat) (h : Good K U A T C (view s)) : Good K U A T C (view (reduceStart q c xs n beat s rep)) := by
  simp (maxDischargeDepth := 99) [reduceStart, h]

@[simp ↓] theorem reduceBody_good {K : List Instr} {U : Fuses} {A : Staged → Prop} {T : W64 → Prop} {C : List Host.Cell → Prop} (q : Nat) (r : Ring) (c : Cmd) (s : State) (h : Good K U A T C (view s)) : Good K U A T C (view (reduceBody q r c s).2) := by
  simp only [reduceBody]; repeat' (first | (simp (maxDischargeDepth := 99) [h, *]; done) | (refine good_foldl _ ?_ _ _ ?_) | (refine good_foldl_snd _ ?_ _ _ ?_) | split | intro _)

@[simp ↓] theorem settleReduction_good {K : List Instr} {U : Fuses} {A : Staged → Prop} {T : W64 → Prop} (r : Reduction) (s : State) (h : Good K U A T Canon (view s)) :
    Good K U A T Canon (view (settleReduction r s)) := by
  unfold settleReduction
  split
  · exact endReduction_good _ _ h
  · exact advanceReduction_good _ _ h

@[simp ↓] theorem takeWave_view (p : Nat) (m : Message) (r : Reduction) (s : State) : view (takeWave p m r s).2 = view s := by
  simp [takeWave]

theorem reductionMessage_good {K : List Instr} {U : Fuses} {A : Staged → Prop} {T : W64 → Prop} {p : Nat} {m : Message} {s s' : State}
    (h : Good K U A T Canon (view s)) (he : reductionMessage p m s = some s') : Good K U A T Canon (view s') := by
  simp only [reductionMessage] at he
  split at he
  · cases he
    exact settleReduction_good _ _ (by rwa [takeWave_view])
  · cases he

end Sys2Proof.Machine
end

