-- ==== Sys2Proof/Laws/FrameTop.lean ====
section
/-!
SUPPORT. Frame laws of the functions over those of Laws/Frame.lean: messages and transfers, edges, resets, the bus. As in Laws/Frame.lean.
-/
set_option linter.unusedTactic false
set_option linter.unreachableTactic false
set_option linter.unusedSimpArgs false
namespace Sys2Proof.Machine

@[simp ↓] theorem sendRaw_good {K : List Instr} {U : Fuses} {A : Staged → Prop} {T : W64 → Prop} {C : List Host.Cell → Prop} (n group dst tensor first : Nat) (cmd : W32) (idx vc : Nat) (data : List Byte) (s : State) (h : Good K U A T C (view s)) : Good K U A T C (view (sendRaw n group dst tensor first cmd idx vc data s)) := by
  simp only [sendRaw]; repeat' (first | (simp (maxDischargeDepth := 99) [h, *]; done) | (refine good_foldl _ ?_ _ _ ?_) | (refine good_foldl_snd _ ?_ _ _ ?_) | (refine good_foldl_tri _ ?_ _ _ ?_) | split | intro _)

@[simp ↓] theorem sendSpans_good {K : List Instr} {U : Fuses} {A : Staged → Prop} {T : W64 → Prop} {C : List Host.Cell → Prop} (n dst type : Nat) (head : List Nat) (spans : List (Nat × Nat)) (cmd : W32) (idx vc : Nat) (s : State) (h : Good K U A T C (view s)) : Good K U A T C (view (sendSpans n dst type head spans cmd idx vc s)) := by
  simp only [sendSpans]; repeat' (first | (simp (maxDischargeDepth := 99) [h, *]; done) | (refine good_foldl _ ?_ _ _ ?_) | (refine good_foldl_snd _ ?_ _ _ ?_) | (refine good_foldl_tri _ ?_ _ _ ?_) | split | intro _)

@[simp ↓] theorem writeSpans_good {K : List Instr} {U : Fuses} {A : Staged → Prop} {T : W64 → Prop} (a : Nat) (off : Nat) (bs : List Byte) (spans : List (Nat × Nat)) (s : State) (h : Good K U A T Canon (view s)) : Good K U A T Canon (view (writeSpans a off bs spans s)) := by
  simp [writeSpans, h]

@[simp ↓] theorem noteHoles_view (ps : List (Nat × Nat)) (s : State) : view (noteHoles ps s) = view s := by simp [noteHoles]

@[simp ↓] theorem writePieces_good {K : List Instr} {U : Fuses} {A : Staged → Prop} {T : W64 → Prop} (ps : List (Nat × Nat)) (data : List Byte) (spans : List (Nat × Nat)) (s : State) (h : Good K U A T Canon (view s)) : Good K U A T Canon (view (writePieces ps data spans s)) := by
  simp only [writePieces]; repeat' (first | (simp [*]; done) | (refine good_foldl _ ?_ _ _ ?_) | (refine good_foldl_snd _ ?_ _ _ ?_) | split | intro _)

@[simp ↓] theorem addTransfer_view (t : Transfer) (s : State) : view (addTransfer t s) = view s := by simp [addTransfer]

@[simp ↓] theorem putTransfer_view (t : Transfer) (s : State) : view (putTransfer t s) = view s := by simp [putTransfer]

@[simp ↓] theorem endTransfer_view (t : Transfer) (r : Result) (s : State) : view (endTransfer t r s) = view s := by
  simp only [endTransfer]; (repeat' split) <;> simp

@[simp ↓] theorem copyTouch_view (s : State) (d : Desc) (rep : Nat) : view (copyTouch s d rep) = view s := by simp [copyTouch]

@[simp ↓] theorem copyRemote_good {K : List Instr} {U : Fuses} {A : Staged → Prop} {T : W64 → Prop} {C : List Host.Cell → Prop} (q : Nat) (c : Cmd) (s : State) (rep : Nat) (h : Good K U A T C (view s)) : Good K U A T C (view (copyRemote q c s rep)) := by
  simp (maxDischargeDepth := 99) [copyRemote, h]

@[simp ↓] theorem copyStore_good {K : List Instr} {U : Fuses} {A : Staged → Prop} {T : W64 → Prop} (r : Ring) (c : Cmd) (src : List Byte × List (Nat × Nat)) (rep : Nat) (s : State) (h : Good K U A T Canon (view s)) : Good K U A T Canon (view (copyStore r c src rep s)) := by
  simp (maxDischargeDepth := 99) [copyStore, h]

@[simp ↓] theorem copyLocal_good {K : List Instr} {U : Fuses} {A : Staged → Prop} {T : W64 → Prop} (r : Ring) (c : Cmd) (a : Bool × State) (rep : Nat) (h : Good K U A T Canon (view a.2)) : Good K U A T Canon (view (copyLocal r c a rep).2) := by
  simp only [copyLocal]; repeat' (first | (simp (maxDischargeDepth := 99) [h, *]; done) | (refine good_foldl _ ?_ _ _ ?_) | (refine good_foldl_snd _ ?_ _ _ ?_) | (refine good_foldl_tri _ ?_ _ _ ?_) | split | intro _)

@[simp ↓] theorem copyBody_good {K : List Instr} {U : Fuses} {A : Staged → Prop} {T : W64 → Prop} (q : Nat) (r : Ring) (c : Cmd) (s : State) (h : Good K U A T Canon (view s)) : Good K U A T Canon (view (copyBody q r c s).2) := by
  simp only [copyBody, copySource, copyTouch, copyRemote, copyStore]; repeat' (first | (simp (maxDischargeDepth := 99) [h, *]; done) | (refine good_foldl _ ?_ _ _ ?_) | (refine good_foldl_snd _ ?_ _ _ ?_) | split | intro _)

@[simp ↓] theorem sendStart_view (q : Nat) (c : Cmd) (beat : Nat) (s : State) (rep : Nat) : view (sendStart q c beat s rep) = view s := by simp [sendStart]

@[simp ↓] theorem sendBody_view (q : Nat) (r : Ring) (c : Cmd) (s : State) : view (sendBody q r c s).2 = view s := by simp [sendBody]

@[simp ↓] theorem recvStart_good {K : List Instr} {U : Fuses} {A : Staged → Prop} {T : W64 → Prop} {C : List Host.Cell → Prop} (q : Nat) (c : Cmd) (beat : Nat) (s : State) (rep : Nat) (h : Good K U A T C (view s)) : Good K U A T C (view (recvStart q c beat s rep)) := by
  simp only [recvStart]; repeat' (first | (simp (maxDischargeDepth := 99) [h, *]; done) | (refine good_foldl _ ?_ _ _ ?_) | (refine good_foldl_snd _ ?_ _ _ ?_) | (refine good_foldl_tri _ ?_ _ _ ?_) | split | intro _)

@[simp ↓] theorem recvBody_good {K : List Instr} {U : Fuses} {A : Staged → Prop} {T : W64 → Prop} {C : List Host.Cell → Prop} (q : Nat) (r : Ring) (c : Cmd) (s : State) (h : Good K U A T C (view s)) : Good K U A T C (view (recvBody q r c s).2) := by
  simp only [recvBody]; repeat' (first | (simp [*]; done) | (refine good_foldl _ ?_ _ _ ?_) | (refine good_foldl_snd _ ?_ _ _ ?_) | split | intro _)

@[simp ↓] theorem a2aStart_good {K : List Instr} {U : Fuses} {A : Staged → Prop} {T : W64 → Prop} (q : Nat) (c : Cmd) (l w : Loc) (beat rep : Nat) (s : State) (h : Good K U A T Canon (view s)) : Good K U A T Canon (view (a2aStart q c l w beat rep s)) := by
  simp only [a2aStart]; repeat' (first | (simp (maxDischargeDepth := 99) [h, *]; done) | (refine good_foldl _ ?_ _ _ ?_) | (refine good_foldl_snd _ ?_ _ _ ?_) | (refine good_foldl_tri _ ?_ _ _ ?_) | split | intro _)

@[simp ↓] theorem a2aReplica_good {K : List Instr} {U : Fuses} {A : Staged → Prop} {T : W64 → Prop} (q : Nat) (c : Cmd) (beat : Nat) (s : State) (rep : Nat) (h : Good K U A T Canon (view s)) : Good K U A T Canon (view (a2aReplica q c beat s rep)) := by
  simp only [a2aReplica]; repeat' (first | (simp (maxDischargeDepth := 99) [h, *]; done) | (refine good_foldl _ ?_ _ _ ?_) | (refine good_foldl_snd _ ?_ _ _ ?_) | (refine good_foldl_tri _ ?_ _ _ ?_) | split | intro _)

@[simp ↓] theorem a2aBody_good {K : List Instr} {U : Fuses} {A : Staged → Prop} {T : W64 → Prop} (q : Nat) (r : Ring) (c : Cmd) (s : State) (h : Good K U A T Canon (view s)) : Good K U A T Canon (view (a2aBody q r c s).2) := by
  simp only [a2aBody, a2aStart]; repeat' (first | (simp [*]; done) | (refine good_foldl _ ?_ _ _ ?_) | (refine good_foldl_snd _ ?_ _ _ ?_) | split | intro _)

@[simp ↓] theorem gatherWeights_good {K : List Instr} {U : Fuses} {A : Staged → Prop} {T : W64 → Prop} {C : List Host.Cell → Prop} (l : LayerEnt)
    (p : LayerPl) (step : W64) (fuel rung n : Nat) (s : State) (h : Good K U A T C (view s)) :
    Good K U A T C (view (gatherWeights l p step fuel rung n s).2.2) := by
  induction fuel generalizing rung n s with
  | zero =>
    unfold gatherWeights
    extract_lets
    split
    · exact h
    · show Good K U A T C (view (countConvWith _ _ _ _ s))
      rwa [countConvWith_view]
  | succ k ih =>
    unfold gatherWeights
    extract_lets
    split
    · exact h
    · dsimp only
      split
      · exact ih _ _ _ (raise_good _ _ _ (by rwa [updStat_view, countConvWith_view]))
      · rwa [markNonfiniteWith_view, countConvWith_view]

@[simp ↓] theorem serveGather_good {K : List Instr} {U : Fuses} {A : Staged → Prop} {T : W64 → Prop} {C : List Host.Cell → Prop} (m : Message) (s : State) (h : Good K U A T C (view s)) :
    Good K U A T C (view (serveGather m s)) := by
  have h1 : ∀ (a : Option LayerEnt) (b : Option LayerPl) (step : W64) (rung : Nat), Good K U A T C (view
      (match a, b with
        | some l, some p => ((gatherWeights l p step 4 rung 0 s).1, some (gatherWeights l p step 4 rung 0 s).2.1, (gatherWeights l p step 4 rung 0 s).2.2)
        | _, _ => ((0, none, s) : Nat × Option Weights × State)).2.2) := fun a b step rung => by
    split
    · exact gatherWeights_good _ _ _ _ _ _ _ h
    · exact h
  unfold serveGather
  split
  · extract_lets got o t words c gen say data
    have hg : Good K U A T C (view got.2.2) := h1 _ _ _ _
    have ho : Good K U A T C (view o.2) := by unfold o; rwa [takeOrder_view]
    have hs : ∀ (a b e : Nat) (bs : List Byte) (s : State), Good K U A T C (view s) → Good K U A T C (view (say a b e bs s)) :=
      fun _ _ _ _ s hs => by simp only [say]; exact sendDown_good _ _ _ _ hs
    clear_value say o got
    exact good_foldl _ (fun s p hp => hs _ _ _ _ _ hp) _ _ (hs _ _ _ _ _ ho)
  · exact h

@[simp ↓] theorem endGather_good {K : List Instr} {U : Fuses} {A : Staged → Prop} {T : W64 → Prop} (t : Transfer) (s : State) (h : Good K U A T Canon (view s)) :
    Good K U A T Canon (view (endGather t s)) := by
  simp only [endGather]
  rw [endTransfer_view]
  repeat' split
  all_goals first | exact h | rwa [addWeights_view] | (refine putTable_good _ _ _ ?_; first | exact h | rwa [addWeights_view])

@[simp ↓] theorem gatherBody_good {K : List Instr} {U : Fuses} {A : Staged → Prop} {T : W64 → Prop} {C : List Host.Cell → Prop} (q : Nat) (x1 : Ring) (c : Cmd) (s : State) (h : Good K U A T C (view s)) : Good K U A T C (view (gatherBody q x1 c s).2) := by
  simp only [gatherBody]; repeat' (first | (simp (maxDischargeDepth := 99) [h, *]; done) | (refine good_foldl _ ?_ _ _ ?_) | (refine good_foldl_snd _ ?_ _ _ ?_) | split | intro _)

@[simp ↓] theorem endRecv_good {K : List Instr} {U : Fuses} {A : Staged → Prop} {T : W64 → Prop} {C : List Host.Cell → Prop} (t : Transfer) (s : State) (h : Good K U A T C (view s)) : Good K U A T C (view (endRecv t s)) := by
  simp (maxDischargeDepth := 99) [endRecv, h]

@[simp ↓] theorem a2aMessage_good {K : List Instr} {U : Fuses} {A : Staged → Prop} {T : W64 → Prop} (p : Nat) (m : Message) (t : Transfer) (s : State) (h : Good K U A T Canon (view s)) : Good K U A T Canon (view (a2aMessage p m t s)) := by
  simp only [a2aMessage]; repeat' (first | (simp (maxDischargeDepth := 99) [h, *]; done) | (refine good_foldl _ ?_ _ _ ?_) | (refine good_foldl_snd _ ?_ _ _ ?_) | (refine good_foldl_tri _ ?_ _ _ ?_) | split | intro _)

@[simp ↓] theorem gatherTake_good {K : List Instr} {U : Fuses} {A : Staged → Prop} {T : W64 → Prop} (p : Nat) (m : Message) (t : Transfer) (s : State) (h : Good K U A T Canon (view s)) : Good K U A T Canon (view (gatherTake p m t s)) := by
  simp only [gatherTake]
  repeat' split
  all_goals first
    | (refine endGather_good _ _ ?_; first | exact h | rwa [count_view])
    | (rw [putTransfer_view]; first | exact h | rwa [count_view])

theorem rawMessage_good {K : List Instr} {U : Fuses} {A : Staged → Prop} {T : W64 → Prop} {p : Nat} {m : Message} {s s' : State} (h : Good K U A T Canon (view s))
    (he : rawMessage p m s = some s') : Good K U A T Canon (view s') := by
  simp only [rawMessage] at he
  split at he
  · cases he
    split
    · exact endRecv_good _ _ (writePieces_good _ _ _ _ h)
    · rw [putTransfer_view]; exact writePieces_good _ _ _ _ h
  · simp only [Option.map_eq_some_iff] at he
    obtain ⟨t, -, rfl⟩ := he
    exact gatherTake_good _ _ _ _ h

theorem dataMessage_good {K : List Instr} {U : Fuses} {A : Staged → Prop} {T : W64 → Prop} {p : Nat} {m : Message} {s s' : State} (h : Good K U A T Canon (view s))
    (he : dataMessage p m s = some s') : Good K U A T Canon (view s') := by
  unfold dataMessage at he
  split at he
  · rename_i hr
    cases he
    exact reductionMessage_good h hr
  · split at he
    · cases he
      exact a2aMessage_good _ _ _ _ h
    · split at he
      · exact rawMessage_good h he
      · cases he

@[simp ↓] theorem startSend_good {K : List Instr} {U : Fuses} {A : Staged → Prop} {T : W64 → Prop} {C : List Host.Cell → Prop} (t : Transfer) (bytes : Nat) (s : State) (h : Good K U A T C (view s)) : Good K U A T C (view (startSend t bytes s)) := by
  simp only [startSend]; repeat' (first | (simp (maxDischargeDepth := 99) [h, *]; done) | (refine good_foldl _ ?_ _ _ ?_) | (refine good_foldl_snd _ ?_ _ _ ?_) | split | intro _)

@[simp ↓] theorem recvBound_good {K : List Instr} {U : Fuses} {A : Staged → Prop} {T : W64 → Prop} {C : List Host.Cell → Prop} (m : Message) (last : Bool) (spans : List (Nat × Nat)) (t : Transfer) (s : State) (h : Good K U A T C (view s)) : Good K U A T C (view (recvBound m last spans t s)) := by
  simp only [recvBound]; repeat' (first | (simp (maxDischargeDepth := 99) [h, *]; done) | (refine good_foldl _ ?_ _ _ ?_) | (refine good_foldl_snd _ ?_ _ _ ?_) | (refine good_foldl_tri _ ?_ _ _ ?_) | split | intro _)

@[simp ↓] theorem copyArrived_good {K : List Instr} {U : Fuses} {A : Staged → Prop} {T : W64 → Prop} (m : Message) (tensor first n : Nat) (last : Bool) (spans : List (Nat × Nat)) (s : State) (h : Good K U A T Canon (view s)) : Good K U A T Canon (view (copyArrived m tensor first n last spans s)) := by
  unfold copyArrived
  extract_lets at_ verdict ps kept _ s1 s3 s2
  have h1 : Good K U A T Canon (view s1) := h
  have h2 : Good K U A T Canon (view s2) := by
    simp only [s2, s3]
    split
    · refine good_foldl _ (fun s x hs => ?_) _ _ (good_foldl _ (fun s e hs => writePieces_good _ _ _ _ hs) _ _ ?_)
      · exact good_foldl _ (fun s p hp => by rwa [devPoisonRange_view]) _ _ hs
      · split
        · exact h1
        · rwa [noteHoles_view]
    · exact h1
  split
  · exact tell_good _ _ _ _ h2
  · exact h2

@[simp ↓] theorem gatherBound_good {K : List Instr} {U : Fuses} {A : Staged → Prop} {T : W64 → Prop} (t : Transfer) (head : List Nat) (s : State) (h : Good K U A T Canon (view s)) :
    Good K U A T Canon (view (gatherBound t head s)) := by
  simp only [gatherBound]
  split
  · exact endGather_good _ _ h
  · rwa [putTransfer_view]

@[simp ↓] theorem peerTells_good {K : List Instr} {U : Fuses} {A : Staged → Prop} {T : W64 → Prop} {C : List Host.Cell → Prop} (src : Nat) (ports : Nat) (s : State) (h : Good K U A T C (view s)) : Good K U A T C (view (peerTells src ports s)) := by
  simp (maxDischargeDepth := 99) [peerTells, h]

theorem management_good {K : List Instr} {U : Fuses} {A : Staged → Prop} {T : W64 → Prop} {m : Message} {s s' : State}
    (h : Good K U A T Canon (view s)) (he : management m s = some s') : Good K U A T Canon (view s') := by
  unfold management at he
  split at he
  · obtain rfl := Option.some.inj he; exact h
  · extract_lets arg at he
    split at he
    · obtain ⟨t, -, rfl⟩ := Option.map_eq_some_iff.1 he; exact startSend_good _ _ _ h
    · split at he
      · obtain ⟨t, -, rfl⟩ := Option.map_eq_some_iff.1 he; exact recvBound_good _ _ _ _ _ h
      · split at he
        · obtain ⟨t, -, rfl⟩ := Option.map_eq_some_iff.1 he; rwa [endTransfer_view]
        · split at he
          · obtain ⟨t, -, rfl⟩ := Option.map_eq_some_iff.1 he; rwa [endTransfer_view]
          · split at he
            · obtain rfl := Option.some.inj he; exact copyArrived_good _ _ _ _ _ _ _ h
            · split at he
              · obtain rfl := Option.some.inj he
                split
                · rwa [endTransfer_view]
                · exact h
              · split at he
                · obtain rfl := Option.some.inj he
                  split
                  · exact serveGather_good _ _ h
                  · exact h
                · split at he
                  · obtain ⟨t, -, rfl⟩ := Option.map_eq_some_iff.1 he; exact gatherBound_good _ _ _ h
                  · split at he
                    · obtain rfl := Option.some.inj he; exact peerTells_good _ _ _ h
                    · split at he
                      · obtain rfl := Option.some.inj he; exact lockStateMessage_good _ _ h
                      · obtain rfl := Option.some.inj he; exact h

theorem handleMessage_good {K : List Instr} {U : Fuses} {A : Staged → Prop} {T : W64 → Prop} {p : Nat} {m : Message} {s s' : State}
    (h : Good K U A T Canon (view s)) (he : handleMessage p m s = some s') : Good K U A T Canon (view s') := by
  simp only [handleMessage] at he
  repeat' split at he
  · exact dataMessage_good h he
  · exact management_good h he
  · cases he; exact h

@[simp ↓] theorem takeMessage_good {K : List Instr} {U : Fuses} {A : Staged → Prop} {T : W64 → Prop} (p : Nat) (m : Message) (s : State) (h : Good K U A T Canon (view s)) :
    Good K U A T Canon (view (takeMessage p m s)) := by
  simp only [takeMessage]
  split
  · rename_i he; exact handleMessage_good h he
  · exact h

@[simp ↓] theorem settleLoop_good {K : List Instr} {U : Fuses} {A : Staged → Prop} {T : W64 → Prop} (n : Nat) (s : State) (h : Good K U A T Canon (view s)) :
    Good K U A T Canon (view (settleLoop n s)) := by
  induction n generalizing s with
  | zero => exact h
  | succ n ih =>
    simp only [settleLoop]
    split
    · exact h
    · exact ih _ (takeMessage_good _ _ _ h)

@[simp ↓] theorem retryEarly_good {K : List Instr} {U : Fuses} {A : Staged → Prop} {T : W64 → Prop} (s : State) (h : Good K U A T Canon (view s)) : Good K U A T Canon (view (retryEarly s)) :=
  good_foldl _ (fun s e hs => takeMessage_good _ _ s hs) _ _ h

@[simp ↓] theorem serveRequests_good {K : List Instr} {U : Fuses} {A : Staged → Prop} {T : W64 → Prop} {C : List Host.Cell → Prop} (s : State) (h : Good K U A T C (view s)) : Good K U A T C (view (serveRequests s)) := by
  simp only [serveRequests]; repeat' (first | (simp (maxDischargeDepth := 99) [h, *]; done) | (refine good_foldl _ ?_ _ _ ?_) | (refine good_foldl_snd _ ?_ _ _ ?_) | split | intro _)

@[simp ↓] theorem settleA2a_view (s : State) : view (settleA2a s) = view s := by simp [settleA2a]

@[simp ↓] theorem settleFab_good {K : List Instr} {U : Fuses} {A : Staged → Prop} {T : W64 → Prop} (s : State) (h : Good K U A T Canon (view s)) : Good K U A T Canon (view (settleFab s)) := by
  unfold settleFab
  extract_lets s1 s2
  have h1 : Good K U A T Canon (view s1) := serveRequests_good _ (retryEarly_good _ h)
  have h2 : Good K U A T Canon (view s2) := good_foldl _ (fun s r hs => settleReduction_good r s hs) _ _ h1
  exact flushPorts_good _ (by rw [settleA2a_view]; exact settleLoop_good _ _ h2)

@[simp ↓] theorem messageHere_good {K : List Instr} {U : Fuses} {A : Staged → Prop} {T : W64 → Prop} (p : Nat) (m : Message) (s : State) (h : Good K U A T Canon (view s)) :
    Good K U A T Canon (view (messageHere p m s)) := by
  simp only [messageHere]
  refine settleFab_good _ (takeMessage_good _ _ _ ?_)
  split
  · exact trace_good _ _ _ _ _ _ h
  · exact h

@[simp ↓] theorem messageReceive_good {K : List Instr} {U : Fuses} {A : Staged → Prop} {T : W64 → Prop} (p : Nat) (m : Message) (s : State) (h : Good K U A T Canon (view s)) :
    Good K U A T Canon (view (messageReceive p m s)) := by
  have h2 := fun vc b n => oweSlots_good p vc b n s h
  unfold messageReceive
  split
  · exact h
  · split
    · exact h
    · extract_lets s2 y
      have h3 : Good K U A T Canon (view s2) := h2 _ _ _
      clear_value s2
      repeat' split
      · exact relayOut_good _ _ _ _ h3
      · exact sendDown_good _ _ _ _ (by rwa [takeOrder_view])
      · exact sendTo_good _ _ _ h3
      · rwa [count_view]
      · exact messageHere_good _ _ _ h3

@[simp ↓] theorem xtalStable_good {K : List Instr} {U : Fuses} {A : Staged → Prop} {T : W64 → Prop} {C : List Host.Cell → Prop} (s : State) (h : Good K U A T C (view s)) : Good K U A T C (view (xtalStable s)) := by
  simp only [xtalStable]; repeat' (first | (simp (maxDischargeDepth := 99) [h, *]; done) | (refine good_foldl _ ?_ _ _ ?_) | (refine good_foldl_snd _ ?_ _ _ ?_) | split | intro _)

@[simp ↓] theorem xtalBootTimeout_good {K : List Instr} {U : Fuses} {A : Staged → Prop} {T : W64 → Prop} {C : List Host.Cell → Prop} (s : State) (h : Good K U A T C (view s)) : Good K U A T C (view (xtalBootTimeout s)) := by
  simp only [xtalBootTimeout]; repeat' (first | (simp (maxDischargeDepth := 99) [h, *]; done) | (refine good_foldl _ ?_ _ _ ?_) | (refine good_foldl_snd _ ?_ _ _ ?_) | (refine good_foldl_tri _ ?_ _ _ ?_) | split | intro _)

@[simp ↓] theorem appendCondemned_view (s : State) : view (appendCondemned s) = view s := by simp [appendCondemned]

@[simp ↓] theorem applyRetired_view (e : RetireEnt) (s : State) : view (applyRetired e s) = view s := by
  unfold applyRetired; (repeat' split) <;> simp

@[simp ↓] theorem startFirmware_view (s : State) : view (startFirmware s) = view s := by simp [startFirmware]

/-- FW_IMAGE_LOADED keeps the queue and both memories; the fuses change only in the rollback minimum, which rises (R23). -/
theorem fwImageLoaded_good {K : List Instr} {U : Fuses} {A : Staged → Prop} {T : W64 → Prop} {C : List Host.Cell → Prop} (s : State) (h : Good K U A T C (view s)) :
    ∃ n, U.rollback ≤ n ∧ Good K { U with rollback := n } A T C (view (fwImageLoaded s)) := by
  obtain ⟨h1, rfl, h3, h4⟩ := h
  simp only [fwImageLoaded]
  split
  · split
    · refine ⟨max s.fuses.rollback (min 64 (imgNat s.store.image 0x008 1)), Nat.le_max_left _ _, ?_⟩
      rw [startFirmware_view]
      exact ⟨h1, rfl, h3, h4⟩
    · refine ⟨_, Nat.le_refl _, ?_⟩
      rw [enterState_view]
      exact ⟨h1, rfl, h3, h4⟩
  · exact ⟨_, Nat.le_refl _, h1, rfl, h3, h4⟩

@[simp ↓] theorem trainingFailed_good {K : List Instr} {U : Fuses} {A : Staged → Prop} {T : W64 → Prop} {C : List Host.Cell → Prop} (cls : Nat) (idx : Nat) (s : State) (h : Good K U A T C (view s)) : Good K U A T C (view (trainingFailed cls idx s)) := by
  simp (maxDischargeDepth := 99) [trainingFailed, h]

@[simp ↓] theorem holdLines_good {K : List Instr} {U : Fuses} {A : Staged → Prop} {T : W64 → Prop} {C : List Host.Cell → Prop} (s : State) (h : Good K U A T C (view s)) : Good K U A T C (view (holdLines s)) := by
  unfold holdLines
  extract_lets arm _ s1 s2
  have h2 : Good K U A T C (view s2) := by
    simp only [s2]
    split
    · exact good_foldl _ (fun s k hs => checkVec_good k s hs) _ _ h
    · exact h
  clear_value s2
  split
  · exact h2
  · split
    · exact fetchEnable_good _ h2
    · exact h2

@[simp ↓] theorem memTrainingDone_good {K : List Instr} {U : Fuses} {A : Staged → Prop} {T : W64 → Prop} {C : List Host.Cell → Prop} (stks : List Nat) (channels : List Nat) (s : State)
    (h : Good K U A T C (view s)) : Good K U A T C (view (memTrainingDone stks channels s)) := by
  simp only [memTrainingDone]
  split
  · have h1 := good_foldl (fun s c => trainingFailed 1 c s) (fun s c hs => trainingFailed_good 1 c s hs)
      ((stks.flatMap fun k => (stackColumns k).filter fun c => columnOn s c)) s h
    have h2 := fun l => good_foldl (fun s c => trainingFailed 2 c s) (fun s c hs => trainingFailed_good 2 c s hs) l _ h1
    split
    · split
      · rw [enterState_view, enterState_view]; exact h2 _
      · rw [enterState_view]; exact h2 _
    · exact halt_good _ (h2 _)
  · exact h

@[simp ↓] theorem cxlLinkTrained_good {K : List Instr} {U : Fuses} {A : Staged → Prop} {T : W64 → Prop} {C : List Host.Cell → Prop} (width : Nat) (rateGT : Nat) (flit256 : Bool) (s : State) (h : Good K U A T C (view s)) : Good K U A T C (view (cxlLinkTrained width rateGT flit256 s)) := by
  simp only [cxlLinkTrained]; repeat' (first | (simp (maxDischargeDepth := 99) [h, *]; done) | (refine good_foldl _ ?_ _ _ ?_) | (refine good_foldl_snd _ ?_ _ _ ?_) | (refine good_foldl_tri _ ?_ _ _ ?_) | split | intro _)

@[simp ↓] theorem fabricReady_view (s : State) : view (fabricReady s) = view s := by simp [fabricReady]

theorem view_coldState (s : State) : view (coldState s) = ⟨s.pending, s.fuses, resetStaged, 0, [], s.host⟩ := rfl

theorem coldState_pending (s : State) : (coldState s).pending = s.pending := rfl

theorem coldState_fuses (s : State) : (coldState s).fuses = s.fuses := rfl

theorem coldState_act (s : State) : (coldState s).act = resetStaged := rfl

theorem coldState_count (s : State) : (coldState s).clk.count = 0 := rfl

theorem coldState_host (s : State) : (coldState s).host = s.host := rfl

theorem coldState_cells (s : State) : (coldState s).mem.cells = [] := rfl

@[simp ↓] theorem nextEpoch_view (s : State) : view (nextEpoch s) = view s := by simp [nextEpoch]

@[simp ↓] theorem deviceReset_good {K : List Instr} {U : Fuses} (s0 : State) (h : Good K U AnyRegs Eights Canon (view s0)) :
    Good K U AnyRegs Eights Canon (view (deviceReset s0)) := by
  have h1 : Good K U AnyRegs Eights Canon (view (nextEpoch (crumb 0x21 3 2 (interruptUpdate s0)))) := by simpa using h
  simp only [deviceReset, view_mk, coldState_pending, coldState_fuses, coldState_act, coldState_host, coldState_cells]
  exact good_drop_cells _ _ h1.2.2.2.1 h1

@[simp ↓] theorem rung3_good {K : List Instr} {U : Fuses} (s : State) (h : Good K U AnyRegs Eights Canon (view s)) : Good K U AnyRegs Eights Canon (view (rung3 s)) := by
  unfold rung3
  split
  · exact deviceReset_good s h
  · exact h

@[simp ↓] theorem perstAssert_good {K : List Instr} {U : Fuses} (s : State) (h : Good K U AnyRegs Eights Canon (view s)) :
    Good K U AnyRegs Eights Canon (view (perstAssert s)) := by
  have h1 : Good K U AnyRegs Eights Canon (view (if s.pins.perstN then rung3 s else s)) := by
    split
    · exact rung3_good s h
    · exact h
  exact h1

@[simp ↓] theorem perstRelease_view (s : State) : view (perstRelease s) = view s := by simp [perstRelease]

@[simp ↓] theorem powerOff_good {K : List Instr} {U : Fuses} (s : State) (h : Good K U AnyRegs Eights Canon (view s)) : Good K U AnyRegs Eights Canon (view (powerOff s)) := by
  have h1 : Good K U AnyRegs Eights Canon (view (crumbFlush (crumb 0x21 4 3 (interruptUpdate s)))) := by simpa using h
  unfold powerOff
  split
  · simp only [view_mk, coldState_pending, coldState_fuses, coldState_act, coldState_count, coldState_host, coldState_cells]
    exact good_drop_cells _ _ rfl h1
  · exact h

@[simp ↓] theorem pwrEnRelease_good {K : List Instr} {U : Fuses} (s : State) (h : Good K U AnyRegs Eights Canon (view s)) :
    Good K U AnyRegs Eights Canon (view (pwrEnRelease s)) := powerOff_good s h

@[simp ↓] theorem pwrEnAssert_good {K : List Instr} {U : Fuses} (volt10mV : BitVec 16) (s : State) (h : Good K U AnyRegs Eights Canon (view s)) :
    Good K U AnyRegs Eights Canon (view (pwrEnAssert volt10mV s)) := by
  have h1 : Good K U AnyRegs Eights Canon (view (nextEpoch (coldState { s with pins := { s.pins with pwrEn := true } }))) := by
    rw [nextEpoch_view, view_coldState]
    exact good_drop_cells _ _ rfl h
  simp only [pwrEnAssert]
  split
  · exact h1
  · exact h

@[simp ↓] theorem recoveryLoad_good {K : List Instr} {U : Fuses} (flashOk : Bool) (s : State) (h : Good K U AnyRegs Eights Canon (view s)) :
    Good K U AnyRegs Eights Canon (view (recoveryLoad flashOk s)) := by
  have ht : Good K U AnyRegs Eights Canon (view (boxTake 0 s).2) := by rwa [boxTake_view]
  unfold recoveryLoad
  split
  · dsimp only
    split
    · exact deviceReset_good _ (reply_good 0 _ _ _ { (boxTake 0 s).2 with store := _ } ht)
    · split
      · exact reply_good 0 _ _ _ { (boxTake 0 s).2 with store := _ } ht
      · exact reply_good 0 _ _ _ _ ht
  · split
    · split
      · exact h
      · exact serve_good _ _ (fun _ _ _ hs => reply_good _ _ _ _ _ hs) _ s h
    · exact h

@[simp ↓] theorem snoopEnter_view (l : Nat) (s : State) : view (snoopEnter l s) = view s := by
  simp only [snoopEnter]; (repeat' split) <;> simp

@[simp ↓] theorem hostLine_good {K : List Instr} {U : Fuses} {A : Staged → Prop} {T : W64 → Prop} (a : Nat) (bs : List Byte) (s : State) (h : Good K U A T Canon (view s)) : Good K U A T Canon (view (hostLine a bs s)) := by
  simp only [hostLine]; repeat' (first | (simp [*]; done) | (refine good_foldl _ ?_ _ _ ?_) | (refine good_foldl_snd _ ?_ _ _ ?_) | split | intro _)

@[simp ↓] theorem hostStore_good {K : List Instr} {U : Fuses} {A : Staged → Prop} {T : W64 → Prop} (ps : List (Nat × Nat)) (data : List Byte) (s : State) (h : Good K U A T Canon (view s)) : Good K U A T Canon (view (hostStore ps data s)) := by
  simp only [hostStore]; repeat' (first | (simp (maxDischargeDepth := 99) [h, *]; done) | (refine good_foldl _ ?_ _ _ ?_) | (refine good_foldl_snd _ ?_ _ _ ?_) | (refine good_foldl_tri _ ?_ _ _ ?_) | split | intro _)

@[simp ↓] theorem hostLoad_view (ps : List (Nat × Nat)) (s : State) : view (hostLoad ps s) = view s := by simp [hostLoad]

@[simp ↓] theorem hdmMiss_view (write : Bool) (n : Nat) (s : State) : view (hdmMiss write n s) = view s := by simp [hdmMiss]

@[simp ↓] theorem hostWindow_good {K : List Instr} {U : Fuses} {A : Staged → Prop} {T : W64 → Prop} (write : Bool) (off : Nat) (data : List Byte) (s : State) (h : Good K U A T Canon (view s)) : Good K U A T Canon (view (hostWindow write off data s)) := by
  simp only [hostWindow]; repeat' (first | (simp [*]; done) | (refine good_foldl _ ?_ _ _ ?_) | (refine good_foldl_snd _ ?_ _ _ ?_) | split | intro _)

@[simp ↓] theorem digestBody_good {K : List Instr} {U : Fuses} {A : Staged → Prop} {T : W64 → Prop} {C : List Host.Cell → Prop} (_q : Nat) (r : Ring) (c : Cmd) (s : State) (h : Good K U A T C (view s)) : Good K U A T C (view (digestBody _q r c s).2) := by
  simp only [digestBody]; repeat' (first | (simp [*]; done) | (refine good_foldl _ ?_ _ _ ?_) | (refine good_foldl_snd _ ?_ _ _ ?_) | split | intro _)

@[simp ↓] theorem dumpBody_good {K : List Instr} {U : Fuses} {A : Staged → Prop} {T : W64 → Prop} {C : List Host.Cell → Prop} (_q : Nat) (r : Ring) (c : Cmd) (s : State) (h : Good K U A T C (view s)) : Good K U A T C (view (dumpBody _q r c s).2) := by
  simp only [dumpBody]; repeat' (first | (simp [*]; done) | (refine good_foldl _ ?_ _ _ ?_) | (refine good_foldl_snd _ ?_ _ _ ?_) | split | intro _)

@[simp ↓] theorem applyTiming_good {K : List Instr} {U : Fuses} {T : W64 → Prop} {C : List Host.Cell → Prop} (edge : Option Nat) (s : State) (h : Good K U AnyRegs T C (view s)) : Good K U AnyRegs T C (view (applyTiming edge s)) := by
  simp only [applyTiming]; repeat' (first | (simp (maxDischargeDepth := 99) [h, *]; done) | (refine good_foldl _ ?_ _ _ ?_) | (refine good_foldl_snd _ ?_ _ _ ?_) | split | intro _)

@[simp ↓] theorem trainPorts_good {K : List Instr} {U : Fuses} {A : Staged → Prop} {T : W64 → Prop} {C : List Host.Cell → Prop} (s : State) (h : Good K U A T C (view s)) : Good K U A T C (view (trainPorts s)) := by
  simp (maxDischargeDepth := 99) [trainPorts, h]

@[simp ↓] theorem applyTopo_good {K : List Instr} {U : Fuses} {T : W64 → Prop} {C : List Host.Cell → Prop} (s : State) (h : Good K U AnyRegs T C (view s)) : Good K U AnyRegs T C (view (applyTopo s)) := by
  unfold applyTopo
  split
  · extract_lets was s1 _ s2
    have h1 : Good K U AnyRegs T C (view s1) := applyGroup_good _ _ h
    have h2 : Good K U AnyRegs T C (view s2) := by
      simp only [s2]
      split
      · exact h1
      · exact loseLock_good _ h1
    clear_value s2
    exact relock_good _ (trainPorts_good _ h2)
  · simp (maxDischargeDepth := 99) [h]

@[simp ↓] theorem applyTime_good {K : List Instr} {U : Fuses} {T : W64 → Prop} {C : List Host.Cell → Prop} (s : State) (h : Good K U AnyRegs T C (view s)) : Good K U AnyRegs T C (view (applyTime s)) := by
  simp only [applyTime]; repeat' (first | (simp (maxDischargeDepth := 99) [h, *]; done) | (refine good_foldl _ ?_ _ _ ?_) | (refine good_foldl_snd _ ?_ _ _ ?_) | split | intro _)

@[simp ↓] theorem applyCap_good {K : List Instr} {U : Fuses} {T : W64 → Prop} {C : List Host.Cell → Prop} (s : State) (h : Good K U AnyRegs T C (view s)) : Good K U AnyRegs T C (view (applyCap s)) := by
  simp only [applyCap]; repeat' (first | (simp (maxDischargeDepth := 99) [h, *]; done) | (refine good_foldl _ ?_ _ _ ?_) | (refine good_foldl_snd _ ?_ _ _ ?_) | split | intro _)

@[simp ↓] theorem applyTrace_good {K : List Instr} {U : Fuses} {T : W64 → Prop} {C : List Host.Cell → Prop} (s : State) (h : Good K U AnyRegs T C (view s)) : Good K U AnyRegs T C (view (applyTrace s)) := by
  simp only [applyTrace]; repeat' (first | (simp (maxDischargeDepth := 99) [h, *]; done) | (refine good_foldl _ ?_ _ _ ?_) | (refine good_foldl_snd _ ?_ _ _ ?_) | split | intro _)

@[simp ↓] theorem idleDisabled_view (s : State) : view (idleDisabled s) = view s := by simp [idleDisabled]

@[simp ↓] theorem applyNow_good {K : List Instr} {U : Fuses} {T : W64 → Prop} {C : List Host.Cell → Prop} (s : State) (g : Nat) (h : Good K U AnyRegs T C (view s)) : Good K U AnyRegs T C (view (applyNow s g)) := by
  simp only [applyNow]; repeat' (first | (simp (maxDischargeDepth := 99) [h, *]; done) | (refine good_foldl _ ?_ _ _ ?_) | (refine good_foldl_snd _ ?_ _ _ ?_) | split | intro _)

@[simp ↓] theorem commitGroup_view (s : State) (g : Nat) : view (commitGroup s g) = view s := by simp [commitGroup]

@[simp ↓] theorem cmtCommit_good {K : List Instr} {U : Fuses} {T : W64 → Prop} {C : List Host.Cell → Prop} (groups : W64) (s : State) (h : Good K U AnyRegs T C (view s)) : Good K U AnyRegs T C (view (cmtCommit groups s)) := by
  simp only [cmtCommit]; repeat' (first | (simp (maxDischargeDepth := 99) [h, *]; done) | (refine good_foldl _ ?_ _ _ ?_) | (refine good_foldl_snd _ ?_ _ _ ?_) | split | intro _)

@[simp ↓] theorem discardGroup_view (s : State) (g : Nat) : view (discardGroup s g) = view s := by simp [discardGroup]

@[simp ↓] theorem cmtDiscard_view (groups : W64) (s : State) : view (cmtDiscard groups s) = view s := by simp [cmtDiscard]

@[simp ↓] theorem runClear_view (s : State) : view (runClear s) = view s := by simp [runClear]

@[simp ↓] theorem clearHostRoute_good {K : List Instr} {U : Fuses} {T : W64 → Prop} {C : List Host.Cell → Prop} (s : State) (h : Good K U AnyRegs T C (view s)) : Good K U AnyRegs T C (view (clearHostRoute s)) := by
  simp (maxDischargeDepth := 99) [clearHostRoute, h]

@[simp ↓] theorem clearBoxes_good {K : List Instr} {U : Fuses} {A : Staged → Prop} {T : W64 → Prop} {C : List Host.Cell → Prop} (s : State) (h : Good K U A T C (view s)) : Good K U A T C (view (clearBoxes s)) := by
  simp only [clearBoxes]; repeat' (first | (simp (maxDischargeDepth := 99) [h, *]; done) | (refine good_foldl _ ?_ _ _ ?_) | (refine good_foldl_snd _ ?_ _ _ ?_) | (refine good_foldl_tri _ ?_ _ _ ?_) | split | intro _)

@[simp ↓] theorem dropStep_good {K : List Instr} {U : Fuses} {A : Staged → Prop} {T : W64 → Prop} (s : State) (h : Good K U A T Canon (view s)) : Good K U A T Canon (view (dropStep s)) := by
  simp only [dropStep]; repeat' (first | (simp (maxDischargeDepth := 99) [h, *]; done) | (refine good_foldl _ ?_ _ _ ?_) | (refine good_foldl_snd _ ?_ _ _ ?_) | split | intro _)

@[simp ↓] theorem dropScales_good {K : List Instr} {U : Fuses} {A : Staged → Prop} {T : W64 → Prop} (s : State) (h : Good K U A T Canon (view s)) : Good K U A T Canon (view (dropScales s)) := by
  simp only [dropScales]; repeat' (first | (simp (maxDischargeDepth := 99) [h, *]; done) | (refine good_foldl _ ?_ _ _ ?_) | (refine good_foldl_snd _ ?_ _ _ ?_) | (refine good_foldl_tri _ ?_ _ _ ?_) | split | intro _)

@[simp ↓] theorem clearTables_view (s : State) : view (clearTables s) = view s := by simp [clearTables]

@[simp ↓] theorem settleFlr_good {K : List Instr} {U : Fuses} {T : W64 → Prop} (s : State) (h : Good K U AnyRegs T Canon (view s)) : Good K U AnyRegs T Canon (view (settleFlr s)) := by
  simp only [settleFlr]; repeat' (first | (simp (maxDischargeDepth := 99) [h, *]; done) | (refine good_foldl _ ?_ _ _ ?_) | (refine good_foldl_snd _ ?_ _ _ ?_) | split | intro _)

@[simp ↓] theorem functionReset_good {K : List Instr} {U : Fuses} {T : W64 → Prop} (s : State) (h : Good K U AnyRegs T Canon (view s)) :
    Good K U AnyRegs T Canon (view (functionReset s)) := by
  unfold functionReset
  split
  · exact h
  · extract_lets s1 s2 s3
    have h1 : view s1 = view s := by simp [s1]
    have h2 : Good K U AnyRegs T Canon (view s2) := good_foldl _ (fun s c hs => abortContext_good _ _ s hs) _ _ (h1 ▸ h)
    have h3 : view s3 = view s2 := runClear_view _
    clear_value s3
    exact settleFlr_good _ (h3 ▸ h2)

@[simp ↓] theorem setSleep_good {K : List Instr} {U : Fuses} {A : Staged → Prop} {T : W64 → Prop} {C : List Host.Cell → Prop} (f : Domain → Domain) (s : State) (h : Good K U A T C (view s)) : Good K U A T C (view (setSleep f s)) := by
  simp only [setSleep]; repeat' (first | (simp (maxDischargeDepth := 99) [h, *]; done) | (refine good_foldl _ ?_ _ _ ?_) | (refine good_foldl_snd _ ?_ _ _ ?_) | split | intro _)

@[simp ↓] theorem d3hotEntry_good {K : List Instr} {U : Fuses} {A : Staged → Prop} {T : W64 → Prop} {C : List Host.Cell → Prop} (s : State) (h : Good K U A T C (view s)) : Good K U A T C (view (d3hotEntry s)) := by
  simp only [d3hotEntry]; repeat' (first | (simp (maxDischargeDepth := 99) [h, *]; done) | (refine good_foldl _ ?_ _ _ ?_) | (refine good_foldl_snd _ ?_ _ _ ?_) | split | intro _)

@[simp ↓] theorem d0Return_good {K : List Instr} {U : Fuses} {A : Staged → Prop} {T : W64 → Prop} {C : List Host.Cell → Prop} (s : State) (h : Good K U A T C (view s)) : Good K U A T C (view (d0Return s)) := by
  simp only [d0Return]; repeat' (first | (simp (maxDischargeDepth := 99) [h, *]; done) | (refine good_foldl _ ?_ _ _ ?_) | (refine good_foldl_snd _ ?_ _ _ ?_) | split | intro _)

@[simp ↓] theorem sendDone_view (k : Nat) (notDone : Bool) (s : State) (y : Nat) : view (sendDone k notDone s y) = view s := by
  unfold sendDone; (repeat' split) <;> simp

@[simp ↓] theorem hushPorts_view (s : State) : view (hushPorts s) = view s := by simp [hushPorts]

@[simp ↓] theorem sendRound_view (k : Nat) (notDone : Bool) (s : State) : view (sendRound k notDone s) = view s := by simp [sendRound]

@[simp ↓] theorem doneReport_good {K : List Instr} {U : Fuses} {A : Staged → Prop} (s : State) (h : Good K U A Eights Canon (view s)) : Good K U A Eights Canon (view (doneReport s)) := by
  simp only [doneReport]; repeat' (first | (simp (maxDischargeDepth := 99) [h, *]; done) | (refine good_foldl _ ?_ _ _ ?_) | (refine good_foldl_snd _ ?_ _ _ ?_) | (refine good_foldl_tri _ ?_ _ _ ?_) | split | intro _)

@[simp ↓] theorem doneForward_good {K : List Instr} {U : Fuses} {A : Staged → Prop} {C : List Host.Cell → Prop} (round : Nat) (s : State) (h : Good K U A Eights C (view s)) : Good K U A Eights C (view (doneForward round s)) := by
  simp only [doneForward]; repeat' (first | (simp (maxDischargeDepth := 99) [h, *]; done) | (refine good_foldl _ ?_ _ _ ?_) | (refine good_foldl_snd _ ?_ _ _ ?_) | split | intro _)

@[simp ↓] theorem settleReport_good {K : List Instr} {U : Fuses} {A : Staged → Prop} (s : State) (h : Good K U A Eights Canon (view s)) : Good K U A Eights Canon (view (settleReport s)) := by
  simp (maxDischargeDepth := 99) [settleReport, h]

@[simp ↓] theorem slipEdge_good {K : List Instr} {U : Fuses} {A : Staged → Prop} {T : W64 → Prop} {C : List Host.Cell → Prop} (r : Report) (s : State) (h : Good K U A T C (view s)) : Good K U A T C (view (slipEdge r s)) := by
  simp only [slipEdge]; repeat' (first | (simp (maxDischargeDepth := 99) [h, *]; done) | (refine good_foldl _ ?_ _ _ ?_) | (refine good_foldl_snd _ ?_ _ _ ?_) | split | intro _)

@[simp ↓] theorem freshHalves_view (s : State) : view (freshHalves s) = view s := by simp [freshHalves]

@[simp ↓] theorem seenAgain_view (s : State) : view (seenAgain s) = view s := by simp [seenAgain]

@[simp ↓] theorem edgeZero_view (s : State) : view (edgeZero s) = view s := by simp [edgeZero]

@[simp ↓] theorem poisonLate_view (s : State) : view (poisonLate s) = view s := by simp [poisonLate]

@[simp ↓] theorem startBeat_good {K : List Instr} {U : Fuses} {T : W64 → Prop} (s : State) (h : Good K U AnyRegs T Canon (view s)) : Good K U AnyRegs T Canon (view (startBeat s)) := by
  simp (maxDischargeDepth := 99) [startBeat, h]

@[simp ↓] theorem advanceBeat_view (s : State) : view (advanceBeat s) = view s := by simp [advanceBeat]

@[simp ↓] theorem dropAborted_view (s : State) : view (dropAborted s) = view s := by simp [dropAborted]

@[simp ↓] theorem advanceEdge_good {K : List Instr} {U : Fuses} {T : W64 → Prop} (edge : Nat) (s : State) (h : Good K U AnyRegs T Canon (view s)) :
    Good K U AnyRegs T Canon (view (advanceEdge edge s)) := by
  unfold advanceEdge
  extract_lets first _ _ s1 s2 s3 s4 _ s5
  have h1 : Good K U AnyRegs T Canon (view s1) := h
  have h2 : Good K U AnyRegs T Canon (view s2) := by
    unfold s2
    split <;> simp (maxDischargeDepth := 99) [h1]
  have h3 : Good K U AnyRegs T Canon (view s3) := by
    unfold s3
    split
    · exact applyTiming_good _ _ h2
    · exact h2
  have h4 : Good K U AnyRegs T Canon (view s4) := by
    unfold s4
    split <;> simp (maxDischargeDepth := 99) [h3]
  have h5 : Good K U AnyRegs T Canon (view s5) := by
    unfold s5
    split
    · exact startBeat_good _ h4
    · exact h4
  split
  · exact retireNow_good _ h5
  · exact h5

@[simp ↓] theorem bgEdge_view (s : State) : view (bgEdge s) = view s := by simp [bgEdge]

@[simp ↓] theorem traceTick_good {K : List Instr} {U : Fuses} {A : Staged → Prop} {T : W64 → Prop} {C : List Host.Cell → Prop} (slip : Bool) (s : State) (h : Good K U A T C (view s)) : Good K U A T C (view (traceTick slip s)) := by
  simp (maxDischargeDepth := 99) [traceTick, h]

@[simp ↓] theorem everyEdge_good {K : List Instr} {U : Fuses} {T : W64 → Prop} (held : Bool) (s : State) (h : Good K U AnyRegs T Canon (view s)) : Good K U AnyRegs T Canon (view (everyEdge held s)) := by
  simp (maxDischargeDepth := 99) [everyEdge, h]

@[simp ↓] theorem countEdge_view (s : State) : view (countEdge s) = view s := by simp [countEdge]

@[simp ↓] theorem tickEdge_good {K : List Instr} {U : Fuses} (s : State) (h : Good K U AnyRegs Eights Canon (view s)) : Good K U AnyRegs Eights Canon (view (tickEdge s)) := by
  unfold tickEdge
  split
  · exact h
  · extract_lets s1 edge _ s2 slip held s4 s5 _
    have h1 : Good K U AnyRegs Eights Canon (view s1) := settleReport_good _ h
    have h2 : Good K U AnyRegs Eights Canon (view s2) := by
      unfold s2
      rw [countEdge_view]
      exact advanceTo_good _ _ h1
    have h3 : ∀ o : Option Report, Good K U AnyRegs Eights Canon (view (match o with | some r => slipEdge r s2 | none => advanceEdge edge s2)) := fun o => by
      cases o
      · exact advanceEdge_good _ _ h2
      · exact slipEdge_good _ _ h2
    have h4 : Good K U AnyRegs Eights Canon (view s4) := h3 slip
    have h5 : Good K U AnyRegs Eights Canon (view s5) := everyEdge_good held _ (traceTick_good slip.isSome s4 h4)
    clear_value s5
    exact settleFab_good _ (settleFlr_good _ (by rwa [hushPorts_view]))

@[simp ↓] theorem runSet_view (s : State) : view (runSet s) = view s := by simp [runSet]

@[simp ↓] theorem stageWrite_view (g : Nat) (f : Staged → Staged) (s : State) : view (stageWrite g f s) = view s := by
  simp [stageWrite]

@[simp ↓] theorem writeEvcCtrl_good {K : List Instr} {U : Fuses} {A : Staged → Prop} {T : W64 → Prop} {C : List Host.Cell → Prop} (v : W32) (s : State) (h : Good K U A T C (view s)) : Good K U A T C (view (writeEvcCtrl v s)) := by
  simp only [writeEvcCtrl]; repeat' (first | (simp (maxDischargeDepth := 99) [h, *]; done) | (refine good_foldl _ ?_ _ _ ?_) | (refine good_foldl_snd _ ?_ _ _ ?_) | split | intro _)

@[simp ↓] theorem writeDisable_good {K : List Instr} {U : Fuses} {A : Staged → Prop} {T : W64 → Prop} {C : List Host.Cell → Prop} (v : W32) (s : State) (h : Good K U A T C (view s)) : Good K U A T C (view (writeDisable v s)) := by
  simp only [writeDisable]; repeat' (first | (simp (maxDischargeDepth := 99) [h, *]; done) | (refine good_foldl _ ?_ _ _ ?_) | (refine good_foldl_snd _ ?_ _ _ ?_) | split | intro _)

@[simp ↓] theorem writeObsCtrl_good {K : List Instr} {U : Fuses} {A : Staged → Prop} {T : W64 → Prop} (v : W32) (s : State) (h : Good K U A T Canon (view s)) : Good K U A T Canon (view (writeObsCtrl v s)) := by
  simp only [writeObsCtrl]; repeat' (first | (simp (maxDischargeDepth := 99) [h, *]; done) | (refine good_foldl _ ?_ _ _ ?_) | (refine good_foldl_snd _ ?_ _ _ ?_) | split | intro _)

@[simp ↓] theorem writeFabCtrl_good {K : List Instr} {U : Fuses} {A : Staged → Prop} {T : W64 → Prop} {C : List Host.Cell → Prop} (v : W32) (s : State) (h : Good K U A T C (view s)) : Good K U A T C (view (writeFabCtrl v s)) := by
  simp only [writeFabCtrl]; repeat' (first | (simp (maxDischargeDepth := 99) [h, *]; done) | (refine good_foldl _ ?_ _ _ ?_) | (refine good_foldl_snd _ ?_ _ _ ?_) | split | intro _)

@[simp ↓] theorem writeTblOp_good {K : List Instr} {U : Fuses} {A : Staged → Prop} {T : W64 → Prop} {C : List Host.Cell → Prop} (v : W32) (s : State) (h : Good K U A T C (view s)) : Good K U A T C (view (writeTblOp v s)) := by
  simp only [writeTblOp]; repeat' (first | (simp (maxDischargeDepth := 99) [h, *]; done) | (refine good_foldl _ ?_ _ _ ?_) | (refine good_foldl_snd _ ?_ _ _ ?_) | split | intro _)

@[simp ↓] theorem writeBg_view (i : Nat) (v : W32) (s : State) : view (writeBg i v s) = view s := by simp [writeBg]

@[simp ↓] theorem writeLow32_good {K : List Instr} {U : Fuses} (off : Nat) (v : W32) (s : State) (h : Good K U AnyRegs Eights Canon (view s)) : Good K U AnyRegs Eights Canon (view (writeLow32 off v s)) := by
  simp only [writeLow32]; repeat' (first | (simp (maxDischargeDepth := 99) [h, *]; done) | (refine good_foldl _ ?_ _ _ ?_) | (refine good_foldl_snd _ ?_ _ _ ?_) | split | intro _)

@[simp ↓] theorem writeEvc32_good {K : List Instr} {U : Fuses} {A : Staged → Prop} {T : W64 → Prop} {C : List Host.Cell → Prop} (off : Nat) (v : W32) (s : State) (h : Good K U A T C (view s)) : Good K U A T C (view (writeEvc32 off v s)) := by
  simp only [writeEvc32]; repeat' (first | (simp (maxDischargeDepth := 99) [h, *]; done) | (refine good_foldl _ ?_ _ _ ?_) | (refine good_foldl_snd _ ?_ _ _ ?_) | split | intro _)

@[simp ↓] theorem writeTick32_good {K : List Instr} {U : Fuses} {A : Staged → Prop} {T : W64 → Prop} {C : List Host.Cell → Prop} (off : Nat) (v : W32) (s : State) (h : Good K U A T C (view s)) : Good K U A T C (view (writeTick32 off v s)) := by
  simp only [writeTick32]; repeat' (first | (simp (maxDischargeDepth := 99) [h, *]; done) | (refine good_foldl _ ?_ _ _ ?_) | (refine good_foldl_snd _ ?_ _ _ ?_) | split | intro _)

@[simp ↓] theorem writeFab32_good {K : List Instr} {U : Fuses} {A : Staged → Prop} {T : W64 → Prop} {C : List Host.Cell → Prop} (off : Nat) (v : W32) (s : State) (h : Good K U A T C (view s)) : Good K U A T C (view (writeFab32 off v s)) := by
  simp only [writeFab32]; repeat' (first | (simp (maxDischargeDepth := 99) [h, *]; done) | (refine good_foldl _ ?_ _ _ ?_) | (refine good_foldl_snd _ ?_ _ _ ?_) | split | intro _)

@[simp ↓] theorem writeTop32_good {K : List Instr} {U : Fuses} {A : Staged → Prop} {T : W64 → Prop} (off : Nat) (v : W32) (s : State) (h : Good K U A T Canon (view s)) : Good K U A T Canon (view (writeTop32 off v s)) := by
  simp only [writeTop32]; repeat' (first | (simp (maxDischargeDepth := 99) [h, *]; done) | (refine good_foldl _ ?_ _ _ ?_) | (refine good_foldl_snd _ ?_ _ _ ?_) | split | intro _)

@[simp ↓] theorem writeMsix_good {K : List Instr} {U : Fuses} {A : Staged → Prop} {T : W64 → Prop} {C : List Host.Cell → Prop} (off : Nat) (v : W32) (s : State) (h : Good K U A T C (view s)) : Good K U A T C (view (writeMsix off v s)) := by
  simp only [writeMsix]; repeat' (first | (simp (maxDischargeDepth := 99) [h, *]; done) | (refine good_foldl _ ?_ _ _ ?_) | (refine good_foldl_snd _ ?_ _ _ ?_) | split | intro _)

@[simp ↓] theorem write32_good {K : List Instr} {U : Fuses} (off : Nat) (v : W32) (s : State) (h : Good K U AnyRegs Eights Canon (view s)) : Good K U AnyRegs Eights Canon (view (write32 off v s)) := by
  simp only [write32]; repeat' (first | (simp (maxDischargeDepth := 99) [h, *]; done) | (refine good_foldl _ ?_ _ _ ?_) | (refine good_foldl_snd _ ?_ _ _ ?_) | split | intro _)

@[simp ↓] theorem putRw64_good {K : List Instr} {U : Fuses} {A : Staged → Prop} {C : List Host.Cell → Prop} (off : Nat) (v : W64) (s : State) (h : Good K U A Eights C (view s)) : Good K U A Eights C (view (putRw64 off v s)) := by
  simp only [putRw64]; repeat' (first | (simp (maxDischargeDepth := 99) [h, *]; done) | (refine good_foldl _ ?_ _ _ ?_) | (refine good_foldl_snd _ ?_ _ _ ?_) | split | intro _)

@[simp ↓] theorem write64_good {K : List Instr} {U : Fuses} {T : W64 → Prop} {C : List Host.Cell → Prop} (off : Nat) (v : W64) (mask : W64) (s : State) (h : Good K U AnyRegs T C (view s)) : Good K U AnyRegs T C (view (write64 off v mask s)) := by
  simp only [write64]; repeat' (first | (simp (maxDischargeDepth := 99) [h, *]; done) | (refine good_foldl _ ?_ _ _ ?_) | (refine good_foldl_snd _ ?_ _ _ ?_) | split | intro _)

@[simp ↓] theorem clearHeld_view (s : State) : view (clearHeld s) = view s := by simp [clearHeld]

@[simp ↓] theorem writeEight_good {K : List Instr} {U : Fuses} (off : Nat) (v : W64) (s : State) (h : Good K U AnyRegs Eights Canon (view s)) : Good K U AnyRegs Eights Canon (view (writeEight off v s)) := by
  simp only [writeEight]; repeat' (first | (simp (maxDischargeDepth := 99) [h, *]; done) | (refine good_foldl _ ?_ _ _ ?_) | (refine good_foldl_snd _ ?_ _ _ ?_) | split | intro _)

@[simp ↓] theorem writeHigh_good {K : List Instr} {U : Fuses} {A : Staged → Prop} {C : List Host.Cell → Prop} (off : Nat) (old : W64) (field : W64) (v : W32) (s : State) (h : Good K U A Eights C (view s)) : Good K U A Eights C (view (writeHigh off old field v s)) := by
  simp (maxDischargeDepth := 99) [writeHigh, h]

@[simp ↓] theorem writeFour_good {K : List Instr} {U : Fuses} (off : Nat) (v : W32) (s : State) (h : Good K U AnyRegs Eights Canon (view s)) : Good K U AnyRegs Eights Canon (view (writeFour off v s)) := by
  simp only [writeFour]; repeat' (first | (simp (maxDischargeDepth := 99) [h, *]; done) | (refine good_foldl _ ?_ _ _ ?_) | (refine good_foldl_snd _ ?_ _ _ ?_) | split | intro _)

end Sys2Proof.Machine
end

