-- ==== Sys2Proof/Laws/Exec.lean ====
section
/-!
SUPPORT. Frame laws of the commands: `_view` for a command that changes no part of the view, `_good` as in Laws/Frame.lean.
-/
set_option linter.unusedTactic false
set_option linter.unreachableTactic false
set_option linter.unusedSimpArgs false
namespace Sys2Proof.Machine

/-- What the next state of an outcome shows. -/
def outView : Host.Outcome State Fault Refusal → Option View
  | .next t => some (view t)
  | _ => none

@[simp ↓] theorem outView_next (t : State) : outView (.next t) = some (view t) := rfl

/-- The outcome is a next state that is good. -/
def OutGood (k : List Instr) (u : Fuses) (a : Staged → Prop) (t : W64 → Prop) (c : List Host.Cell → Prop) : Host.Outcome State Fault Refusal → Prop
  | .next s => Good k u a t c (view s)
  | _ => False

@[simp ↓] theorem outGood_next {k : List Instr} {u : Fuses} {a : Staged → Prop} {t : W64 → Prop} {c : List Host.Cell → Prop} (s : State) :
    OutGood k u a t c (.next s) = Good k u a t c (view s) := rfl

/-- FW_IMAGE_LOADED (13 R391): only the rollback minimum of the fuses changes, and it only rises. -/
theorem execFwImageLoaded_good {K : List Instr} {U : Fuses} {A : Staged → Prop} {T : W64 → Prop} {C : List Host.Cell → Prop}
    (s : State) (h : Good K U A T C (view s)) : ∃ n, U.rollback ≤ n ∧ OutGood K { U with rollback := n } A T C (execFwImageLoaded s) :=
  fwImageLoaded_good s h

theorem execNop_good {K : List Instr} {U : Fuses} {A : Staged → Prop} {T : W64 → Prop} {C : List Host.Cell → Prop} (q : Nat) (d : Desc) (s : State)
    (h : Good K U A T C (view s)) : OutGood K U A T C (execNop q d s) :=
  runCmd_good _ _ (fun _ _ _ _ h => by simp (maxDischargeDepth := 99) [h, nopMeaning]) _ _ s h

theorem execSignal_good {K : List Instr} {U : Fuses} {A : Staged → Prop} {T : W64 → Prop} {C : List Host.Cell → Prop} (q : Nat) (d : Desc) (s : State)
    (h : Good K U A T C (view s)) : OutGood K U A T C (execSignal q d s) :=
  runCmd_good _ _ (fun _ _ _ _ h => by simp (maxDischargeDepth := 99) [h, signalMeaning]) _ _ s h

theorem execWait_good {K : List Instr} {U : Fuses} {A : Staged → Prop} {T : W64 → Prop} {C : List Host.Cell → Prop} (q : Nat) (d : Desc) (s : State)
    (h : Good K U A T C (view s)) : OutGood K U A T C (execWait q d s) :=
  runCmd_good _ _ (fun _ _ _ _ h => by simp (maxDischargeDepth := 99) [h, waitMeaning]) _ _ s h

theorem execWaitTimeout_good {K : List Instr} {U : Fuses} {A : Staged → Prop} {C : List Host.Cell → Prop} (q : Nat) (s : State)
    (h : Good K U A Eights C (view s)) : OutGood K U A Eights C (execWaitTimeout q s) := by
  simp (maxDischargeDepth := 99) [execWaitTimeout, h]

theorem execFence_good {K : List Instr} {U : Fuses} {A : Staged → Prop} {T : W64 → Prop} {C : List Host.Cell → Prop} (q : Nat) (d : Desc) (s : State)
    (h : Good K U A T C (view s)) : OutGood K U A T C (execFence q d s) :=
  runCmd_good _ _ (fun _ _ _ _ h => by simp (maxDischargeDepth := 99) [h, fenceMeaning]) _ _ s h

theorem execTickMark_good {K : List Instr} {U : Fuses} {A : Staged → Prop} {T : W64 → Prop} {C : List Host.Cell → Prop} (q : Nat) (d : Desc) (s : State)
    (h : Good K U A T C (view s)) : OutGood K U A T C (execTickMark q d s) :=
  runCmd_good _ _ (fun _ _ _ _ h => by simp (maxDischargeDepth := 99) [h, tickMarkMeaning]) _ _ s h

theorem execVote_good {K : List Instr} {U : Fuses} {A : Staged → Prop} {T : W64 → Prop} {C : List Host.Cell → Prop} (ring : Nat) (d : Desc) (s : State)
    (h : Good K U A T C (view s)) : OutGood K U A T C (execVote ring d s) :=
  runCmd_good _ _ (fun _ _ _ _ h => by simp (maxDischargeDepth := 99) [h]) _ _ s h

theorem execLoadGraph_good {K : List Instr} {U : Fuses} {A : Staged → Prop} {T : W64 → Prop} {C : List Host.Cell → Prop} (ring : Nat) (d : Desc) (s : State)
    (h : Good K U A T C (view s)) : OutGood K U A T C (execLoadGraph ring d s) :=
  runCmd_good _ _ (fun _ _ _ _ h => by simp (maxDischargeDepth := 99) [h]) _ _ s h

theorem execPlace_good {K : List Instr} {U : Fuses} {A : Staged → Prop} {T : W64 → Prop} (ring : Nat) (d : Desc) (s : State)
    (h : Good K U A T Canon (view s)) : OutGood K U A T Canon (execPlace ring d s) :=
  runCmd_good _ _ (fun _ _ _ _ h => by simp (maxDischargeDepth := 99) [h]) _ _ s h

theorem execReplace_good {K : List Instr} {U : Fuses} {A : Staged → Prop} {T : W64 → Prop} {C : List Host.Cell → Prop} (ring : Nat) (d : Desc) (s : State)
    (h : Good K U A T C (view s)) : OutGood K U A T C (execReplace ring d s) :=
  runCmd_good _ _ (fun _ _ _ _ h => by simp (maxDischargeDepth := 99) [h]) _ _ s h

theorem execPin_good {K : List Instr} {U : Fuses} {A : Staged → Prop} {T : W64 → Prop} {C : List Host.Cell → Prop} (ring : Nat) (d : Desc) (s : State)
    (h : Good K U A T C (view s)) : OutGood K U A T C (execPin ring d s) :=
  runCmd_good _ _ (fun _ _ _ _ h => by simp (maxDischargeDepth := 99) [h]) _ _ s h

theorem execUnloadGraph_good {K : List Instr} {U : Fuses} {A : Staged → Prop} {T : W64 → Prop} {C : List Host.Cell → Prop} (ring : Nat) (d : Desc) (s : State)
    (h : Good K U A T C (view s)) : OutGood K U A T C (execUnloadGraph ring d s) :=
  runCmd_good _ _ (fun _ _ _ _ h => by simp (maxDischargeDepth := 99) [h]) _ _ s h

theorem execMatmul_good {K : List Instr} {U : Fuses} {A : Staged → Prop} {T : W64 → Prop} (ring : Nat) (d : Desc) (s : State)
    (h : Good K U A T Canon (view s)) : OutGood K U A T Canon (execMatmul ring d s) :=
  runCmd_good _ _ (fun _ _ _ _ h => by simp (maxDischargeDepth := 99) [h]) _ _ s h

theorem execMatvec_good {K : List Instr} {U : Fuses} {A : Staged → Prop} {T : W64 → Prop} (ring : Nat) (d : Desc) (s : State)
    (h : Good K U A T Canon (view s)) : OutGood K U A T Canon (execMatvec ring d s) :=
  runCmd_good _ _ (fun _ _ _ _ h => by simp (maxDischargeDepth := 99) [h]) _ _ s h

theorem execEmbGather_good {K : List Instr} {U : Fuses} {A : Staged → Prop} {T : W64 → Prop} (ring : Nat) (d : Desc) (s : State)
    (h : Good K U A T Canon (view s)) : OutGood K U A T Canon (execEmbGather ring d s) := by
  refine runCmd_good _ _ (fun q r c s h => ?_) _ _ s h
  dsimp only
  exact embBody_good _ _ _ (fun x d n s h => gatherRep_good x d n s h) q r c s h

theorem execEmbPool_good {K : List Instr} {U : Fuses} {A : Staged → Prop} {T : W64 → Prop} (ring : Nat) (d : Desc) (s : State)
    (h : Good K U A T Canon (view s)) : OutGood K U A T Canon (execEmbPool ring d s) := by
  refine runCmd_good _ _ (fun q r c s h => ?_) _ _ s h
  dsimp only
  exact embBody_good _ _ _ (fun x d n s h => poolRep_good x d n s h) q r c s h

theorem execEmbScatter_good {K : List Instr} {U : Fuses} {A : Staged → Prop} {T : W64 → Prop} (ring : Nat) (d : Desc) (s : State)
    (h : Good K U A T Canon (view s)) : OutGood K U A T Canon (execEmbScatter ring d s) := by
  refine runCmd_good _ _ (fun q r c s h => ?_) _ _ s h
  dsimp only
  exact embBody_good _ _ _ (fun x d n s h => scatterRep_good x d n s h) q r c s h

theorem execElemwise_good {K : List Instr} {U : Fuses} {A : Staged → Prop} {T : W64 → Prop} (ring : Nat) (d : Desc) (s : State)
    (h : Good K U A T Canon (view s)) : OutGood K U A T Canon (execElemwise ring d s) :=
  runCmd_good _ _ (fun _ _ _ _ h => by simp (maxDischargeDepth := 99) [h]) _ _ s h

theorem execNorm_good {K : List Instr} {U : Fuses} {A : Staged → Prop} {T : W64 → Prop} (ring : Nat) (d : Desc) (s : State)
    (h : Good K U A T Canon (view s)) : OutGood K U A T Canon (execNorm ring d s) :=
  runCmd_good _ _ (fun _ _ _ _ h => by simp (maxDischargeDepth := 99) [h]) _ _ s h

theorem execSoftmax_good {K : List Instr} {U : Fuses} {A : Staged → Prop} {T : W64 → Prop} (ring : Nat) (d : Desc) (s : State)
    (h : Good K U A T Canon (view s)) : OutGood K U A T Canon (execSoftmax ring d s) :=
  runCmd_good _ _ (fun _ _ _ _ h => by simp (maxDischargeDepth := 99) [h]) _ _ s h

theorem execAttend_good {K : List Instr} {U : Fuses} {A : Staged → Prop} {T : W64 → Prop} (ring : Nat) (d : Desc) (s : State)
    (h : Good K U A T Canon (view s)) : OutGood K U A T Canon (execAttend ring d s) :=
  runCmd_good _ _ (fun _ _ _ _ h => by simp (maxDischargeDepth := 99) [h]) _ _ s h

theorem execConvert_good {K : List Instr} {U : Fuses} {A : Staged → Prop} {T : W64 → Prop} (ring : Nat) (d : Desc) (s : State)
    (h : Good K U A T Canon (view s)) : OutGood K U A T Canon (execConvert ring d s) :=
  runCmd_good _ _ (fun _ _ _ _ h => by simp (maxDischargeDepth := 99) [h]) _ _ s h

theorem execLoadWeights_good {K : List Instr} {U : Fuses} {A : Staged → Prop} {T : W64 → Prop} {C : List Host.Cell → Prop} (ring : Nat) (d : Desc) (s : State)
    (h : Good K U A T C (view s)) : OutGood K U A T C (execLoadWeights ring d s) :=
  runCmd_good _ _ (fun _ _ _ _ h => by simp (maxDischargeDepth := 99) [h]) _ _ s h

theorem execCopy_good {K : List Instr} {U : Fuses} {A : Staged → Prop} {T : W64 → Prop} (ring : Nat) (d : Desc) (s : State)
    (h : Good K U A T Canon (view s)) : OutGood K U A T Canon (execCopy ring d s) :=
  settleFab_good _ (runCmd_good _ _ (fun _ _ _ _ h => by simp (maxDischargeDepth := 99) [h]) _ _ s h)

theorem execGatherParams_good {K : List Instr} {U : Fuses} {A : Staged → Prop} {T : W64 → Prop} (ring : Nat) (d : Desc) (s : State)
    (h : Good K U A T Canon (view s)) : OutGood K U A T Canon (execGatherParams ring d s) :=
  settleFab_good _ (runCmd_good _ _ (fun _ _ _ _ h => by simp (maxDischargeDepth := 99) [h]) _ _ s h)

theorem execReduceScatter_good {K : List Instr} {U : Fuses} {A : Staged → Prop} {T : W64 → Prop} (ring : Nat) (d : Desc) (s : State)
    (h : Good K U A T Canon (view s)) : OutGood K U A T Canon (execReduceScatter ring d s) :=
  settleFab_good _ (runCmd_good _ _ (fun _ _ _ _ h => by simp (maxDischargeDepth := 99) [h]) _ _ s h)

theorem execAllToAll_good {K : List Instr} {U : Fuses} {A : Staged → Prop} {T : W64 → Prop} (ring : Nat) (d : Desc) (s : State)
    (h : Good K U A T Canon (view s)) : OutGood K U A T Canon (execAllToAll ring d s) :=
  settleFab_good _ (runCmd_good _ _ (fun _ _ _ _ h => by simp (maxDischargeDepth := 99) [h]) _ _ s h)

theorem execSend_good {K : List Instr} {U : Fuses} {A : Staged → Prop} {T : W64 → Prop} (ring : Nat) (d : Desc) (s : State)
    (h : Good K U A T Canon (view s)) : OutGood K U A T Canon (execSend ring d s) :=
  settleFab_good _ (runCmd_good _ _ (fun _ _ _ _ h => by simp (maxDischargeDepth := 99) [h]) _ _ s h)

theorem execRecv_good {K : List Instr} {U : Fuses} {A : Staged → Prop} {T : W64 → Prop} (ring : Nat) (d : Desc) (s : State)
    (h : Good K U A T Canon (view s)) : OutGood K U A T Canon (execRecv ring d s) :=
  settleFab_good _ (runCmd_good _ _ (fun _ _ _ _ h => by simp (maxDischargeDepth := 99) [h]) _ _ s h)

theorem execUpdateLayer_good {K : List Instr} {U : Fuses} {A : Staged → Prop} {T : W64 → Prop} (ring : Nat) (d : Desc) (s : State)
    (h : Good K U A T Canon (view s)) : OutGood K U A T Canon (execUpdateLayer ring d s) :=
  runCmd_good _ _ (fun _ _ _ _ h => by simp (maxDischargeDepth := 99) [h]) _ _ s h

theorem execRowUpdate_good {K : List Instr} {U : Fuses} {A : Staged → Prop} {T : W64 → Prop} (ring : Nat) (d : Desc) (s : State)
    (h : Good K U A T Canon (view s)) : OutGood K U A T Canon (execRowUpdate ring d s) :=
  runCmd_good _ _ (fun _ _ _ _ h => by simp (maxDischargeDepth := 99) [h]) _ _ s h

theorem execStepBegin_good {K : List Instr} {U : Fuses} {T : W64 → Prop} (ring : Nat) (d : Desc) (s : State)
    (h : Good K U AnyRegs T Canon (view s)) : OutGood K U AnyRegs T Canon (execStepBegin ring d s) :=
  runCmd_good _ _ (fun _ _ _ _ h => by simp (maxDischargeDepth := 99) [h]) _ _ s h

theorem execStepCommit_good {K : List Instr} {U : Fuses} {A : Staged → Prop} {T : W64 → Prop} {C : List Host.Cell → Prop} (ring : Nat) (d : Desc) (s : State)
    (h : Good K U A T C (view s)) : OutGood K U A T C (execStepCommit ring d s) :=
  runCmd_good _ _ (fun _ _ _ _ h => by simp (maxDischargeDepth := 99) [h]) _ _ s h

theorem execScheduleSet_good {K : List Instr} {U : Fuses} {A : Staged → Prop} {T : W64 → Prop} {C : List Host.Cell → Prop} (ring : Nat) (d : Desc) (s : State)
    (h : Good K U A T C (view s)) : OutGood K U A T C (execScheduleSet ring d s) :=
  runCmd_good _ _ (fun _ _ _ _ h => by simp (maxDischargeDepth := 99) [h]) _ _ s h

theorem execSetRecipe_good {K : List Instr} {U : Fuses} {A : Staged → Prop} {T : W64 → Prop} {C : List Host.Cell → Prop} (ring : Nat) (d : Desc) (s : State)
    (h : Good K U A T C (view s)) : OutGood K U A T C (execSetRecipe ring d s) :=
  runCmd_good _ _ (fun _ _ _ _ h => by simp (maxDischargeDepth := 99) [h]) _ _ s h

theorem execReadStats_good {K : List Instr} {U : Fuses} {A : Staged → Prop} {T : W64 → Prop} {C : List Host.Cell → Prop} (ring : Nat) (d : Desc) (s : State)
    (h : Good K U A T C (view s)) : OutGood K U A T C (execReadStats ring d s) :=
  runCmd_good _ _ (fun _ _ _ _ h => by simp (maxDischargeDepth := 99) [h]) _ _ s h

theorem execShadowCfg_good {K : List Instr} {U : Fuses} {A : Staged → Prop} {T : W64 → Prop} {C : List Host.Cell → Prop} (ring : Nat) (d : Desc) (s : State)
    (h : Good K U A T C (view s)) : OutGood K U A T C (execShadowCfg ring d s) :=
  runCmd_good _ _ (fun _ _ _ _ h => by simp (maxDischargeDepth := 99) [h, shadowCfgBody]) _ _ s h

theorem execDigest_good {K : List Instr} {U : Fuses} {A : Staged → Prop} {T : W64 → Prop} {C : List Host.Cell → Prop} (ring : Nat) (d : Desc) (s : State)
    (h : Good K U A T C (view s)) : OutGood K U A T C (execDigest ring d s) :=
  runCmd_good _ _ (fun _ _ _ _ h => by simp (maxDischargeDepth := 99) [h]) _ _ s h

theorem execDump_good {K : List Instr} {U : Fuses} {A : Staged → Prop} {T : W64 → Prop} {C : List Host.Cell → Prop} (ring : Nat) (d : Desc) (s : State)
    (h : Good K U A T C (view s)) : OutGood K U A T C (execDump ring d s) :=
  runCmd_good _ _ (fun _ _ _ _ h => by simp (maxDischargeDepth := 99) [h]) _ _ s h

theorem execReplay_good {K : List Instr} {U : Fuses} {A : Staged → Prop} {T : W64 → Prop} (ring : Nat) (d : Desc) (s : State)
    (h : Good K U A T Canon (view s)) : OutGood K U A T Canon (execReplay ring d s) :=
  runCmd_good _ _ (fun _ _ _ _ h => by simp (maxDischargeDepth := 99) [h]) _ _ s h

theorem execRecordStep_good {K : List Instr} {U : Fuses} {A : Staged → Prop} {T : W64 → Prop} {C : List Host.Cell → Prop} (ring : Nat) (d : Desc) (s : State)
    (h : Good K U A T C (view s)) : OutGood K U A T C (execRecordStep ring d s) :=
  runCmd_good _ _ (fun _ _ _ _ h => by simp (maxDischargeDepth := 99) [h]) _ _ s h

theorem execTraceStart_good {K : List Instr} {U : Fuses} {A : Staged → Prop} {T : W64 → Prop} {C : List Host.Cell → Prop} (q : Nat) (d : Desc) (s : State)
    (h : Good K U A T C (view s)) : OutGood K U A T C (execTraceStart q d s) :=
  traceCtl_good _ _ (fun _ _ h => by simp (maxDischargeDepth := 99) [h]) _ _ s h

theorem execTraceStop_good {K : List Instr} {U : Fuses} {A : Staged → Prop} {T : W64 → Prop} (q : Nat) (d : Desc) (s : State)
    (h : Good K U A T Canon (view s)) : OutGood K U A T Canon (execTraceStop q d s) :=
  traceCtl_good _ _ (fun _ _ h => by simp (maxDischargeDepth := 99) [h]) _ _ s h

theorem execTraceTrigger_good {K : List Instr} {U : Fuses} {A : Staged → Prop} {T : W64 → Prop} {C : List Host.Cell → Prop} (q : Nat) (d : Desc) (s : State)
    (h : Good K U A T C (view s)) : OutGood K U A T C (execTraceTrigger q d s) :=
  traceCtl_good _ _ (fun _ _ h => by simp (maxDischargeDepth := 99) [h]) _ _ s h

theorem execTraceMark_good {K : List Instr} {U : Fuses} {A : Staged → Prop} {T : W64 → Prop} {C : List Host.Cell → Prop} (q : Nat) (d : Desc) (s : State)
    (h : Good K U A T C (view s)) : OutGood K U A T C (execTraceMark q d s) :=
  traceCtl_good _ _ (fun _ _ h => by simp (maxDischargeDepth := 99) [h]) _ _ s h

theorem execTraceSetMask_good {K : List Instr} {U : Fuses} {A : Staged → Prop} {T : W64 → Prop} {C : List Host.Cell → Prop} (q : Nat) (d : Desc) (s : State)
    (h : Good K U A T C (view s)) : OutGood K U A T C (execTraceSetMask q d s) :=
  traceCtl_good _ _ (fun _ _ h => by simp (maxDischargeDepth := 99) [h]) _ _ s h

theorem execSampleNow_good {K : List Instr} {U : Fuses} {T : W64 → Prop} {C : List Host.Cell → Prop} (q : Nat) (d : Desc) (s : State)
    (h : Good K U AnyRegs T C (view s)) : OutGood K U AnyRegs T C (execSampleNow q d s) :=
  runCmd_good _ _ (fun _ _ _ _ h => by simp (maxDischargeDepth := 99) [h, sampleNowMeaning]) _ _ s h

theorem execAbortContext_good {K : List Instr} {U : Fuses} {A : Staged → Prop} {T : W64 → Prop} {C : List Host.Cell → Prop} (q : Nat) (d : Desc) (s : State)
    (h : Good K U A T C (view s)) : OutGood K U A T C (execAbortContext q d s) :=
  runCmd_good _ _ (fun _ _ _ _ h => by simp (maxDischargeDepth := 99) [h, abortMeaning]) _ _ s h

theorem execQuery_good {K : List Instr} {U : Fuses} {A : Staged → Prop} {T : W64 → Prop} {C : List Host.Cell → Prop} (q : Nat) (d : Desc) (s : State)
    (h : Good K U A T C (view s)) : OutGood K U A T C (execQuery q d s) :=
  runCmd_good _ _ (fun _ _ _ _ h => by simp (maxDischargeDepth := 99) [h, queryMeaning]) _ _ s h

theorem execMigrate_view (table page : Nat) (s : State) : outView (execMigrate table page s) = some (view s) := by
  simp only [execMigrate, outView_next, Option.some.injEq]
  repeat' (first | (simp; done) | split)

theorem execTickEdge_good {K : List Instr} {U : Fuses} (s : State)
    (h : Good K U AnyRegs Eights Canon (view s)) : OutGood K U AnyRegs Eights Canon (execTickEdge s) := by
  simp (maxDischargeDepth := 99) [execTickEdge, h]

theorem execDoneReport_good {K : List Instr} {U : Fuses} {A : Staged → Prop} (s : State)
    (h : Good K U A Eights Canon (view s)) : OutGood K U A Eights Canon (execDoneReport s) := by
  simp (maxDischargeDepth := 99) [execDoneReport, h]

theorem execDoneForward_good {K : List Instr} {U : Fuses} {A : Staged → Prop} {C : List Host.Cell → Prop} (round : Nat) (s : State)
    (h : Good K U A Eights C (view s)) : OutGood K U A Eights C (execDoneForward round s) := by
  simp (maxDischargeDepth := 99) [execDoneForward, h]

theorem execDoneSymbolReceive_view (dim peer : Nat) (symbol : W64) (s : State) : outView (execDoneSymbolReceive dim peer symbol s) = some (view s) := by simp [execDoneSymbolReceive]

theorem execVoteFrameReceive_good {K : List Instr} {U : Fuses} {A : Staged → Prop} {T : W64 → Prop} {C : List Host.Cell → Prop} (dim peer : Nat) (frame : VoteFrame) (s : State)
    (h : Good K U A T C (view s)) : OutGood K U A T C (execVoteFrameReceive dim peer frame s) := by
  simp (maxDischargeDepth := 99) [execVoteFrameReceive, h]

theorem execArrayPassStart_good {K : List Instr} {U : Fuses} {A : Staged → Prop} {T : W64 → Prop} {C : List Host.Cell → Prop} (tile : Nat) (tag : BitVec 34) (rows : PassRows) (readyCycle : Nat) (found : PassFault) (s : State)
    (h : Good K U A T C (view s)) : OutGood K U A T C (execArrayPassStart tile tag rows readyCycle found s) := by
  simp only [execArrayPassStart, outGood_next]; repeat' (first | (simp (maxDischargeDepth := 99) [h, *]; done) | (refine good_foldl _ ?_ _ _ ?_) | (refine good_foldl_snd _ ?_ _ _ ?_) | (refine good_foldl_tri _ ?_ _ _ ?_) | split | intro _)

theorem execShadowCheck_good {K : List Instr} {U : Fuses} {A : Staged → Prop} {T : W64 → Prop} {C : List Host.Cell → Prop} (tile : Nat) (s : State)
    (h : Good K U A T C (view s)) : OutGood K U A T C (execShadowCheck tile s) := by
  simp only [execShadowCheck, outGood_next]
  repeat' (first | (simp (maxDischargeDepth := 99) [h]; done) | split)

theorem execProductTableBuild_view (layer : Nat) (s : State) : outView (execProductTableBuild layer s) = some (view s) := by
  simp only [execProductTableBuild, outView_next, Option.some.injEq]
  repeat' (first | (simp; done) | split)

theorem execRootComputeStart_view (layer block factor : Nat) (s : State) : outView (execRootComputeStart layer block factor s) = some (view s) := by
  simp only [execRootComputeStart, outView_next, Option.some.injEq]
  repeat' (first | (simp; done) | split)

theorem execRootComputeDone_view (layer block factor : Nat) (s : State) : outView (execRootComputeDone layer block factor s) = some (view s) := by
  simp only [execRootComputeDone, outView_next, Option.some.injEq]
  repeat' (first | (simp; done) | split)

theorem execStagingLogWriteback_good {K : List Instr} {U : Fuses} {A : Staged → Prop} {T : W64 → Prop} (table row : Nat) (s : State)
    (h : Good K U A T Canon (view s)) : OutGood K U A T Canon (execStagingLogWriteback table row s) := by
  simp (maxDischargeDepth := 99) [execStagingLogWriteback, h]

theorem execNearScrubPass_good {K : List Instr} {U : Fuses} {A : Staged → Prop} {T : W64 → Prop} {C : List Host.Cell → Prop} (column word : Nat) (found : EccFinding) (s : State)
    (h : Good K U A T C (view s)) : OutGood K U A T C (execNearScrubPass column word found s) := by
  simp (maxDischargeDepth := 99) [execNearScrubPass, h]

theorem execFarScrubPass_good {K : List Instr} {U : Fuses} {A : Staged → Prop} {T : W64 → Prop} {C : List Host.Cell → Prop} (channel sector : Nat) (found : EccFinding) (s : State)
    (h : Good K U A T C (view s)) : OutGood K U A T C (execFarScrubPass channel sector found s) := by
  simp (maxDischargeDepth := 99) [execFarScrubPass, h]

theorem execBucketDecay_good {K : List Instr} {U : Fuses} {A : Staged → Prop} {C : List Host.Cell → Prop} (s : State)
    (h : Good K U A Eights C (view s)) : OutGood K U A Eights C (execBucketDecay s) := by
  simp (maxDischargeDepth := 99) [execBucketDecay, h]

theorem execDoorbellL1Invalidate_good {K : List Instr} {U : Fuses} {A : Staged → Prop} {T : W64 → Prop} {C : List Host.Cell → Prop} (line : Nat) (stores : List Host.Cell) (s : State)
    (h : Good K U A T C (view s)) : OutGood K U A T C (execDoorbellL1Invalidate line stores s) := by
  simp (maxDischargeDepth := 99) [execDoorbellL1Invalidate, h]

theorem execCqHeadUpdate_good {K : List Instr} {U : Fuses} {A : Staged → Prop} {T : W64 → Prop} {C : List Host.Cell → Prop} (context : Nat) (stores : List Host.Cell) (s : State)
    (h : Good K U A T C (view s)) : OutGood K U A T C (execCqHeadUpdate context stores s) := by
  simp (maxDischargeDepth := 99) [execCqHeadUpdate, h]

theorem execQsuTblWrite_good {K : List Instr} {U : Fuses} {A : Staged → Prop} {T : W64 → Prop} {C : List Host.Cell → Prop} (s : State)
    (h : Good K U A T C (view s)) : OutGood K U A T C (execQsuTblWrite s) :=
  onBus_good _ _ _ (fun s h => by simp (maxDischargeDepth := 99) [h]) s h

theorem execQsuTblRead_view (s : State) : outView (execQsuTblRead s) = some (view s) := by
  simp only [execQsuTblRead, outView_next, Option.some.injEq]
  exact onBus_view _ _ _ (fun s => by simp) s

theorem execQsuTblEnable_view (s : State) : outView (execQsuTblEnable s) = some (view s) := by
  simp only [execQsuTblEnable, outView_next, Option.some.injEq]
  exact onBus_view _ _ _ (fun s => by simp) s

theorem execQsuTblDisable_view (s : State) : outView (execQsuTblDisable s) = some (view s) := by
  simp only [execQsuTblDisable, outView_next, Option.some.injEq]
  exact onBus_view _ _ _ (fun s => by simp) s

theorem execRingDisabled_view (ring : Nat) (s : State) : outView (execRingDisabled ring s) = some (view s) := by simp [execRingDisabled]

theorem execFetchEnSet_good {K : List Instr} {U : Fuses} {A : Staged → Prop} {T : W64 → Prop} {C : List Host.Cell → Prop} (s : State)
    (h : Good K U A T C (view s)) : OutGood K U A T C (execFetchEnSet s) :=
  onBus_good _ _ _ (fun s h => by simp (maxDischargeDepth := 99) [h]) s h

theorem execCmtCommit_good {K : List Instr} {U : Fuses} {T : W64 → Prop} {C : List Host.Cell → Prop} (groups : W64) (s : State)
    (h : Good K U AnyRegs T C (view s)) : OutGood K U AnyRegs T C (execCmtCommit groups s) :=
  onBus_good _ _ _ (fun s h => by simp (maxDischargeDepth := 99) [h]) s h

theorem execCmtDiscard_view (groups : W64) (s : State) : outView (execCmtDiscard groups s) = some (view s) := by
  simp only [execCmtDiscard, outView_next, Option.some.injEq]
  exact onBus_view _ _ _ (fun s => by simp) s

theorem execCmtGroupApply_good {K : List Instr} {U : Fuses} {T : W64 → Prop} {C : List Host.Cell → Prop} (group : Nat) (s : State)
    (h : Good K U AnyRegs T C (view s)) : OutGood K U AnyRegs T C (execCmtGroupApply group s) := by
  simp (maxDischargeDepth := 99) [execCmtGroupApply, h]

theorem execTkcRunSet_view (s : State) : outView (execTkcRunSet s) = some (view s) := by
  simp only [execTkcRunSet, outView_next, Option.some.injEq]
  exact onBus_view _ _ _ (fun s => by simp) s

theorem execTkcRunClear_view (s : State) : outView (execTkcRunClear s) = some (view s) := by
  simp only [execTkcRunClear, outView_next, Option.some.injEq]
  exact onBus_view _ _ _ (fun s => by simp) s

theorem execGlbDeviceReset_good {K : List Instr} {U : Fuses} (key : W32) (s : State)
    (h : Good K U AnyRegs Eights Canon (view s)) : OutGood K U AnyRegs Eights Canon (execGlbDeviceReset key s) :=
  onBus_good _ _ _ (fun s h => by simp (maxDischargeDepth := 99) [h]) s h

theorem execRegisterWrite_good {K : List Instr} {U : Fuses} (offset size : Nat) (value : W64) (s : State)
    (h : Good K U AnyRegs Eights Canon (view s)) : OutGood K U AnyRegs Eights Canon (execRegisterWrite offset size value s) :=
  onBus_good _ _ _ (fun t h => by
    have hk : view (keepBad offset size s (if size = 8 then writeEight offset value t else writeFour offset (value.setWidth 32) t)) =
        view (if size = 8 then writeEight offset value t else writeFour offset (value.setWidth 32) t) := by
      unfold keepBad; split <;> simp
    rw [hk]; split <;> simp (maxDischargeDepth := 99) [h]) s h

theorem execClkTbSet_good {K : List Instr} {U : Fuses} {A : Staged → Prop} {C : List Host.Cell → Prop} (value : W64) (s : State)
    (h : Good K U A Eights C (view s)) : OutGood K U A Eights C (execClkTbSet value s) :=
  onBus_good _ _ _ (fun s h => by simp (maxDischargeDepth := 99) [h]) s h

theorem execMbxSend_good {K : List Instr} {U : Fuses} {A : Staged → Prop} {T : W64 → Prop} {C : List Host.Cell → Prop} (box : Nat) (word : W64) (s : State)
    (h : Good K U A T C (view s)) : OutGood K U A T C (execMbxSend box word s) := by
  simp only [execMbxSend, outGood_next]
  split
  · exact onBus_good _ _ _ (fun s h => by simp (maxDischargeDepth := 99) [h]) s h
  · exact h

theorem execMbxRecv_good {K : List Instr} {U : Fuses} {A : Staged → Prop} {T : W64 → Prop} {C : List Host.Cell → Prop} (box : Nat) (s : State)
    (h : Good K U A T C (view s)) : OutGood K U A T C (execMbxRecv box s) := by
  simp (maxDischargeDepth := 99) [execMbxRecv, h]

theorem execPing_good {K : List Instr} {U : Fuses} {A : Staged → Prop} {T : W64 → Prop} {C : List Host.Cell → Prop} (pair : Nat) (s : State)
    (h : Good K U A T C (view s)) : OutGood K U A T C (execPing pair s) := by
  simp (maxDischargeDepth := 99) [execPing, h]

theorem execStateCmd_good {K : List Instr} {U : Fuses} {A : Staged → Prop} {T : W64 → Prop} {C : List Host.Cell → Prop} (pair : Nat) (s : State)
    (h : Good K U A T C (view s)) : OutGood K U A T C (execStateCmd pair s) := by
  simp (maxDischargeDepth := 99) [execStateCmd, h]

theorem execCrumbRead_good {K : List Instr} {U : Fuses} {A : Staged → Prop} {T : W64 → Prop} {C : List Host.Cell → Prop} (pair : Nat) (s : State)
    (h : Good K U A T C (view s)) : OutGood K U A T C (execCrumbRead pair s) := by
  simp (maxDischargeDepth := 99) [execCrumbRead, h]

theorem execFwUpdate_good {K : List Instr} {U : Fuses} {A : Staged → Prop} {T : W64 → Prop} (pair : Nat) (s : State)
    (h : Good K U A T Canon (view s)) : OutGood K U A T Canon (execFwUpdate pair s) := by
  simp (maxDischargeDepth := 99) [execFwUpdate, h]

theorem execFwUpdateComplete_good {K : List Instr} {U : Fuses} {A : Staged → Prop} {T : W64 → Prop} {C : List Host.Cell → Prop} (flashOk : Bool) (s : State)
    (h : Good K U A T C (view s)) : OutGood K U A T C (execFwUpdateComplete flashOk s) := by
  simp (maxDischargeDepth := 99) [execFwUpdateComplete, h]

theorem execUpdateStatus_good {K : List Instr} {U : Fuses} {A : Staged → Prop} {T : W64 → Prop} {C : List Host.Cell → Prop} (pair : Nat) (s : State)
    (h : Good K U A T C (view s)) : OutGood K U A T C (execUpdateStatus pair s) := by
  simp (maxDischargeDepth := 99) [execUpdateStatus, h]

theorem execRecoveryLoad_good {K : List Instr} {U : Fuses} (flashOk : Bool) (s : State)
    (h : Good K U AnyRegs Eights Canon (view s)) : OutGood K U AnyRegs Eights Canon (execRecoveryLoad flashOk s) := by
  simp (maxDischargeDepth := 99) [execRecoveryLoad, h]

theorem execEvcEoi_good {K : List Instr} {U : Fuses} {A : Staged → Prop} {T : W64 → Prop} {C : List Host.Cell → Prop} (source : BitVec 11) (s : State)
    (h : Good K U A T C (view s)) : OutGood K U A T C (execEvcEoi source s) :=
  onBus_good _ _ _ (fun s h => by simp (maxDischargeDepth := 99) [h]) s h

theorem execEvcFastEoi_good {K : List Instr} {U : Fuses} {A : Staged → Prop} {T : W64 → Prop} {C : List Host.Cell → Prop} (source : BitVec 11) (s : State)
    (h : Good K U A T C (view s)) : OutGood K U A T C (execEvcFastEoi source s) :=
  onBus_good _ _ _ (fun s h => by simp (maxDischargeDepth := 99) [h]) s h

theorem execEvcGlobalEnable_good {K : List Instr} {U : Fuses} {A : Staged → Prop} {T : W64 → Prop} {C : List Host.Cell → Prop} (s : State)
    (h : Good K U A T C (view s)) : OutGood K U A T C (execEvcGlobalEnable s) :=
  onBus_good _ _ _ (fun s h => by simp (maxDischargeDepth := 99) [h]) s h

theorem execEvcArmLine_good {K : List Instr} {U : Fuses} {A : Staged → Prop} {T : W64 → Prop} {C : List Host.Cell → Prop} (line : Nat) (stores : List Host.Cell) (s : State)
    (h : Good K U A T C (view s)) : OutGood K U A T C (execEvcArmLine line stores s) := by
  simp (maxDischargeDepth := 99) [execEvcArmLine, h]

theorem execVectorModTimeout_good {K : List Instr} {U : Fuses} {A : Staged → Prop} {C : List Host.Cell → Prop} (vector : Nat) (s : State)
    (h : Good K U A Eights C (view s)) : OutGood K U A Eights C (execVectorModTimeout vector s) := by
  simp (maxDischargeDepth := 99) [execVectorModTimeout, h]

theorem execMsixUnmask_good {K : List Instr} {U : Fuses} {A : Staged → Prop} {T : W64 → Prop} {C : List Host.Cell → Prop} (vector : Nat) (s : State)
    (h : Good K U A T C (view s)) : OutGood K U A T C (execMsixUnmask vector s) := by
  simp only [execMsixUnmask, outGood_next]
  split
  · exact onBus_good _ _ _ (fun s h => by simp (maxDischargeDepth := 99) [h]) s h
  · exact h

theorem execSampleTick_good {K : List Instr} {U : Fuses} {C : List Host.Cell → Prop} (s : State)
    (h : Good K U AnyRegs Eights C (view s)) : OutGood K U AnyRegs Eights C (execSampleTick s) := by
  simp (maxDischargeDepth := 99) [execSampleTick, h]

theorem execTraceRunSet_view (s : State) : outView (execTraceRunSet s) = some (view s) := by
  simp only [execTraceRunSet, outView_next, Option.some.injEq]
  exact onBus_view _ _ _ (fun s => by simp) s

theorem execTraceRunClear_good {K : List Instr} {U : Fuses} {A : Staged → Prop} {T : W64 → Prop} (s : State)
    (h : Good K U A T Canon (view s)) : OutGood K U A T Canon (execTraceRunClear s) :=
  onBus_good _ _ _ (fun s h => by simp (maxDischargeDepth := 99) [h]) s h

theorem execTraceDrain_good {K : List Instr} {U : Fuses} {A : Staged → Prop} {T : W64 → Prop} (records : Nat) (s : State)
    (h : Good K U A T Canon (view s)) : OutGood K U A T Canon (execTraceDrain records s) := by
  simp (maxDischargeDepth := 99) [execTraceDrain, h]

theorem execCrumbMramWrite_view (s : State) : outView (execCrumbMramWrite s) = some (view s) := by simp [execCrumbMramWrite]

theorem execFlitReceive_good {K : List Instr} {U : Fuses} {A : Staged → Prop} {C : List Host.Cell → Prop} (port : Nat) (flit : Flit) (s : State)
    (h : Good K U A Eights C (view s)) : OutGood K U A Eights C (execFlitReceive port flit s) := by
  simp (maxDischargeDepth := 99) [execFlitReceive, h]

theorem execReplayTimeout_good {K : List Instr} {U : Fuses} {A : Staged → Prop} {C : List Host.Cell → Prop} (port : Nat) (s : State)
    (h : Good K U A Eights C (view s)) : OutGood K U A Eights C (execReplayTimeout port s) := by
  simp (maxDischargeDepth := 99) [execReplayTimeout, h]

theorem execMessageReceive_good {K : List Instr} {U : Fuses} {A : Staged → Prop} {T : W64 → Prop} (port : Nat) (msg : Message) (s : State)
    (h : Good K U A T Canon (view s)) : OutGood K U A T Canon (execMessageReceive port msg s) := by
  simp (maxDischargeDepth := 99) [execMessageReceive, h]

theorem execRemoteSignalReceive_good {K : List Instr} {U : Fuses} {A : Staged → Prop} {T : W64 → Prop} {C : List Host.Cell → Prop} (source : Nat) (cmd msgIndex : W32) (value word1 : W64) (s : State)
    (h : Good K U A T C (view s)) : OutGood K U A T C (execRemoteSignalReceive source cmd msgIndex value word1 s) := by
  simp (maxDischargeDepth := 99) [execRemoteSignalReceive, h]

theorem execRemoteSignalAnswer_good {K : List Instr} {U : Fuses} {A : Staged → Prop} {T : W64 → Prop} {C : List Host.Cell → Prop} (source : Nat) (cmd msgIndex : W32) (reject : Bool) (s : State)
    (h : Good K U A T C (view s)) : OutGood K U A T C (execRemoteSignalAnswer source cmd msgIndex reject s) := by
  simp (maxDischargeDepth := 99) [execRemoteSignalAnswer, h]

theorem execPortTrainingDone_good {K : List Instr} {U : Fuses} {A : Staged → Prop} {T : W64 → Prop} {C : List Host.Cell → Prop} (port : Nat) (identity : W64) (rttNs : W32) (lanes : BitVec 4) (s : State)
    (h : Good K U A T C (view s)) : OutGood K U A T C (execPortTrainingDone port identity rttNs lanes s) := by
  simp (maxDischargeDepth := 99) [execPortTrainingDone, h]

theorem execPortRetrain_good {K : List Instr} {U : Fuses} {A : Staged → Prop} {T : W64 → Prop} {C : List Host.Cell → Prop} (port : Nat) (cause : RetrainCause) (lanes : BitVec 4) (s : State)
    (h : Good K U A T C (view s)) : OutGood K U A T C (execPortRetrain port cause lanes s) := by
  simp (maxDischargeDepth := 99) [execPortRetrain, h]

theorem execTimeExchangeStart_good {K : List Instr} {U : Fuses} {A : Staged → Prop} {C : List Host.Cell → Prop} (s : State)
    (h : Good K U A Eights C (view s)) : OutGood K U A Eights C (execTimeExchangeStart s) := by
  simp (maxDischargeDepth := 99) [execTimeExchangeStart, h]

theorem execTimeRequestReceive_view (dim peer : Nat) (t1 : BitVec 56) (s : State) : outView (execTimeRequestReceive dim peer t1 s) = some (view s) := by simp [execTimeRequestReceive]

theorem execTimeResponseReceive_good {K : List Instr} {U : Fuses} {A : Staged → Prop} {C : List Host.Cell → Prop} (t2 t3 t4 : W64) (cycles : Nat) (s : State)
    (h : Good K U A Eights C (view s)) : OutGood K U A Eights C (execTimeResponseReceive t2 t3 t4 cycles s) := by
  simp (maxDischargeDepth := 99) [execTimeResponseReceive, h]

theorem execLockStateMessage_good {K : List Instr} {U : Fuses} {A : Staged → Prop} {T : W64 → Prop} {C : List Host.Cell → Prop} (locked : Bool) (s : State)
    (h : Good K U A T C (view s)) : OutGood K U A T C (execLockStateMessage locked s) := by
  simp (maxDischargeDepth := 99) [execLockStateMessage, h]

theorem execHostWindowAccess_good {K : List Instr} {U : Fuses} {A : Staged → Prop} {T : W64 → Prop} (write : Bool) (offset : Nat) (data : List Byte) (s : State)
    (h : Good K U A T Canon (view s)) : OutGood K U A T Canon (execHostWindowAccess write offset data s) := by
  simp (maxDischargeDepth := 99) [execHostWindowAccess, h]

theorem execAtsInvalidation_view (base bytes : Nat) (s : State) : outView (execAtsInvalidation base bytes s) = some (view s) := by simp [execAtsInvalidation]

theorem execWatchdogExpiry_good {K : List Instr} {U : Fuses} {A : Staged → Prop} {T : W64 → Prop} {C : List Host.Cell → Prop} (core : Nat) (s : State)
    (h : Good K U A T C (view s)) : OutGood K U A T C (execWatchdogExpiry core s) := by
  simp (maxDischargeDepth := 99) [execWatchdogExpiry, h]

theorem execClkMonitorWindow_good {K : List Instr} {U : Fuses} {A : Staged → Prop} {T : W64 → Prop} {C : List Host.Cell → Prop} (domain edges : Nat) (s : State)
    (h : Good K U A T C (view s)) : OutGood K U A T C (execClkMonitorWindow domain edges s) := by
  simp (maxDischargeDepth := 99) [execClkMonitorWindow, h]

theorem execClkSwitchTimeout_good {K : List Instr} {U : Fuses} {A : Staged → Prop} {T : W64 → Prop} {C : List Host.Cell → Prop} (domain : Nat) (s : State)
    (h : Good K U A T C (view s)) : OutGood K U A T C (execClkSwitchTimeout domain s) := by
  simp (maxDischargeDepth := 99) [execClkSwitchTimeout, h]

theorem execForcedPath_good {K : List Instr} {U : Fuses} {A : Staged → Prop} {T : W64 → Prop} {C : List Host.Cell → Prop} (domain : Nat) (s : State)
    (h : Good K U A T C (view s)) : OutGood K U A T C (execForcedPath domain s) := by
  simp (maxDischargeDepth := 99) [execForcedPath, h]

theorem execClkRelockFail_good {K : List Instr} {U : Fuses} {A : Staged → Prop} {T : W64 → Prop} {C : List Host.Cell → Prop} (domain : Nat) (s : State)
    (h : Good K U A T C (view s)) : OutGood K U A T C (execClkRelockFail domain s) := by
  simp (maxDischargeDepth := 99) [execClkRelockFail, h]

theorem execXtalLoss_good {K : List Instr} {U : Fuses} {A : Staged → Prop} {T : W64 → Prop} {C : List Host.Cell → Prop} (s : State)
    (h : Good K U A T C (view s)) : OutGood K U A T C (execXtalLoss s) := by
  simp (maxDischargeDepth := 99) [execXtalLoss, h]

theorem execPowerMeasure_good {K : List Instr} {U : Fuses} {A : Staged → Prop} {C : List Host.Cell → Prop} (volt10mV powerW : BitVec 16) (computeC otherC : Byte) (s : State)
    (h : Good K U A Eights C (view s)) : OutGood K U A Eights C (execPowerMeasure volt10mV powerW computeC otherC s) := by
  simp (maxDischargeDepth := 99) [execPowerMeasure, h]

theorem execThermThrottle_good {K : List Instr} {U : Fuses} {A : Staged → Prop} {T : W64 → Prop} {C : List Host.Cell → Prop} (s : State)
    (h : Good K U A T C (view s)) : OutGood K U A T C (execThermThrottle s) := by
  simp (maxDischargeDepth := 99) [execThermThrottle, h]

theorem execThermTrip_good {K : List Instr} {U : Fuses} {A : Staged → Prop} {T : W64 → Prop} {C : List Host.Cell → Prop} (s : State)
    (h : Good K U A T C (view s)) : OutGood K U A T C (execThermTrip s) := by
  simp (maxDischargeDepth := 99) [execThermTrip, h]

theorem execPwrFail_good {K : List Instr} {U : Fuses} {A : Staged → Prop} {T : W64 → Prop} {C : List Host.Cell → Prop} (pin low : Bool) (s : State)
    (h : Good K U A T C (view s)) : OutGood K U A T C (execPwrFail pin low s) := by
  simp (maxDischargeDepth := 99) [execPwrFail, h]

theorem execPwrFailEnd_view (s : State) : outView (execPwrFailEnd s) = some (view s) := by simp [execPwrFailEnd]

theorem execInputLoss_good {K : List Instr} {U : Fuses} (s : State)
    (h : Good K U AnyRegs Eights Canon (view s)) : OutGood K U AnyRegs Eights Canon (execInputLoss s) := by
  simp (maxDischargeDepth := 99) [execInputLoss, h]

theorem execPwrEnAssert_good {K : List Instr} {U : Fuses} (volt10mV : BitVec 16) (s : State)
    (h : Good K U AnyRegs Eights Canon (view s)) : OutGood K U AnyRegs Eights Canon (execPwrEnAssert volt10mV s) := by
  simp (maxDischargeDepth := 99) [execPwrEnAssert, h]

theorem execPwrEnRelease_good {K : List Instr} {U : Fuses} (s : State)
    (h : Good K U AnyRegs Eights Canon (view s)) : OutGood K U AnyRegs Eights Canon (execPwrEnRelease s) := by
  simp (maxDischargeDepth := 99) [execPwrEnRelease, h]

theorem execPerstAssert_good {K : List Instr} {U : Fuses} (s : State)
    (h : Good K U AnyRegs Eights Canon (view s)) : OutGood K U AnyRegs Eights Canon (execPerstAssert s) := by
  simp (maxDischargeDepth := 99) [execPerstAssert, h]

theorem execPerstRelease_view (s : State) : outView (execPerstRelease s) = some (view s) := by simp [execPerstRelease]

theorem execHotReset_good {K : List Instr} {U : Fuses} (s : State)
    (h : Good K U AnyRegs Eights Canon (view s)) : OutGood K U AnyRegs Eights Canon (execHotReset s) := by
  simp (maxDischargeDepth := 99) [execHotReset, h]

theorem execFunctionLevelReset_good {K : List Instr} {U : Fuses} {T : W64 → Prop} (s : State)
    (h : Good K U AnyRegs T Canon (view s)) : OutGood K U AnyRegs T Canon (execFunctionLevelReset s) := by
  simp (maxDischargeDepth := 99) [execFunctionLevelReset, h]

theorem execD3hotEntry_good {K : List Instr} {U : Fuses} {A : Staged → Prop} {T : W64 → Prop} {C : List Host.Cell → Prop} (s : State)
    (h : Good K U A T C (view s)) : OutGood K U A T C (execD3hotEntry s) := by
  simp (maxDischargeDepth := 99) [execD3hotEntry, h]

theorem execD0Return_good {K : List Instr} {U : Fuses} {A : Staged → Prop} {T : W64 → Prop} {C : List Host.Cell → Prop} (s : State)
    (h : Good K U A T C (view s)) : OutGood K U A T C (execD0Return s) := by
  simp (maxDischargeDepth := 99) [execD0Return, h]

theorem execXtalStable_good {K : List Instr} {U : Fuses} {A : Staged → Prop} {T : W64 → Prop} {C : List Host.Cell → Prop} (s : State)
    (h : Good K U A T C (view s)) : OutGood K U A T C (execXtalStable s) := by
  simp (maxDischargeDepth := 99) [execXtalStable, h]

theorem execXtalBootTimeout_good {K : List Instr} {U : Fuses} {A : Staged → Prop} {T : W64 → Prop} {C : List Host.Cell → Prop} (s : State)
    (h : Good K U A T C (view s)) : OutGood K U A T C (execXtalBootTimeout s) := by
  simp (maxDischargeDepth := 99) [execXtalBootTimeout, h]

theorem execMemTrainingDone_good {K : List Instr} {U : Fuses} {A : Staged → Prop} {T : W64 → Prop} {C : List Host.Cell → Prop} (failedStacks failedChannels : List Nat) (s : State)
    (h : Good K U A T C (view s)) : OutGood K U A T C (execMemTrainingDone failedStacks failedChannels s) := by
  simp (maxDischargeDepth := 99) [execMemTrainingDone, h]

theorem execCxlLinkTrained_good {K : List Instr} {U : Fuses} {A : Staged → Prop} {T : W64 → Prop} {C : List Host.Cell → Prop} (width rateGT : Nat) (flit256 : Bool) (s : State)
    (h : Good K U A T C (view s)) : OutGood K U A T C (execCxlLinkTrained width rateGT flit256 s) := by
  simp (maxDischargeDepth := 99) [execCxlLinkTrained, h]

theorem execFabricReady_view (s : State) : outView (execFabricReady s) = some (view s) := by simp [execFabricReady]

theorem execSpdmRequest_view (transport : SpdmTransport) (kind : SpdmKind) (s : State) : outView (execSpdmRequest transport kind s) = some (view s) := by simp [execSpdmRequest]

theorem execIdeKmKey_view (stream substream : Nat) (key : BitVec 256) (s : State) : outView (execIdeKmKey stream substream key s) = some (view s) := by simp [execIdeKmKey]

theorem execMctpControl_view (command : Byte) (eid : Byte) (s : State) : outView (execMctpControl command eid s) = some (view s) := by simp [execMctpControl]

theorem execPldmBase_view (command : Byte) (s : State) : outView (execPldmBase command s) = some (view s) := by simp [execPldmBase]

theorem execPldmSensorRead_view (sensor : Nat) (s : State) : outView (execPldmSensorRead sensor s) = some (view s) := by simp [execPldmSensorRead]

theorem execPldmFruRead_view (s : State) : outView (execPldmFruRead s) = some (view s) := by simp [execPldmFruRead]

theorem execPldmCrumbRange_view (s : State) : outView (execPldmCrumbRange s) = some (view s) := by simp [execPldmCrumbRange]

theorem execPldmCrumbEntries_view (seq : W32) (count : Nat) (s : State) : outView (execPldmCrumbEntries seq count s) = some (view s) := by simp [execPldmCrumbEntries]

theorem execSensorRefresh_view (inletC10 outletC10 : BitVec 16) (s : State) : outView (execSensorRefresh inletC10 outletC10 s) = some (view s) := by simp [execSensorRefresh]

theorem execCommandComplete_good {K : List Instr} {U : Fuses} {T : W64 → Prop} (ring : Nat) (s : State)
    (h : Good K U AnyRegs T Canon (view s)) : OutGood K U AnyRegs T Canon (execCommandComplete ring s) := by
  simp (maxDischargeDepth := 99) [execCommandComplete, h]

theorem execPortRetrainTimeout_good {K : List Instr} {U : Fuses} {A : Staged → Prop} {C : List Host.Cell → Prop} (port : Nat) (s : State)
    (h : Good K U A Eights C (view s)) : OutGood K U A Eights C (execPortRetrainTimeout port s) := by
  simp (maxDischargeDepth := 99) [execPortRetrainTimeout, h]

theorem execThermalThrottleEnd_view (s : State) : outView (execThermalThrottleEnd s) = some (view s) := by simp [execThermalThrottleEnd]

theorem execEventRingHeadUpdate_good {K : List Instr} {U : Fuses} {A : Staged → Prop} {T : W64 → Prop} {C : List Host.Cell → Prop} (stores : List Host.Cell) (s : State)
    (h : Good K U A T C (view s)) : OutGood K U A T C (execEventRingHeadUpdate stores s) := by
  simp (maxDischargeDepth := 99) [execEventRingHeadUpdate, h]

theorem execSampleRingHeadUpdate_good {K : List Instr} {U : Fuses} {A : Staged → Prop} {T : W64 → Prop} {C : List Host.Cell → Prop} (stores : List Host.Cell) (s : State)
    (h : Good K U A T C (view s)) : OutGood K U A T C (execSampleRingHeadUpdate stores s) := by
  simp (maxDischargeDepth := 99) [execSampleRingHeadUpdate, h]

end Sys2Proof.Machine
end

