-- ==== Sys2Proof/Laws/Maps.lean ====
section
/-!
SUPPORT. Laws of the sparse tables: what a lookup gives after an entry is stored.
-/
namespace Sys2Proof

theorem SMap.find_put {α : Type} (m : SMap α) (k j : Nat) (v : α) :
    SMap.find (SMap.put m k v) j = if k = j then some v else SMap.find m j := by
  fun_induction SMap.put m k v <;> grind [SMap.find]

theorem SMap.find_del_of_ne {α : Type} (m : SMap α) {k j : Nat} (h : k ≠ j) : SMap.find (SMap.del m k) j = SMap.find m j := by
  fun_induction SMap.del m k <;> grind [SMap.find]

theorem SMap.find_del_self {α : Type} (m : SMap α) (k : Nat) : SMap.find (SMap.del m k) k = none := by
  fun_induction SMap.del m k <;> grind [SMap.find]

/-- An entry stored does not change what another key reads as. -/
theorem SMap.get_set_of_ne {α : Type} [DecidableEq α] (m : SMap α) {k j : Nat} (v d e : α) (h : k ≠ j) :
    SMap.get (SMap.set m k v d) j e = SMap.get m j e := by
  rw [SMap.get, SMap.get, SMap.set]
  split
  · rw [SMap.find_del_of_ne m h]
  · rw [SMap.find_put, if_neg h]

/-- An entry stored reads back. -/
theorem SMap.get_set_self {α : Type} [DecidableEq α] (m : SMap α) (k : Nat) (v d : α) :
    SMap.get (SMap.set m k v d) k d = v := by
  rw [SMap.get, SMap.set]
  split
  · rename_i hv
    rw [SMap.find_del_self m, hv]
    rfl
  · rw [SMap.find_put, if_pos rfl]
    rfl

/-- An entry other than the default reads back from any table. -/
theorem SMap.get_set_self_of_ne {α : Type} [DecidableEq α] (m : SMap α) (k : Nat) {v d : α} (h : v ≠ d) (e : α) :
    SMap.get (SMap.set m k v d) k e = v := by
  rw [SMap.get, SMap.set, if_neg h, SMap.find_put, if_pos rfl]
  rfl

end Sys2Proof
end

