-- ==== Sys2Proof/Laws/Rings.lean ====
section
/-!
SUPPORT. What running a command of a ring does: a due command runs its body, one held back stays fetched, one with a wrong
field ends with its DESCRIPTOR_ERROR.
-/
namespace Sys2Proof
open Machine

/-- A ring that is not disabled reads back as it was set. -/
theorem ringOf_setRing_live {q : Nat} {r : Ring} (h : r.state ≠ .disabled) (s : State) : ringOf (setRing q r s) q = r :=
  SMap.get_set_self_of_ne _ _ (fun e => h (by rw [e]; rfl)) _

/-- Casting the vote of a status touches no ring. -/
theorem voteOfStatus_qsu (q op : Nat) (st : Byte) (s : State) : (voteOfStatus q op st s).qsu = s.qsu := by
  simp only [voteOfStatus, voteStepBit, onStep]
  repeat' split
  all_goals rfl

/-- Adding a command to a ring that is not disabled puts it at the end of that ring. -/
theorem addCmd_cmds {q : Nat} {c : Cmd} {s : State} (h : (ringOf s q).state ≠ .disabled) :
    (ringOf (addCmd q c s) q).cmds = (ringOf s q).cmds ++ [c] :=
  congrArg Machine.Ring.cmds (ringOf_setRing_live (s := s) (by exact h))

/-- A ring that is not disabled gains the fetched command at its end. -/
theorem fetchDesc_cmds {q : Nat} {d : Desc} {s : State} (h : (ringOf s q).state ≠ .disabled) :
    (ringOf (fetchDesc q d s) q).cmds = (ringOf s q).cmds ++ [fetchCmd s q d] := by
  have ha := addCmd_cmds (c := fetchCmd s q d) h
  simp only [fetchDesc]
  split
  · rw [← ha]
    exact congrArg (fun x : Qsu => (SMap.get x.rings q resetRing).cmds) (voteOfStatus_qsu _ _ _ _)
  · exact ha

/-- A command fetched now carries the descriptor it was fetched for. -/
theorem fetchNow_desc {q : Nat} {d : Desc} {s s0 : State} {c : Cmd} (h : fetchNow q d s = some (c, s0)) : c.desc = d := by
  unfold fetchNow at h
  dsimp only at h
  split at h
  · rename_i hb
    simp only [Bool.and_eq_true, beq_iff_eq] at hb
    obtain ⟨⟨⟨hst, -⟩, -⟩, -⟩ := hb
    simp only [Option.map_eq_some_iff] at h
    obtain ⟨x, hx, he⟩ := h
    obtain ⟨rfl, -⟩ := Prod.mk.inj he
    have hne : (ringOf s q).state ≠ .disabled := by rw [hst]; decide
    rw [fetchDesc_cmds (by rw [ringOf_setRing_live (by exact hne)]; exact hne), List.getLast?_concat] at hx
    cases hx
    rfl
  · cases h

/-- The command a ring offers carries the descriptor it was offered for. -/
theorem offer_desc {q : Nat} {d : Desc} {s s0 : State} {c : Cmd} (h : offer q d s = some (c, s0)) : c.desc = d := by
  unfold offer at h
  dsimp only at h
  repeat' split at h
  all_goals first | exact fetchNow_desc h | (next hd => cases h; exact hd) | cases h

/-- A due command runs its body; a body that answers `waiting` has not started. -/
theorem runCmd_of_due {op q : Nat} {m : Meaning} {d : Desc} {s s0 : State} {c : Cmd} (h : Due op m q d s c s0) :
    runCmd op m q d s =
      match (m.body q (ringOf s0 q) c s0).1 with
      | .waiting => (m.body q (ringOf s0 q) c s0).2
      | p => leaves q c p s0 (m.body q (ringOf s0 q) c s0).2 := by
  obtain ⟨⟨h1, h2, h3⟩, h4, h5, h6⟩ := h
  simp only [runCmd, h1, h2, h3, h4, startCmd, h5, h6, leaves, Option.or]
  rcases m.body q (ringOf s0 q) c s0 with ⟨p, t⟩
  cases p <;> simp

/-- A due command whose body comes to a phase other than `waiting`. -/
theorem runCmd_of_body {op q : Nat} {m : Meaning} {d : Desc} {s s0 t : State} {c : Cmd} {p : Phase} (h : Due op m q d s c s0)
    (hb : m.body q (ringOf s0 q) c s0 = (p, t)) (hp : p ≠ .waiting) : runCmd op m q d s = leaves q c p s0 t := by
  rw [runCmd_of_due h, hb]
  cases p <;> first | rfl | exact absurd rfl hp

/-- A due command whose body answers `waiting`. -/
theorem runCmd_of_wait {op q : Nat} {m : Meaning} {d : Desc} {s s0 t : State} {c : Cmd} (h : Due op m q d s c s0)
    (hb : m.body q (ringOf s0 q) c s0 = (.waiting, t)) : runCmd op m q d s = t := by
  rw [runCmd_of_due h, hb]

/-- A command that a rule holds back stays fetched. -/
theorem runCmd_of_held {op q : Nat} {m : Meaning} {d : Desc} {s s0 : State} {c : Cmd} (h : Offered op q d s c s0)
    (hs : startable s0 (ringOf s0 q) c = false) : runCmd op m q d s = s0 := by
  obtain ⟨h1, h2, h3⟩ := h
  simp [runCmd, h1, h2, h3, hs]

/-- A command with a wrong field ends with its error and has no other effect. -/
theorem runCmd_of_error {op q : Nat} {m : Meaning} {d : Desc} {s s0 : State} {c : Cmd} {e : Result} (h : Offered op q d s c s0)
    (hs : startable s0 (ringOf s0 q) c = true)
    (he : (headerCheck (ringOf s0 q).stageRing (ringOf s0 q).context.toNat (ringOf s0 q).stage.toNat c.desc).or
      (m.check s0 (ringOf s0 q) c) = some e) :
    runCmd op m q d s = finish q c e (traceStart q (ringOf s0 q) c s0) := by
  obtain ⟨h1, h2, h3⟩ := h
  simp [runCmd, startCmd, h1, h2, h3, hs, he]

/-- A command of a ring runs its row's meaning on the command the ring offers; the fabric settles after a row that moves messages. -/
theorem exec_of_ringMeaning {i : Instr} {op q : Nat} {d : Desc} {m : Meaning} (h : ringMeaning i = some (op, q, d, m)) (s : State) :
    exec i s = .next (settled i (runCmd op m q d s)) := by
  cases i <;> simp only [ringMeaning, reduceCtorEq, Option.some.injEq, Prod.mk.injEq] at h <;> obtain ⟨rfl, rfl, rfl, rfl⟩ := h <;> rfl

end Sys2Proof
end

