-- ==== Sys2Proof/Laws/State.lean ====
section
/-!
SUPPORT. What the named updates of a state change: one lemma for each field of each update, so that no proof unfolds a record.
-/
namespace Sys2Proof.Machine


@[simp] theorem hostWrite_pending (s : State) (a : Nat) (bs : List Byte) : (hostWrite s a bs).pending = s.pending := rfl
@[simp] theorem hostWrite_out (s : State) (a : Nat) (bs : List Byte) : (hostWrite s a bs).out = s.out := rfl
@[simp] theorem hostWrite_freeCtr (s : State) (a : Nat) (bs : List Byte) : (hostWrite s a bs).freeCtr = s.freeCtr := rfl
@[simp] theorem hostWrite_host (s : State) (a : Nat) (bs : List Byte) : (hostWrite s a bs).host = Memory.write s.host (addr64 a) bs := rfl
@[simp] theorem hostWrite_fuses (s : State) (a : Nat) (bs : List Byte) : (hostWrite s a bs).fuses = s.fuses := rfl
@[simp] theorem hostWrite_store (s : State) (a : Nat) (bs : List Byte) : (hostWrite s a bs).store = s.store := rfl
@[simp] theorem hostWrite_pins (s : State) (a : Nat) (bs : List Byte) : (hostWrite s a bs).pins = s.pins := rfl
@[simp] theorem hostWrite_pwr (s : State) (a : Nat) (bs : List Byte) : (hostWrite s a bs).pwr = s.pwr := rfl
@[simp] theorem hostWrite_clk (s : State) (a : Nat) (bs : List Byte) : (hostWrite s a bs).clk = s.clk := rfl
@[simp] theorem hostWrite_glb (s : State) (a : Nat) (bs : List Byte) : (hostWrite s a bs).glb = s.glb := rfl
@[simp] theorem hostWrite_cmt (s : State) (a : Nat) (bs : List Byte) : (hostWrite s a bs).cmt = s.cmt := rfl
@[simp] theorem hostWrite_act (s : State) (a : Nat) (bs : List Byte) : (hostWrite s a bs).act = s.act := rfl
@[simp] theorem hostWrite_pend (s : State) (a : Nat) (bs : List Byte) : (hostWrite s a bs).pend = s.pend := rfl
@[simp] theorem hostWrite_tkc (s : State) (a : Nat) (bs : List Byte) : (hostWrite s a bs).tkc = s.tkc := rfl
@[simp] theorem hostWrite_qsu (s : State) (a : Nat) (bs : List Byte) : (hostWrite s a bs).qsu = s.qsu := rfl
@[simp] theorem hostWrite_evc (s : State) (a : Nat) (bs : List Byte) : (hostWrite s a bs).evc = s.evc := rfl
@[simp] theorem hostWrite_mbx (s : State) (a : Nat) (bs : List Byte) : (hostWrite s a bs).mbx = s.mbx := rfl
@[simp] theorem hostWrite_sec (s : State) (a : Nat) (bs : List Byte) : (hostWrite s a bs).sec = s.sec := rfl
@[simp] theorem hostWrite_fab (s : State) (a : Nat) (bs : List Byte) : (hostWrite s a bs).fab = s.fab := rfl
@[simp] theorem hostWrite_mem (s : State) (a : Nat) (bs : List Byte) : (hostWrite s a bs).mem = s.mem := rfl
@[simp] theorem hostWrite_prc (s : State) (a : Nat) (bs : List Byte) : (hostWrite s a bs).prc = s.prc := rfl
@[simp] theorem hostWrite_upd (s : State) (a : Nat) (bs : List Byte) : (hostWrite s a bs).upd = s.upd := rfl
@[simp] theorem hostWrite_ple (s : State) (a : Nat) (bs : List Byte) : (hostWrite s a bs).ple = s.ple := rfl
@[simp] theorem hostWrite_tiles (s : State) (a : Nat) (bs : List Byte) : (hostWrite s a bs).tiles = s.tiles := rfl
@[simp] theorem hostWrite_obs (s : State) (a : Nat) (bs : List Byte) : (hostWrite s a bs).obs = s.obs := rfl

@[simp] theorem emit_pending (o : Output) (s : State) : (emit o s).pending = s.pending := rfl
@[simp] theorem emit_out (o : Output) (s : State) : (emit o s).out = s.out ++ [o] := rfl
@[simp] theorem emit_freeCtr (o : Output) (s : State) : (emit o s).freeCtr = s.freeCtr := rfl
@[simp] theorem emit_host (o : Output) (s : State) : (emit o s).host = s.host := rfl
@[simp] theorem emit_fuses (o : Output) (s : State) : (emit o s).fuses = s.fuses := rfl
@[simp] theorem emit_store (o : Output) (s : State) : (emit o s).store = s.store := rfl
@[simp] theorem emit_pins (o : Output) (s : State) : (emit o s).pins = s.pins := rfl
@[simp] theorem emit_pwr (o : Output) (s : State) : (emit o s).pwr = s.pwr := rfl
@[simp] theorem emit_clk (o : Output) (s : State) : (emit o s).clk = s.clk := rfl
@[simp] theorem emit_glb (o : Output) (s : State) : (emit o s).glb = s.glb := rfl
@[simp] theorem emit_cmt (o : Output) (s : State) : (emit o s).cmt = s.cmt := rfl
@[simp] theorem emit_act (o : Output) (s : State) : (emit o s).act = s.act := rfl
@[simp] theorem emit_pend (o : Output) (s : State) : (emit o s).pend = s.pend := rfl
@[simp] theorem emit_tkc (o : Output) (s : State) : (emit o s).tkc = s.tkc := rfl
@[simp] theorem emit_qsu (o : Output) (s : State) : (emit o s).qsu = s.qsu := rfl
@[simp] theorem emit_evc (o : Output) (s : State) : (emit o s).evc = s.evc := rfl
@[simp] theorem emit_mbx (o : Output) (s : State) : (emit o s).mbx = s.mbx := rfl
@[simp] theorem emit_sec (o : Output) (s : State) : (emit o s).sec = s.sec := rfl
@[simp] theorem emit_fab (o : Output) (s : State) : (emit o s).fab = s.fab := rfl
@[simp] theorem emit_mem (o : Output) (s : State) : (emit o s).mem = s.mem := rfl
@[simp] theorem emit_prc (o : Output) (s : State) : (emit o s).prc = s.prc := rfl
@[simp] theorem emit_upd (o : Output) (s : State) : (emit o s).upd = s.upd := rfl
@[simp] theorem emit_ple (o : Output) (s : State) : (emit o s).ple = s.ple := rfl
@[simp] theorem emit_tiles (o : Output) (s : State) : (emit o s).tiles = s.tiles := rfl
@[simp] theorem emit_obs (o : Output) (s : State) : (emit o s).obs = s.obs := rfl

@[simp] theorem count_pending (slot n : Nat) (s : State) : (count slot n s).pending = s.pending := rfl
@[simp] theorem count_out (slot n : Nat) (s : State) : (count slot n s).out = s.out := rfl
@[simp] theorem count_freeCtr (slot n : Nat) (s : State) : (count slot n s).freeCtr = s.freeCtr := rfl
@[simp] theorem count_host (slot n : Nat) (s : State) : (count slot n s).host = s.host := rfl
@[simp] theorem count_fuses (slot n : Nat) (s : State) : (count slot n s).fuses = s.fuses := rfl
@[simp] theorem count_store (slot n : Nat) (s : State) : (count slot n s).store = s.store := rfl
@[simp] theorem count_pins (slot n : Nat) (s : State) : (count slot n s).pins = s.pins := rfl
@[simp] theorem count_pwr (slot n : Nat) (s : State) : (count slot n s).pwr = s.pwr := rfl
@[simp] theorem count_clk (slot n : Nat) (s : State) : (count slot n s).clk = s.clk := rfl
@[simp] theorem count_glb (slot n : Nat) (s : State) : (count slot n s).glb = s.glb := rfl
@[simp] theorem count_cmt (slot n : Nat) (s : State) : (count slot n s).cmt = s.cmt := rfl
@[simp] theorem count_act (slot n : Nat) (s : State) : (count slot n s).act = s.act := rfl
@[simp] theorem count_pend (slot n : Nat) (s : State) : (count slot n s).pend = s.pend := rfl
@[simp] theorem count_tkc (slot n : Nat) (s : State) : (count slot n s).tkc = s.tkc := rfl
@[simp] theorem count_qsu (slot n : Nat) (s : State) : (count slot n s).qsu = s.qsu := rfl
@[simp] theorem count_evc (slot n : Nat) (s : State) : (count slot n s).evc = s.evc := rfl
@[simp] theorem count_mbx (slot n : Nat) (s : State) : (count slot n s).mbx = s.mbx := rfl
@[simp] theorem count_sec (slot n : Nat) (s : State) : (count slot n s).sec = s.sec := rfl
@[simp] theorem count_fab (slot n : Nat) (s : State) : (count slot n s).fab = s.fab := rfl
@[simp] theorem count_mem (slot n : Nat) (s : State) : (count slot n s).mem = s.mem := rfl
@[simp] theorem count_prc (slot n : Nat) (s : State) : (count slot n s).prc = s.prc := rfl
@[simp] theorem count_upd (slot n : Nat) (s : State) : (count slot n s).upd = s.upd := rfl
@[simp] theorem count_ple (slot n : Nat) (s : State) : (count slot n s).ple = s.ple := rfl
@[simp] theorem count_tiles (slot n : Nat) (s : State) : (count slot n s).tiles = s.tiles := rfl

@[simp] theorem badAddr_pending (s : State) : (badAddr s).pending = s.pending := rfl
@[simp] theorem badAddr_out (s : State) : (badAddr s).out = s.out := rfl
@[simp] theorem badAddr_freeCtr (s : State) : (badAddr s).freeCtr = s.freeCtr := rfl
@[simp] theorem badAddr_host (s : State) : (badAddr s).host = s.host := rfl
@[simp] theorem badAddr_fuses (s : State) : (badAddr s).fuses = s.fuses := rfl
@[simp] theorem badAddr_store (s : State) : (badAddr s).store = s.store := rfl
@[simp] theorem badAddr_pins (s : State) : (badAddr s).pins = s.pins := rfl
@[simp] theorem badAddr_pwr (s : State) : (badAddr s).pwr = s.pwr := rfl
@[simp] theorem badAddr_clk (s : State) : (badAddr s).clk = s.clk := rfl
@[simp] theorem badAddr_glb (s : State) : (badAddr s).glb = s.glb := rfl
@[simp] theorem badAddr_cmt (s : State) : (badAddr s).cmt = s.cmt := rfl
@[simp] theorem badAddr_act (s : State) : (badAddr s).act = s.act := rfl
@[simp] theorem badAddr_pend (s : State) : (badAddr s).pend = s.pend := rfl
@[simp] theorem badAddr_tkc (s : State) : (badAddr s).tkc = s.tkc := rfl
@[simp] theorem badAddr_qsu (s : State) : (badAddr s).qsu = s.qsu := rfl
@[simp] theorem badAddr_evc (s : State) : (badAddr s).evc = s.evc := rfl
@[simp] theorem badAddr_mbx (s : State) : (badAddr s).mbx = s.mbx := rfl
@[simp] theorem badAddr_sec (s : State) : (badAddr s).sec = s.sec := rfl
@[simp] theorem badAddr_fab (s : State) : (badAddr s).fab = s.fab := rfl
@[simp] theorem badAddr_mem (s : State) : (badAddr s).mem = { s.mem with badAddr := true } := rfl
@[simp] theorem badAddr_prc (s : State) : (badAddr s).prc = s.prc := rfl
@[simp] theorem badAddr_upd (s : State) : (badAddr s).upd = s.upd := rfl
@[simp] theorem badAddr_ple (s : State) : (badAddr s).ple = s.ple := rfl
@[simp] theorem badAddr_tiles (s : State) : (badAddr s).tiles = s.tiles := rfl
@[simp] theorem badAddr_obs (s : State) : (badAddr s).obs = s.obs := rfl

@[simp] theorem setRing_pending (q : Nat) (r : Ring) (s : State) : (setRing q r s).pending = s.pending := rfl
@[simp] theorem setRing_out (q : Nat) (r : Ring) (s : State) : (setRing q r s).out = s.out := rfl
@[simp] theorem setRing_freeCtr (q : Nat) (r : Ring) (s : State) : (setRing q r s).freeCtr = s.freeCtr := rfl
@[simp] theorem setRing_host (q : Nat) (r : Ring) (s : State) : (setRing q r s).host = s.host := rfl
@[simp] theorem setRing_fuses (q : Nat) (r : Ring) (s : State) : (setRing q r s).fuses = s.fuses := rfl
@[simp] theorem setRing_store (q : Nat) (r : Ring) (s : State) : (setRing q r s).store = s.store := rfl
@[simp] theorem setRing_pins (q : Nat) (r : Ring) (s : State) : (setRing q r s).pins = s.pins := rfl
@[simp] theorem setRing_pwr (q : Nat) (r : Ring) (s : State) : (setRing q r s).pwr = s.pwr := rfl
@[simp] theorem setRing_clk (q : Nat) (r : Ring) (s : State) : (setRing q r s).clk = s.clk := rfl
@[simp] theorem setRing_glb (q : Nat) (r : Ring) (s : State) : (setRing q r s).glb = s.glb := rfl
@[simp] theorem setRing_cmt (q : Nat) (r : Ring) (s : State) : (setRing q r s).cmt = s.cmt := rfl
@[simp] theorem setRing_act (q : Nat) (r : Ring) (s : State) : (setRing q r s).act = s.act := rfl
@[simp] theorem setRing_pend (q : Nat) (r : Ring) (s : State) : (setRing q r s).pend = s.pend := rfl
@[simp] theorem setRing_tkc (q : Nat) (r : Ring) (s : State) : (setRing q r s).tkc = s.tkc := rfl
@[simp] theorem setRing_qsu (q : Nat) (r : Ring) (s : State) : (setRing q r s).qsu = { s.qsu with rings := SMap.set s.qsu.rings q r resetRing } := rfl
@[simp] theorem setRing_evc (q : Nat) (r : Ring) (s : State) : (setRing q r s).evc = s.evc := rfl
@[simp] theorem setRing_mbx (q : Nat) (r : Ring) (s : State) : (setRing q r s).mbx = s.mbx := rfl
@[simp] theorem setRing_sec (q : Nat) (r : Ring) (s : State) : (setRing q r s).sec = s.sec := rfl
@[simp] theorem setRing_fab (q : Nat) (r : Ring) (s : State) : (setRing q r s).fab = s.fab := rfl
@[simp] theorem setRing_mem (q : Nat) (r : Ring) (s : State) : (setRing q r s).mem = s.mem := rfl
@[simp] theorem setRing_prc (q : Nat) (r : Ring) (s : State) : (setRing q r s).prc = s.prc := rfl
@[simp] theorem setRing_upd (q : Nat) (r : Ring) (s : State) : (setRing q r s).upd = s.upd := rfl
@[simp] theorem setRing_ple (q : Nat) (r : Ring) (s : State) : (setRing q r s).ple = s.ple := rfl
@[simp] theorem setRing_tiles (q : Nat) (r : Ring) (s : State) : (setRing q r s).tiles = s.tiles := rfl
@[simp] theorem setRing_obs (q : Nat) (r : Ring) (s : State) : (setRing q r s).obs = s.obs := rfl

@[simp] theorem setCtx_pending (c : Nat) (x : Ctx) (s : State) : (setCtx c x s).pending = s.pending := rfl
@[simp] theorem setCtx_out (c : Nat) (x : Ctx) (s : State) : (setCtx c x s).out = s.out := rfl
@[simp] theorem setCtx_freeCtr (c : Nat) (x : Ctx) (s : State) : (setCtx c x s).freeCtr = s.freeCtr := rfl
@[simp] theorem setCtx_host (c : Nat) (x : Ctx) (s : State) : (setCtx c x s).host = s.host := rfl
@[simp] theorem setCtx_fuses (c : Nat) (x : Ctx) (s : State) : (setCtx c x s).fuses = s.fuses := rfl
@[simp] theorem setCtx_store (c : Nat) (x : Ctx) (s : State) : (setCtx c x s).store = s.store := rfl
@[simp] theorem setCtx_pins (c : Nat) (x : Ctx) (s : State) : (setCtx c x s).pins = s.pins := rfl
@[simp] theorem setCtx_pwr (c : Nat) (x : Ctx) (s : State) : (setCtx c x s).pwr = s.pwr := rfl
@[simp] theorem setCtx_clk (c : Nat) (x : Ctx) (s : State) : (setCtx c x s).clk = s.clk := rfl
@[simp] theorem setCtx_glb (c : Nat) (x : Ctx) (s : State) : (setCtx c x s).glb = s.glb := rfl
@[simp] theorem setCtx_cmt (c : Nat) (x : Ctx) (s : State) : (setCtx c x s).cmt = s.cmt := rfl
@[simp] theorem setCtx_act (c : Nat) (x : Ctx) (s : State) : (setCtx c x s).act = s.act := rfl
@[simp] theorem setCtx_pend (c : Nat) (x : Ctx) (s : State) : (setCtx c x s).pend = s.pend := rfl
@[simp] theorem setCtx_tkc (c : Nat) (x : Ctx) (s : State) : (setCtx c x s).tkc = s.tkc := rfl
@[simp] theorem setCtx_qsu (c : Nat) (x : Ctx) (s : State) : (setCtx c x s).qsu = { s.qsu with ctxs := SMap.set s.qsu.ctxs c x resetCtx } := rfl
@[simp] theorem setCtx_evc (c : Nat) (x : Ctx) (s : State) : (setCtx c x s).evc = s.evc := rfl
@[simp] theorem setCtx_mbx (c : Nat) (x : Ctx) (s : State) : (setCtx c x s).mbx = s.mbx := rfl
@[simp] theorem setCtx_sec (c : Nat) (x : Ctx) (s : State) : (setCtx c x s).sec = s.sec := rfl
@[simp] theorem setCtx_fab (c : Nat) (x : Ctx) (s : State) : (setCtx c x s).fab = s.fab := rfl
@[simp] theorem setCtx_mem (c : Nat) (x : Ctx) (s : State) : (setCtx c x s).mem = s.mem := rfl
@[simp] theorem setCtx_prc (c : Nat) (x : Ctx) (s : State) : (setCtx c x s).prc = s.prc := rfl
@[simp] theorem setCtx_upd (c : Nat) (x : Ctx) (s : State) : (setCtx c x s).upd = s.upd := rfl
@[simp] theorem setCtx_ple (c : Nat) (x : Ctx) (s : State) : (setCtx c x s).ple = s.ple := rfl
@[simp] theorem setCtx_tiles (c : Nat) (x : Ctx) (s : State) : (setCtx c x s).tiles = s.tiles := rfl
@[simp] theorem setCtx_obs (c : Nat) (x : Ctx) (s : State) : (setCtx c x s).obs = s.obs := rfl

@[simp] theorem setSync_pending (i : Nat) (x : SyncObj) (s : State) : (setSync i x s).pending = s.pending := rfl
@[simp] theorem setSync_out (i : Nat) (x : SyncObj) (s : State) : (setSync i x s).out = s.out := rfl
@[simp] theorem setSync_freeCtr (i : Nat) (x : SyncObj) (s : State) : (setSync i x s).freeCtr = s.freeCtr := rfl
@[simp] theorem setSync_host (i : Nat) (x : SyncObj) (s : State) : (setSync i x s).host = s.host := rfl
@[simp] theorem setSync_fuses (i : Nat) (x : SyncObj) (s : State) : (setSync i x s).fuses = s.fuses := rfl
@[simp] theorem setSync_store (i : Nat) (x : SyncObj) (s : State) : (setSync i x s).store = s.store := rfl
@[simp] theorem setSync_pins (i : Nat) (x : SyncObj) (s : State) : (setSync i x s).pins = s.pins := rfl
@[simp] theorem setSync_pwr (i : Nat) (x : SyncObj) (s : State) : (setSync i x s).pwr = s.pwr := rfl
@[simp] theorem setSync_clk (i : Nat) (x : SyncObj) (s : State) : (setSync i x s).clk = s.clk := rfl
@[simp] theorem setSync_glb (i : Nat) (x : SyncObj) (s : State) : (setSync i x s).glb = s.glb := rfl
@[simp] theorem setSync_cmt (i : Nat) (x : SyncObj) (s : State) : (setSync i x s).cmt = s.cmt := rfl
@[simp] theorem setSync_act (i : Nat) (x : SyncObj) (s : State) : (setSync i x s).act = s.act := rfl
@[simp] theorem setSync_pend (i : Nat) (x : SyncObj) (s : State) : (setSync i x s).pend = s.pend := rfl
@[simp] theorem setSync_tkc (i : Nat) (x : SyncObj) (s : State) : (setSync i x s).tkc = s.tkc := rfl
@[simp] theorem setSync_qsu (i : Nat) (x : SyncObj) (s : State) : (setSync i x s).qsu = { s.qsu with sync := SMap.set s.qsu.sync i x resetSync } := rfl
@[simp] theorem setSync_evc (i : Nat) (x : SyncObj) (s : State) : (setSync i x s).evc = s.evc := rfl
@[simp] theorem setSync_mbx (i : Nat) (x : SyncObj) (s : State) : (setSync i x s).mbx = s.mbx := rfl
@[simp] theorem setSync_sec (i : Nat) (x : SyncObj) (s : State) : (setSync i x s).sec = s.sec := rfl
@[simp] theorem setSync_fab (i : Nat) (x : SyncObj) (s : State) : (setSync i x s).fab = s.fab := rfl
@[simp] theorem setSync_mem (i : Nat) (x : SyncObj) (s : State) : (setSync i x s).mem = s.mem := rfl
@[simp] theorem setSync_prc (i : Nat) (x : SyncObj) (s : State) : (setSync i x s).prc = s.prc := rfl
@[simp] theorem setSync_upd (i : Nat) (x : SyncObj) (s : State) : (setSync i x s).upd = s.upd := rfl
@[simp] theorem setSync_ple (i : Nat) (x : SyncObj) (s : State) : (setSync i x s).ple = s.ple := rfl
@[simp] theorem setSync_tiles (i : Nat) (x : SyncObj) (s : State) : (setSync i x s).tiles = s.tiles := rfl
@[simp] theorem setSync_obs (i : Nat) (x : SyncObj) (s : State) : (setSync i x s).obs = s.obs := rfl

@[simp] theorem tblResult_pending (r : BitVec 2) (s : State) : (tblResult r s).pending = s.pending := rfl
@[simp] theorem tblResult_out (r : BitVec 2) (s : State) : (tblResult r s).out = s.out := rfl
@[simp] theorem tblResult_freeCtr (r : BitVec 2) (s : State) : (tblResult r s).freeCtr = s.freeCtr := rfl
@[simp] theorem tblResult_host (r : BitVec 2) (s : State) : (tblResult r s).host = s.host := rfl
@[simp] theorem tblResult_fuses (r : BitVec 2) (s : State) : (tblResult r s).fuses = s.fuses := rfl
@[simp] theorem tblResult_store (r : BitVec 2) (s : State) : (tblResult r s).store = s.store := rfl
@[simp] theorem tblResult_pins (r : BitVec 2) (s : State) : (tblResult r s).pins = s.pins := rfl
@[simp] theorem tblResult_pwr (r : BitVec 2) (s : State) : (tblResult r s).pwr = s.pwr := rfl
@[simp] theorem tblResult_clk (r : BitVec 2) (s : State) : (tblResult r s).clk = s.clk := rfl
@[simp] theorem tblResult_glb (r : BitVec 2) (s : State) : (tblResult r s).glb = s.glb := rfl
@[simp] theorem tblResult_cmt (r : BitVec 2) (s : State) : (tblResult r s).cmt = s.cmt := rfl
@[simp] theorem tblResult_act (r : BitVec 2) (s : State) : (tblResult r s).act = s.act := rfl
@[simp] theorem tblResult_pend (r : BitVec 2) (s : State) : (tblResult r s).pend = s.pend := rfl
@[simp] theorem tblResult_tkc (r : BitVec 2) (s : State) : (tblResult r s).tkc = s.tkc := rfl
@[simp] theorem tblResult_qsu (r : BitVec 2) (s : State) : (tblResult r s).qsu = { s.qsu with tblResult := r } := rfl
@[simp] theorem tblResult_evc (r : BitVec 2) (s : State) : (tblResult r s).evc = s.evc := rfl
@[simp] theorem tblResult_mbx (r : BitVec 2) (s : State) : (tblResult r s).mbx = s.mbx := rfl
@[simp] theorem tblResult_sec (r : BitVec 2) (s : State) : (tblResult r s).sec = s.sec := rfl
@[simp] theorem tblResult_fab (r : BitVec 2) (s : State) : (tblResult r s).fab = s.fab := rfl
@[simp] theorem tblResult_mem (r : BitVec 2) (s : State) : (tblResult r s).mem = s.mem := rfl
@[simp] theorem tblResult_prc (r : BitVec 2) (s : State) : (tblResult r s).prc = s.prc := rfl
@[simp] theorem tblResult_upd (r : BitVec 2) (s : State) : (tblResult r s).upd = s.upd := rfl
@[simp] theorem tblResult_ple (r : BitVec 2) (s : State) : (tblResult r s).ple = s.ple := rfl
@[simp] theorem tblResult_tiles (r : BitVec 2) (s : State) : (tblResult r s).tiles = s.tiles := rfl
@[simp] theorem tblResult_obs (r : BitVec 2) (s : State) : (tblResult r s).obs = s.obs := rfl

@[simp] theorem fetchDisable_pending (s : State) : (fetchDisable s).pending = s.pending := rfl
@[simp] theorem fetchDisable_out (s : State) : (fetchDisable s).out = s.out := rfl
@[simp] theorem fetchDisable_freeCtr (s : State) : (fetchDisable s).freeCtr = s.freeCtr := rfl
@[simp] theorem fetchDisable_host (s : State) : (fetchDisable s).host = s.host := rfl
@[simp] theorem fetchDisable_fuses (s : State) : (fetchDisable s).fuses = s.fuses := rfl
@[simp] theorem fetchDisable_store (s : State) : (fetchDisable s).store = s.store := rfl
@[simp] theorem fetchDisable_pins (s : State) : (fetchDisable s).pins = s.pins := rfl
@[simp] theorem fetchDisable_pwr (s : State) : (fetchDisable s).pwr = s.pwr := rfl
@[simp] theorem fetchDisable_clk (s : State) : (fetchDisable s).clk = s.clk := rfl
@[simp] theorem fetchDisable_glb (s : State) : (fetchDisable s).glb = s.glb := rfl
@[simp] theorem fetchDisable_cmt (s : State) : (fetchDisable s).cmt = s.cmt := rfl
@[simp] theorem fetchDisable_act (s : State) : (fetchDisable s).act = s.act := rfl
@[simp] theorem fetchDisable_pend (s : State) : (fetchDisable s).pend = s.pend := rfl
@[simp] theorem fetchDisable_tkc (s : State) : (fetchDisable s).tkc = s.tkc := rfl
@[simp] theorem fetchDisable_qsu (s : State) : (fetchDisable s).qsu = { s.qsu with fetchEn := false, l1Held := false } := rfl
@[simp] theorem fetchDisable_evc (s : State) : (fetchDisable s).evc = s.evc := rfl
@[simp] theorem fetchDisable_mbx (s : State) : (fetchDisable s).mbx = s.mbx := rfl
@[simp] theorem fetchDisable_sec (s : State) : (fetchDisable s).sec = s.sec := rfl
@[simp] theorem fetchDisable_fab (s : State) : (fetchDisable s).fab = s.fab := rfl
@[simp] theorem fetchDisable_mem (s : State) : (fetchDisable s).mem = s.mem := rfl
@[simp] theorem fetchDisable_prc (s : State) : (fetchDisable s).prc = s.prc := rfl
@[simp] theorem fetchDisable_upd (s : State) : (fetchDisable s).upd = s.upd := rfl
@[simp] theorem fetchDisable_ple (s : State) : (fetchDisable s).ple = s.ple := rfl
@[simp] theorem fetchDisable_tiles (s : State) : (fetchDisable s).tiles = s.tiles := rfl
@[simp] theorem fetchDisable_obs (s : State) : (fetchDisable s).obs = s.obs := rfl

@[simp] theorem setPort_pending (p : Nat) (x : Port) (s : State) : (setPort p x s).pending = s.pending := rfl
@[simp] theorem setPort_out (p : Nat) (x : Port) (s : State) : (setPort p x s).out = s.out := rfl
@[simp] theorem setPort_freeCtr (p : Nat) (x : Port) (s : State) : (setPort p x s).freeCtr = s.freeCtr := rfl
@[simp] theorem setPort_host (p : Nat) (x : Port) (s : State) : (setPort p x s).host = s.host := rfl
@[simp] theorem setPort_fuses (p : Nat) (x : Port) (s : State) : (setPort p x s).fuses = s.fuses := rfl
@[simp] theorem setPort_store (p : Nat) (x : Port) (s : State) : (setPort p x s).store = s.store := rfl
@[simp] theorem setPort_pins (p : Nat) (x : Port) (s : State) : (setPort p x s).pins = s.pins := rfl
@[simp] theorem setPort_pwr (p : Nat) (x : Port) (s : State) : (setPort p x s).pwr = s.pwr := rfl
@[simp] theorem setPort_clk (p : Nat) (x : Port) (s : State) : (setPort p x s).clk = s.clk := rfl
@[simp] theorem setPort_glb (p : Nat) (x : Port) (s : State) : (setPort p x s).glb = s.glb := rfl
@[simp] theorem setPort_cmt (p : Nat) (x : Port) (s : State) : (setPort p x s).cmt = s.cmt := rfl
@[simp] theorem setPort_act (p : Nat) (x : Port) (s : State) : (setPort p x s).act = s.act := rfl
@[simp] theorem setPort_pend (p : Nat) (x : Port) (s : State) : (setPort p x s).pend = s.pend := rfl
@[simp] theorem setPort_tkc (p : Nat) (x : Port) (s : State) : (setPort p x s).tkc = s.tkc := rfl
@[simp] theorem setPort_qsu (p : Nat) (x : Port) (s : State) : (setPort p x s).qsu = s.qsu := rfl
@[simp] theorem setPort_evc (p : Nat) (x : Port) (s : State) : (setPort p x s).evc = s.evc := rfl
@[simp] theorem setPort_mbx (p : Nat) (x : Port) (s : State) : (setPort p x s).mbx = s.mbx := rfl
@[simp] theorem setPort_sec (p : Nat) (x : Port) (s : State) : (setPort p x s).sec = s.sec := rfl
@[simp] theorem setPort_mem (p : Nat) (x : Port) (s : State) : (setPort p x s).mem = s.mem := rfl
@[simp] theorem setPort_prc (p : Nat) (x : Port) (s : State) : (setPort p x s).prc = s.prc := rfl
@[simp] theorem setPort_upd (p : Nat) (x : Port) (s : State) : (setPort p x s).upd = s.upd := rfl
@[simp] theorem setPort_ple (p : Nat) (x : Port) (s : State) : (setPort p x s).ple = s.ple := rfl
@[simp] theorem setPort_tiles (p : Nat) (x : Port) (s : State) : (setPort p x s).tiles = s.tiles := rfl
@[simp] theorem setPort_obs (p : Nat) (x : Port) (s : State) : (setPort p x s).obs = s.obs := rfl

@[simp] theorem setVec_pending (v : Nat) (x : Vec) (s : State) : (setVec v x s).pending = s.pending := rfl
@[simp] theorem setVec_out (v : Nat) (x : Vec) (s : State) : (setVec v x s).out = s.out := rfl
@[simp] theorem setVec_freeCtr (v : Nat) (x : Vec) (s : State) : (setVec v x s).freeCtr = s.freeCtr := rfl
@[simp] theorem setVec_host (v : Nat) (x : Vec) (s : State) : (setVec v x s).host = s.host := rfl
@[simp] theorem setVec_fuses (v : Nat) (x : Vec) (s : State) : (setVec v x s).fuses = s.fuses := rfl
@[simp] theorem setVec_store (v : Nat) (x : Vec) (s : State) : (setVec v x s).store = s.store := rfl
@[simp] theorem setVec_pins (v : Nat) (x : Vec) (s : State) : (setVec v x s).pins = s.pins := rfl
@[simp] theorem setVec_pwr (v : Nat) (x : Vec) (s : State) : (setVec v x s).pwr = s.pwr := rfl
@[simp] theorem setVec_clk (v : Nat) (x : Vec) (s : State) : (setVec v x s).clk = s.clk := rfl
@[simp] theorem setVec_glb (v : Nat) (x : Vec) (s : State) : (setVec v x s).glb = s.glb := rfl
@[simp] theorem setVec_cmt (v : Nat) (x : Vec) (s : State) : (setVec v x s).cmt = s.cmt := rfl
@[simp] theorem setVec_act (v : Nat) (x : Vec) (s : State) : (setVec v x s).act = s.act := rfl
@[simp] theorem setVec_pend (v : Nat) (x : Vec) (s : State) : (setVec v x s).pend = s.pend := rfl
@[simp] theorem setVec_tkc (v : Nat) (x : Vec) (s : State) : (setVec v x s).tkc = s.tkc := rfl
@[simp] theorem setVec_qsu (v : Nat) (x : Vec) (s : State) : (setVec v x s).qsu = s.qsu := rfl
@[simp] theorem setVec_evc (v : Nat) (x : Vec) (s : State) : (setVec v x s).evc = { s.evc with vec := SMap.set s.evc.vec v x idleVec } := rfl
@[simp] theorem setVec_mbx (v : Nat) (x : Vec) (s : State) : (setVec v x s).mbx = s.mbx := rfl
@[simp] theorem setVec_sec (v : Nat) (x : Vec) (s : State) : (setVec v x s).sec = s.sec := rfl
@[simp] theorem setVec_fab (v : Nat) (x : Vec) (s : State) : (setVec v x s).fab = s.fab := rfl
@[simp] theorem setVec_mem (v : Nat) (x : Vec) (s : State) : (setVec v x s).mem = s.mem := rfl
@[simp] theorem setVec_prc (v : Nat) (x : Vec) (s : State) : (setVec v x s).prc = s.prc := rfl
@[simp] theorem setVec_upd (v : Nat) (x : Vec) (s : State) : (setVec v x s).upd = s.upd := rfl
@[simp] theorem setVec_ple (v : Nat) (x : Vec) (s : State) : (setVec v x s).ple = s.ple := rfl
@[simp] theorem setVec_tiles (v : Nat) (x : Vec) (s : State) : (setVec v x s).tiles = s.tiles := rfl
@[simp] theorem setVec_obs (v : Nat) (x : Vec) (s : State) : (setVec v x s).obs = s.obs := rfl

@[simp] theorem setDomain_pending (c : Nat) (d : Domain) (s : State) : (setDomain c d s).pending = s.pending := rfl
@[simp] theorem setDomain_out (c : Nat) (d : Domain) (s : State) : (setDomain c d s).out = s.out := rfl
@[simp] theorem setDomain_freeCtr (c : Nat) (d : Domain) (s : State) : (setDomain c d s).freeCtr = s.freeCtr := rfl
@[simp] theorem setDomain_host (c : Nat) (d : Domain) (s : State) : (setDomain c d s).host = s.host := rfl
@[simp] theorem setDomain_fuses (c : Nat) (d : Domain) (s : State) : (setDomain c d s).fuses = s.fuses := rfl
@[simp] theorem setDomain_store (c : Nat) (d : Domain) (s : State) : (setDomain c d s).store = s.store := rfl
@[simp] theorem setDomain_pins (c : Nat) (d : Domain) (s : State) : (setDomain c d s).pins = s.pins := rfl
@[simp] theorem setDomain_pwr (c : Nat) (d : Domain) (s : State) : (setDomain c d s).pwr = s.pwr := rfl
@[simp] theorem setDomain_clk (c : Nat) (d : Domain) (s : State) : (setDomain c d s).clk = { s.clk with domains := SMap.set s.clk.domains c d (resetDomain c) } := rfl
@[simp] theorem setDomain_glb (c : Nat) (d : Domain) (s : State) : (setDomain c d s).glb = s.glb := rfl
@[simp] theorem setDomain_cmt (c : Nat) (d : Domain) (s : State) : (setDomain c d s).cmt = s.cmt := rfl
@[simp] theorem setDomain_act (c : Nat) (d : Domain) (s : State) : (setDomain c d s).act = s.act := rfl
@[simp] theorem setDomain_pend (c : Nat) (d : Domain) (s : State) : (setDomain c d s).pend = s.pend := rfl
@[simp] theorem setDomain_tkc (c : Nat) (d : Domain) (s : State) : (setDomain c d s).tkc = s.tkc := rfl
@[simp] theorem setDomain_qsu (c : Nat) (d : Domain) (s : State) : (setDomain c d s).qsu = s.qsu := rfl
@[simp] theorem setDomain_evc (c : Nat) (d : Domain) (s : State) : (setDomain c d s).evc = s.evc := rfl
@[simp] theorem setDomain_mbx (c : Nat) (d : Domain) (s : State) : (setDomain c d s).mbx = s.mbx := rfl
@[simp] theorem setDomain_sec (c : Nat) (d : Domain) (s : State) : (setDomain c d s).sec = s.sec := rfl
@[simp] theorem setDomain_fab (c : Nat) (d : Domain) (s : State) : (setDomain c d s).fab = s.fab := rfl
@[simp] theorem setDomain_mem (c : Nat) (d : Domain) (s : State) : (setDomain c d s).mem = s.mem := rfl
@[simp] theorem setDomain_prc (c : Nat) (d : Domain) (s : State) : (setDomain c d s).prc = s.prc := rfl
@[simp] theorem setDomain_upd (c : Nat) (d : Domain) (s : State) : (setDomain c d s).upd = s.upd := rfl
@[simp] theorem setDomain_ple (c : Nat) (d : Domain) (s : State) : (setDomain c d s).ple = s.ple := rfl
@[simp] theorem setDomain_tiles (c : Nat) (d : Domain) (s : State) : (setDomain c d s).tiles = s.tiles := rfl
@[simp] theorem setDomain_obs (c : Nat) (d : Domain) (s : State) : (setDomain c d s).obs = s.obs := rfl

@[simp] theorem dropBox_pending (b : Nat) (s : State) : (dropBox b s).pending = s.pending := rfl
@[simp] theorem dropBox_out (b : Nat) (s : State) : (dropBox b s).out = s.out := rfl
@[simp] theorem dropBox_freeCtr (b : Nat) (s : State) : (dropBox b s).freeCtr = s.freeCtr := rfl
@[simp] theorem dropBox_host (b : Nat) (s : State) : (dropBox b s).host = s.host := rfl
@[simp] theorem dropBox_fuses (b : Nat) (s : State) : (dropBox b s).fuses = s.fuses := rfl
@[simp] theorem dropBox_store (b : Nat) (s : State) : (dropBox b s).store = s.store := rfl
@[simp] theorem dropBox_pins (b : Nat) (s : State) : (dropBox b s).pins = s.pins := rfl
@[simp] theorem dropBox_pwr (b : Nat) (s : State) : (dropBox b s).pwr = s.pwr := rfl
@[simp] theorem dropBox_clk (b : Nat) (s : State) : (dropBox b s).clk = s.clk := rfl
@[simp] theorem dropBox_glb (b : Nat) (s : State) : (dropBox b s).glb = s.glb := rfl
@[simp] theorem dropBox_cmt (b : Nat) (s : State) : (dropBox b s).cmt = s.cmt := rfl
@[simp] theorem dropBox_act (b : Nat) (s : State) : (dropBox b s).act = s.act := rfl
@[simp] theorem dropBox_pend (b : Nat) (s : State) : (dropBox b s).pend = s.pend := rfl
@[simp] theorem dropBox_tkc (b : Nat) (s : State) : (dropBox b s).tkc = s.tkc := rfl
@[simp] theorem dropBox_qsu (b : Nat) (s : State) : (dropBox b s).qsu = s.qsu := rfl
@[simp] theorem dropBox_evc (b : Nat) (s : State) : (dropBox b s).evc = s.evc := rfl
@[simp] theorem dropBox_sec (b : Nat) (s : State) : (dropBox b s).sec = s.sec := rfl
@[simp] theorem dropBox_fab (b : Nat) (s : State) : (dropBox b s).fab = s.fab := rfl
@[simp] theorem dropBox_mem (b : Nat) (s : State) : (dropBox b s).mem = s.mem := rfl
@[simp] theorem dropBox_prc (b : Nat) (s : State) : (dropBox b s).prc = s.prc := rfl
@[simp] theorem dropBox_upd (b : Nat) (s : State) : (dropBox b s).upd = s.upd := rfl
@[simp] theorem dropBox_ple (b : Nat) (s : State) : (dropBox b s).ple = s.ple := rfl
@[simp] theorem dropBox_tiles (b : Nat) (s : State) : (dropBox b s).tiles = s.tiles := rfl
@[simp] theorem dropBox_obs (b : Nat) (s : State) : (dropBox b s).obs = s.obs := rfl

@[simp] theorem nextEpoch_pending (s : State) : (nextEpoch s).pending = s.pending := rfl
@[simp] theorem nextEpoch_out (s : State) : (nextEpoch s).out = s.out := rfl
@[simp] theorem nextEpoch_freeCtr (s : State) : (nextEpoch s).freeCtr = s.freeCtr := rfl
@[simp] theorem nextEpoch_host (s : State) : (nextEpoch s).host = s.host := rfl
@[simp] theorem nextEpoch_fuses (s : State) : (nextEpoch s).fuses = s.fuses := rfl
@[simp] theorem nextEpoch_store (s : State) : (nextEpoch s).store = { s.store with epoch := s.store.epoch + 1 } := rfl
@[simp] theorem nextEpoch_pins (s : State) : (nextEpoch s).pins = s.pins := rfl
@[simp] theorem nextEpoch_pwr (s : State) : (nextEpoch s).pwr = s.pwr := rfl
@[simp] theorem nextEpoch_clk (s : State) : (nextEpoch s).clk = s.clk := rfl
@[simp] theorem nextEpoch_glb (s : State) : (nextEpoch s).glb = s.glb := rfl
@[simp] theorem nextEpoch_cmt (s : State) : (nextEpoch s).cmt = s.cmt := rfl
@[simp] theorem nextEpoch_act (s : State) : (nextEpoch s).act = s.act := rfl
@[simp] theorem nextEpoch_pend (s : State) : (nextEpoch s).pend = s.pend := rfl
@[simp] theorem nextEpoch_tkc (s : State) : (nextEpoch s).tkc = s.tkc := rfl
@[simp] theorem nextEpoch_qsu (s : State) : (nextEpoch s).qsu = s.qsu := rfl
@[simp] theorem nextEpoch_evc (s : State) : (nextEpoch s).evc = s.evc := rfl
@[simp] theorem nextEpoch_mbx (s : State) : (nextEpoch s).mbx = s.mbx := rfl
@[simp] theorem nextEpoch_sec (s : State) : (nextEpoch s).sec = s.sec := rfl
@[simp] theorem nextEpoch_fab (s : State) : (nextEpoch s).fab = s.fab := rfl
@[simp] theorem nextEpoch_mem (s : State) : (nextEpoch s).mem = s.mem := rfl
@[simp] theorem nextEpoch_prc (s : State) : (nextEpoch s).prc = s.prc := rfl
@[simp] theorem nextEpoch_upd (s : State) : (nextEpoch s).upd = s.upd := rfl
@[simp] theorem nextEpoch_ple (s : State) : (nextEpoch s).ple = s.ple := rfl
@[simp] theorem nextEpoch_tiles (s : State) : (nextEpoch s).tiles = s.tiles := rfl
@[simp] theorem nextEpoch_obs (s : State) : (nextEpoch s).obs = s.obs := rfl

@[simp] theorem setHalf_pending (key : Nat) (h : Half) (s : State) : (setHalf key h s).pending = s.pending := rfl
@[simp] theorem setHalf_out (key : Nat) (h : Half) (s : State) : (setHalf key h s).out = s.out := rfl
@[simp] theorem setHalf_freeCtr (key : Nat) (h : Half) (s : State) : (setHalf key h s).freeCtr = s.freeCtr := rfl
@[simp] theorem setHalf_host (key : Nat) (h : Half) (s : State) : (setHalf key h s).host = s.host := rfl
@[simp] theorem setHalf_fuses (key : Nat) (h : Half) (s : State) : (setHalf key h s).fuses = s.fuses := rfl
@[simp] theorem setHalf_store (key : Nat) (h : Half) (s : State) : (setHalf key h s).store = s.store := rfl
@[simp] theorem setHalf_pins (key : Nat) (h : Half) (s : State) : (setHalf key h s).pins = s.pins := rfl
@[simp] theorem setHalf_pwr (key : Nat) (h : Half) (s : State) : (setHalf key h s).pwr = s.pwr := rfl
@[simp] theorem setHalf_clk (key : Nat) (h : Half) (s : State) : (setHalf key h s).clk = s.clk := rfl
@[simp] theorem setHalf_glb (key : Nat) (h : Half) (s : State) : (setHalf key h s).glb = s.glb := rfl
@[simp] theorem setHalf_cmt (key : Nat) (h : Half) (s : State) : (setHalf key h s).cmt = s.cmt := rfl
@[simp] theorem setHalf_act (key : Nat) (h : Half) (s : State) : (setHalf key h s).act = s.act := rfl
@[simp] theorem setHalf_pend (key : Nat) (h : Half) (s : State) : (setHalf key h s).pend = s.pend := rfl
@[simp] theorem setHalf_tkc (key : Nat) (h : Half) (s : State) : (setHalf key h s).tkc = s.tkc := rfl
@[simp] theorem setHalf_qsu (key : Nat) (h : Half) (s : State) : (setHalf key h s).qsu = s.qsu := rfl
@[simp] theorem setHalf_evc (key : Nat) (h : Half) (s : State) : (setHalf key h s).evc = s.evc := rfl
@[simp] theorem setHalf_mbx (key : Nat) (h : Half) (s : State) : (setHalf key h s).mbx = s.mbx := rfl
@[simp] theorem setHalf_sec (key : Nat) (h : Half) (s : State) : (setHalf key h s).sec = s.sec := rfl
@[simp] theorem setHalf_fab (key : Nat) (h : Half) (s : State) : (setHalf key h s).fab = s.fab := rfl
@[simp] theorem setHalf_mem (key : Nat) (h : Half) (s : State) : (setHalf key h s).mem = s.mem := rfl
@[simp] theorem setHalf_prc (key : Nat) (h : Half) (s : State) : (setHalf key h s).prc = s.prc := rfl
@[simp] theorem setHalf_upd (key : Nat) (h : Half) (s : State) : (setHalf key h s).upd = s.upd := rfl
@[simp] theorem setHalf_ple (key : Nat) (h : Half) (s : State) : (setHalf key h s).ple = s.ple := rfl
@[simp] theorem setHalf_tiles (key : Nat) (h : Half) (s : State) : (setHalf key h s).tiles = { s.tiles with halves := SMap.set s.tiles.halves key h noHalf } := rfl
@[simp] theorem setHalf_obs (key : Nat) (h : Half) (s : State) : (setHalf key h s).obs = s.obs := rfl

@[simp] theorem refuseGroup_pending (g : Nat) (s : State) : (refuseGroup g s).pending = s.pending := rfl
@[simp] theorem refuseGroup_out (g : Nat) (s : State) : (refuseGroup g s).out = s.out := rfl
@[simp] theorem refuseGroup_freeCtr (g : Nat) (s : State) : (refuseGroup g s).freeCtr = s.freeCtr := rfl
@[simp] theorem refuseGroup_host (g : Nat) (s : State) : (refuseGroup g s).host = s.host := rfl
@[simp] theorem refuseGroup_fuses (g : Nat) (s : State) : (refuseGroup g s).fuses = s.fuses := rfl
@[simp] theorem refuseGroup_store (g : Nat) (s : State) : (refuseGroup g s).store = s.store := rfl
@[simp] theorem refuseGroup_pins (g : Nat) (s : State) : (refuseGroup g s).pins = s.pins := rfl
@[simp] theorem refuseGroup_pwr (g : Nat) (s : State) : (refuseGroup g s).pwr = s.pwr := rfl
@[simp] theorem refuseGroup_clk (g : Nat) (s : State) : (refuseGroup g s).clk = s.clk := rfl
@[simp] theorem refuseGroup_glb (g : Nat) (s : State) : (refuseGroup g s).glb = s.glb := rfl
@[simp] theorem refuseGroup_act (g : Nat) (s : State) : (refuseGroup g s).act = s.act := rfl
@[simp] theorem refuseGroup_pend (g : Nat) (s : State) : (refuseGroup g s).pend = s.pend := rfl
@[simp] theorem refuseGroup_tkc (g : Nat) (s : State) : (refuseGroup g s).tkc = s.tkc := rfl
@[simp] theorem refuseGroup_qsu (g : Nat) (s : State) : (refuseGroup g s).qsu = s.qsu := rfl
@[simp] theorem refuseGroup_evc (g : Nat) (s : State) : (refuseGroup g s).evc = s.evc := rfl
@[simp] theorem refuseGroup_mbx (g : Nat) (s : State) : (refuseGroup g s).mbx = s.mbx := rfl
@[simp] theorem refuseGroup_sec (g : Nat) (s : State) : (refuseGroup g s).sec = s.sec := rfl
@[simp] theorem refuseGroup_fab (g : Nat) (s : State) : (refuseGroup g s).fab = s.fab := rfl
@[simp] theorem refuseGroup_mem (g : Nat) (s : State) : (refuseGroup g s).mem = s.mem := rfl
@[simp] theorem refuseGroup_prc (g : Nat) (s : State) : (refuseGroup g s).prc = s.prc := rfl
@[simp] theorem refuseGroup_upd (g : Nat) (s : State) : (refuseGroup g s).upd = s.upd := rfl
@[simp] theorem refuseGroup_ple (g : Nat) (s : State) : (refuseGroup g s).ple = s.ple := rfl
@[simp] theorem refuseGroup_tiles (g : Nat) (s : State) : (refuseGroup g s).tiles = s.tiles := rfl
@[simp] theorem refuseGroup_obs (g : Nat) (s : State) : (refuseGroup g s).obs = s.obs := rfl

@[simp] theorem runClear_pending (s : State) : (runClear s).pending = s.pending := rfl
@[simp] theorem runClear_out (s : State) : (runClear s).out = s.out := rfl
@[simp] theorem runClear_freeCtr (s : State) : (runClear s).freeCtr = s.freeCtr := rfl
@[simp] theorem runClear_host (s : State) : (runClear s).host = s.host := rfl
@[simp] theorem runClear_fuses (s : State) : (runClear s).fuses = s.fuses := rfl
@[simp] theorem runClear_store (s : State) : (runClear s).store = s.store := rfl
@[simp] theorem runClear_pins (s : State) : (runClear s).pins = s.pins := rfl
@[simp] theorem runClear_pwr (s : State) : (runClear s).pwr = s.pwr := rfl
@[simp] theorem runClear_clk (s : State) : (runClear s).clk = s.clk := rfl
@[simp] theorem runClear_glb (s : State) : (runClear s).glb = s.glb := rfl
@[simp] theorem runClear_cmt (s : State) : (runClear s).cmt = s.cmt := rfl
@[simp] theorem runClear_act (s : State) : (runClear s).act = s.act := rfl
@[simp] theorem runClear_pend (s : State) : (runClear s).pend = s.pend := rfl
@[simp] theorem runClear_tkc (s : State) : (runClear s).tkc = { s.tkc with run := false, armed := false } := rfl
@[simp] theorem runClear_qsu (s : State) : (runClear s).qsu = s.qsu := rfl
@[simp] theorem runClear_evc (s : State) : (runClear s).evc = s.evc := rfl
@[simp] theorem runClear_mbx (s : State) : (runClear s).mbx = s.mbx := rfl
@[simp] theorem runClear_sec (s : State) : (runClear s).sec = s.sec := rfl
@[simp] theorem runClear_fab (s : State) : (runClear s).fab = s.fab := rfl
@[simp] theorem runClear_mem (s : State) : (runClear s).mem = s.mem := rfl
@[simp] theorem runClear_prc (s : State) : (runClear s).prc = s.prc := rfl
@[simp] theorem runClear_upd (s : State) : (runClear s).upd = s.upd := rfl
@[simp] theorem runClear_ple (s : State) : (runClear s).ple = s.ple := rfl
@[simp] theorem runClear_tiles (s : State) : (runClear s).tiles = s.tiles := rfl
@[simp] theorem runClear_obs (s : State) : (runClear s).obs = s.obs := rfl

@[simp] theorem advanceBeat_pending (s : State) : (advanceBeat s).pending = s.pending := rfl
@[simp] theorem advanceBeat_out (s : State) : (advanceBeat s).out = s.out := rfl
@[simp] theorem advanceBeat_freeCtr (s : State) : (advanceBeat s).freeCtr = s.freeCtr := rfl
@[simp] theorem advanceBeat_host (s : State) : (advanceBeat s).host = s.host := rfl
@[simp] theorem advanceBeat_fuses (s : State) : (advanceBeat s).fuses = s.fuses := rfl
@[simp] theorem advanceBeat_store (s : State) : (advanceBeat s).store = s.store := rfl
@[simp] theorem advanceBeat_pins (s : State) : (advanceBeat s).pins = s.pins := rfl
@[simp] theorem advanceBeat_pwr (s : State) : (advanceBeat s).pwr = s.pwr := rfl
@[simp] theorem advanceBeat_clk (s : State) : (advanceBeat s).clk = s.clk := rfl
@[simp] theorem advanceBeat_glb (s : State) : (advanceBeat s).glb = s.glb := rfl
@[simp] theorem advanceBeat_cmt (s : State) : (advanceBeat s).cmt = s.cmt := rfl
@[simp] theorem advanceBeat_act (s : State) : (advanceBeat s).act = s.act := rfl
@[simp] theorem advanceBeat_pend (s : State) : (advanceBeat s).pend = s.pend := rfl
@[simp] theorem advanceBeat_tkc (s : State) : (advanceBeat s).tkc = { s.tkc with beat := s.tkc.beat + 1 } := rfl
@[simp] theorem advanceBeat_qsu (s : State) : (advanceBeat s).qsu = s.qsu := rfl
@[simp] theorem advanceBeat_evc (s : State) : (advanceBeat s).evc = s.evc := rfl
@[simp] theorem advanceBeat_mbx (s : State) : (advanceBeat s).mbx = s.mbx := rfl
@[simp] theorem advanceBeat_sec (s : State) : (advanceBeat s).sec = s.sec := rfl
@[simp] theorem advanceBeat_fab (s : State) : (advanceBeat s).fab = s.fab := rfl
@[simp] theorem advanceBeat_mem (s : State) : (advanceBeat s).mem = s.mem := rfl
@[simp] theorem advanceBeat_prc (s : State) : (advanceBeat s).prc = s.prc := rfl
@[simp] theorem advanceBeat_upd (s : State) : (advanceBeat s).upd = s.upd := rfl
@[simp] theorem advanceBeat_ple (s : State) : (advanceBeat s).ple = s.ple := rfl
@[simp] theorem advanceBeat_tiles (s : State) : (advanceBeat s).tiles = s.tiles := rfl
@[simp] theorem advanceBeat_obs (s : State) : (advanceBeat s).obs = s.obs := rfl

@[simp] theorem putTransfer_pending (t : Transfer) (s : State) : (putTransfer t s).pending = s.pending := rfl
@[simp] theorem putTransfer_out (t : Transfer) (s : State) : (putTransfer t s).out = s.out := rfl
@[simp] theorem putTransfer_freeCtr (t : Transfer) (s : State) : (putTransfer t s).freeCtr = s.freeCtr := rfl
@[simp] theorem putTransfer_host (t : Transfer) (s : State) : (putTransfer t s).host = s.host := rfl
@[simp] theorem putTransfer_fuses (t : Transfer) (s : State) : (putTransfer t s).fuses = s.fuses := rfl
@[simp] theorem putTransfer_store (t : Transfer) (s : State) : (putTransfer t s).store = s.store := rfl
@[simp] theorem putTransfer_pins (t : Transfer) (s : State) : (putTransfer t s).pins = s.pins := rfl
@[simp] theorem putTransfer_pwr (t : Transfer) (s : State) : (putTransfer t s).pwr = s.pwr := rfl
@[simp] theorem putTransfer_clk (t : Transfer) (s : State) : (putTransfer t s).clk = s.clk := rfl
@[simp] theorem putTransfer_glb (t : Transfer) (s : State) : (putTransfer t s).glb = s.glb := rfl
@[simp] theorem putTransfer_cmt (t : Transfer) (s : State) : (putTransfer t s).cmt = s.cmt := rfl
@[simp] theorem putTransfer_act (t : Transfer) (s : State) : (putTransfer t s).act = s.act := rfl
@[simp] theorem putTransfer_pend (t : Transfer) (s : State) : (putTransfer t s).pend = s.pend := rfl
@[simp] theorem putTransfer_tkc (t : Transfer) (s : State) : (putTransfer t s).tkc = s.tkc := rfl
@[simp] theorem putTransfer_qsu (t : Transfer) (s : State) : (putTransfer t s).qsu = s.qsu := rfl
@[simp] theorem putTransfer_evc (t : Transfer) (s : State) : (putTransfer t s).evc = s.evc := rfl
@[simp] theorem putTransfer_mbx (t : Transfer) (s : State) : (putTransfer t s).mbx = s.mbx := rfl
@[simp] theorem putTransfer_sec (t : Transfer) (s : State) : (putTransfer t s).sec = s.sec := rfl
@[simp] theorem putTransfer_mem (t : Transfer) (s : State) : (putTransfer t s).mem = s.mem := rfl
@[simp] theorem putTransfer_prc (t : Transfer) (s : State) : (putTransfer t s).prc = s.prc := rfl
@[simp] theorem putTransfer_upd (t : Transfer) (s : State) : (putTransfer t s).upd = s.upd := rfl
@[simp] theorem putTransfer_ple (t : Transfer) (s : State) : (putTransfer t s).ple = s.ple := rfl
@[simp] theorem putTransfer_tiles (t : Transfer) (s : State) : (putTransfer t s).tiles = s.tiles := rfl
@[simp] theorem putTransfer_obs (t : Transfer) (s : State) : (putTransfer t s).obs = s.obs := rfl

/-- A ring stored reads back, and no other ring changes. -/
theorem ringOf_setRing_self (s : State) (q : Nat) (r : Ring) : ringOf (setRing q r s) q = r :=
  SMap.get_set_self s.qsu.rings q r resetRing

theorem ringOf_setRing_of_ne (s : State) {q p : Nat} (h : q ≠ p) (r : Ring) : ringOf (setRing q r s) p = ringOf s p :=
  SMap.get_set_of_ne s.qsu.rings r resetRing resetRing h

/-- A context entry stored reads back, and no other changes. -/
theorem ctxOf_setCtx_self (s : State) (c : Nat) (x : Ctx) : ctxOf (setCtx c x s) c = x :=
  SMap.get_set_self s.qsu.ctxs c x resetCtx

theorem ctxOf_setCtx_of_ne (s : State) {c e : Nat} (h : c ≠ e) (x : Ctx) : ctxOf (setCtx c x s) e = ctxOf s e :=
  SMap.get_set_of_ne s.qsu.ctxs x resetCtx resetCtx h

/-- A sync object stored reads back, and no other changes. -/
theorem syncOf_setSync_self (s : State) (i : Nat) (x : SyncObj) : syncOf (setSync i x s) i = x :=
  SMap.get_set_self s.qsu.sync i x resetSync

theorem syncOf_setSync_of_ne (s : State) {i j : Nat} (h : i ≠ j) (x : SyncObj) : syncOf (setSync i x s) j = syncOf s j :=
  SMap.get_set_of_ne s.qsu.sync x resetSync resetSync h

end Sys2Proof.Machine
end

