-- ==== Sys2Proof/WellFormed.lean ====
section
/-!
DEFINITION. Well-formed commands: each operand lies in the range that the manual gives the thing it names.
-/
namespace Sys2Proof

/-- Ring IDs are 20 bits (11 R313). -/
def ringWf (ring : Nat) : Bool := decide (ring < 2 ^ 20)

/-- A command of a ring carries a descriptor with the opcode of its row (11 Tables 11.4 and 11.6). -/
def descWf (op ring : Nat) (d : Desc) : Bool := ringWf ring && d.w0.toNat % 256 == op

/-- A TRACE_CTL command carries the OP of its row in word 2 [63:56] (15 Table 15.8). -/
def traceWf (op ring : Nat) (d : Desc) : Bool := descWf 0x72 ring d && d.w2.toNat / 2 ^ 56 == op

/-- Host stores are bytes at 64-bit addresses (12 R350). -/
def storesWf (stores : List Host.Cell) : Bool := stores.all fun c => decide (c.1 < 2 ^ 64)

/-- A lattice dimension and a coordinate in it (09 R257). -/
def peerWf (dim peer : Nat) : Bool := decide (dim < 3) && decide (peer < 33)

/-- A domain code of 14 Table 14.1. -/
def domainWf (c : Nat) : Bool := decide (c ≤ 10) || (decide (16 ≤ c) && decide (c < 32))

/-- A message's fields fit their places (09 Table 9.5). -/
def msgWf (m : Message) : Bool :=
  decide (m.kind < 256) && decide (m.hop < 4) && decide (m.group < 64) && decide (m.src < 1024) && decide (m.dst < 1024) &&
    decide (m.tensor < 2 ^ 24) && decide (m.vc < 8)

/-- The command's operands lie in their ranges. -/
def Instr.wf (i : Instr) : Bool :=
  match i with
  | .nop q d => descWf 0x00 q d
  | .signal q d => descWf 0x01 q d
  | .wait q d => descWf 0x02 q d
  | .waitTimeout q => ringWf q
  | .fence q d => descWf 0x03 q d
  | .tickMark q d => descWf 0x04 q d
  | .vote q d => descWf 0x05 q d
  | .loadGraph q d => descWf 0x10 q d
  | .place q d => descWf 0x11 q d
  | .replace q d => descWf 0x12 q d
  | .pin q d => descWf 0x13 q d
  | .unloadGraph q d => descWf 0x14 q d
  | .matmul q d => descWf 0x20 q d
  | .matvec q d => descWf 0x21 q d
  | .embGather q d => descWf 0x22 q d
  | .embPool q d => descWf 0x23 q d
  | .embScatter q d => descWf 0x24 q d
  | .elemwise q d => descWf 0x25 q d
  | .norm q d => descWf 0x26 q d
  | .softmax q d => descWf 0x27 q d
  | .attend q d => descWf 0x28 q d
  | .convert q d => descWf 0x29 q d
  | .loadWeights q d => descWf 0x2A q d
  | .copy q d => descWf 0x40 q d
  | .gatherParams q d => descWf 0x41 q d
  | .reduceScatter q d => descWf 0x42 q d
  | .allToAll q d => descWf 0x43 q d
  | .send q d => descWf 0x44 q d
  | .recv q d => descWf 0x45 q d
  | .updateLayer q d => descWf 0x50 q d
  | .rowUpdate q d => descWf 0x51 q d
  | .stepBegin q d => descWf 0x52 q d
  | .stepCommit q d => descWf 0x53 q d
  | .scheduleSet q d => descWf 0x54 q d
  | .setRecipe q d => descWf 0x60 q d
  | .readStats q d => descWf 0x61 q d
  | .shadowCfg q d => descWf 0x62 q d
  | .digest q d => descWf 0x70 q d
  | .dump q d => descWf 0x71 q d
  | .replay q d => descWf 0x74 q d
  | .recordStep q d => descWf 0x75 q d
  | .traceStart q d => traceWf 1 q d
  | .traceStop q d => traceWf 2 q d
  | .traceTrigger q d => traceWf 3 q d
  | .traceMark q d => traceWf 4 q d
  | .traceSetMask q d => traceWf 5 q d
  | .sampleNow q d => descWf 0x73 q d
  | .abortContext q d => descWf 0xF0 q d
  | .query q d => descWf 0xF1 q d
  | .migrate table _ => decide (table < 2 ^ 24)
  | .tickEdge => true
  | .doneReport => true
  | .doneForward round => decide (round < 3)
  | .doneSymbolReceive dim peer _ => peerWf dim peer
  | .voteFrameReceive dim peer _ => peerWf dim peer
  | .arrayPassStart tile _ _ _ _ => decide (tile < 320)
  | .shadowCheck tile => decide (tile < 320)
  | .productTableBuild layer => decide (layer < 2 ^ 16)
  | .rootComputeStart layer _ factor => decide (layer < 2 ^ 16) && decide (factor < 2)
  | .rootComputeDone layer _ factor => decide (layer < 2 ^ 16) && decide (factor < 2)
  | .stagingLogWriteback table _ => decide (table < 2 ^ 24)
  | .nearScrubPass column _ _ => decide (column < 1024)
  | .farScrubPass channel _ _ => decide (channel < 64)
  | .bucketDecay => true
  | .doorbellL1Invalidate line stores => decide (line < 4) && storesWf stores
  | .cqHeadUpdate context stores => decide (context < 40960) && storesWf stores
  | .qsuTblWrite => true
  | .qsuTblRead => true
  | .qsuTblEnable => true
  | .qsuTblDisable => true
  | .ringDisabled ring => ringWf ring
  | .fetchEnSet => true
  | .cmtCommit _ => true
  | .cmtDiscard _ => true
  | .cmtGroupApply group => decide (group < 13)
  | .tkcRunSet => true
  | .tkcRunClear => true
  | .glbDeviceReset _ => true
  | .registerWrite offset size _ => decide (offset < 2 ^ 26) && decide (size ≤ 8)
  | .clkTbSet _ => true
  | .mbxSend box _ => decide (box < 16)
  | .mbxRecv box => decide (16 ≤ box) && decide (box < 32)
  | .ping pair => decide (pair < 16)
  | .stateCmd pair => decide (pair < 16)
  | .crumbRead pair => decide (pair < 16)
  | .fwUpdate pair => decide (pair < 16)
  | .fwUpdateComplete _ => true
  | .updateStatus pair => decide (pair < 16)
  | .recoveryLoad _ => true
  | .evcEoi _ => true
  | .evcFastEoi _ => true
  | .evcGlobalEnable => true
  | .evcArmLine line stores => decide (line < 4) && storesWf stores
  | .vectorModTimeout vector => decide (vector < 2048)
  | .msixUnmask vector => decide (vector < 2048)
  | .sampleTick => true
  | .traceRunSet => true
  | .traceRunClear => true
  | .traceDrain records => decide (records ≤ 512)
  | .crumbMramWrite => true
  | .flitReceive port f => decide (port < 32) && f.words.length == 256
  | .replayTimeout port => decide (port < 32)
  | .messageReceive port m => decide (port < 32) && msgWf m
  | .remoteSignalReceive source _ _ _ _ => decide (source < 1024)
  | .remoteSignalAnswer source _ _ _ => decide (source < 1024)
  | .portTrainingDone port _ _ _ => decide (port < 32)
  | .portRetrain port _ _ => decide (port < 32)
  | .timeExchangeStart => true
  | .timeRequestReceive dim peer _ => peerWf dim peer
  | .timeResponseReceive _ _ _ _ => true
  | .lockStateMessage _ => true
  | .hostWindowAccess _ offset data => decide (offset + data.length ≤ 2 ^ 42)
  | .atsInvalidation base bytes => decide (base + bytes ≤ 2 ^ 64)
  | .watchdogExpiry core => decide (core < 8)
  | .clkMonitorWindow domain _ => domainWf domain
  | .clkSwitchTimeout domain => domainWf domain
  | .forcedPath domain => domainWf domain
  | .clkRelockFail domain => domainWf domain
  | .xtalLoss => true
  | .powerMeasure _ _ _ _ => true
  | .thermThrottle => true
  | .thermTrip => true
  | .pwrFail byPin low => byPin || low
  | .pwrFailEnd => true
  | .inputLoss => true
  | .pwrEnAssert _ => true
  | .pwrEnRelease => true
  | .perstAssert => true
  | .perstRelease => true
  | .hotReset => true
  | .functionLevelReset => true
  | .d3hotEntry => true
  | .d0Return => true
  | .xtalStable => true
  | .xtalBootTimeout => true
  | .fwImageLoaded => true
  | .memTrainingDone stks channels => (stks.all fun k => decide (k < 16)) && channels.all fun k => decide (k < 64)
  | .cxlLinkTrained width rateGT _ => [1, 2, 4, 8, 16].contains width && decide (rateGT ≤ 64)
  | .fabricReady => true
  | .spdmRequest _ _ => true
  | .ideKmKey stream _ _ => decide (stream < 256)
  | .mctpControl _ _ => true
  | .pldmBase _ => true
  | .pldmSensorRead _ => true
  | .pldmFruRead => true
  | .pldmCrumbRange => true
  | .pldmCrumbEntries _ _ => true
  | .sensorRefresh _ _ => true
  | .commandComplete ring => ringWf ring
  | .portRetrainTimeout port => decide (port < 32)
  | .thermalThrottleEnd => true
  | .eventRingHeadUpdate stores => storesWf stores
  | .sampleRingHeadUpdate stores => storesWf stores

end Sys2Proof
end

