-- ==== Sys2Proof/Tests/Slice0.lean ====
section
/-!
SUPPORT. Tests on small states: the well-formedness checks refuse, single effects are as the spec says, and every obligation's hypotheses
are met by a concrete state and operands.
-/
namespace Sys2Proof.Tests
open Sys2Proof Sys2Proof.Machine
set_option Elab.async false

/-- A descriptor of context 0. -/
def dsc (op : Nat) (w2 : W64 := 0) (w3 : W64 := 0) (w4 : W64 := 0) (w5 : W64 := 0) (w6 : W64 := 0) (w7 : W64 := 0) : Desc :=
  { w0 := BitVec.ofNat 64 op, w1 := 0, w2 := w2, w3 := w3, w4 := w4, w5 := w5, w6 := w6, w7 := w7 }

/-- The same for stage 3. -/
def sdsc (op : Nat) (w2 : W64 := 0) (w3 : W64 := 0) (w4 : W64 := 0) (w5 : W64 := 0) (w6 : W64 := 0) (w7 : W64 := 0) : Desc :=
  { dsc op w2 w3 w4 w5 w6 w7 with w0 := BitVec.ofNat 64 (op + 3 * 2 ^ 32) }

def hostRing : Ring := { resetRing with state := .enabled, log2 := 4 }
def stageRing : Ring := { hostRing with stageRing := true, stage := 3 }
def aContext : Ctx := { resetCtx with valid := true, cqLog2 := 4, vector := 5, syncCount := 8192 }

/-- A READY device with ring 0 of context 0, ring 1 of stage 3, and a running tick in beat 5. -/
def ready : State :=
  { State.reset with
    glb := { State.reset.glb with state := .ready, linkUp := true, cacheMem := true }
    clk := { State.reset.clk with count := 1600000000 }
    tkc := { State.reset.tkc with run := true, running := true, beat := 5, tick := 5 }
    qsu := { State.reset.qsu with fetchEn := true, rings := [(0, hostRing), (1, { stageRing with baseBeat := 5 })], ctxs := [(0, aContext)] } }

/-- The command is offered and passes its checks, and `p` holds of it and of the state in which it starts. -/
def dueWith (op : Nat) (m : Meaning) (q : Nat) (d : Desc) (s : State) (p : Cmd → State → Bool) : Bool :=
  serving s && Desc.opcode d == op &&
    match offer q d s with
    | some (c, s0) =>
      startable s0 (ringOf s0 q) c &&
        (headerCheck (ringOf s0 q).stageRing (ringOf s0 q).context.toNat (ringOf s0 q).stage.toNat c.desc).isNone &&
        (m.check s0 (ringOf s0 q) c).isNone && p c s0
    | none => false

theorem dueWith_due {op q : Nat} {m : Meaning} {d : Desc} {s : State} {p : Cmd → State → Bool} (h : dueWith op m q d s p = true) :
    ∃ c s0, Due op m q d s c s0 ∧ p c s0 = true := by
  unfold dueWith at h
  cases ho : offer q d s with
  | none => simp [ho] at h
  | some x =>
    simp only [ho, Bool.and_eq_true, beq_iff_eq, Option.isNone_iff_eq_none] at h
    obtain ⟨⟨h1, h2⟩, ⟨⟨h3, h4⟩, h5⟩, h6⟩ := h
    exact ⟨x.1, x.2, ⟨⟨h1, h2, ho⟩, h3, h4, h5⟩, h6⟩

def always (_ : Cmd) (_ : State) : Bool := true

/-- A ring that already holds commands: one finished, one that waits. -/
def busy : State :=
  { ready with qsu := { ready.qsu with rings := [(0, { hostRing with
      head := 1, tail := 1
      cmds := [{ index := 0, desc := dsc 0, order := 0, beat := 0, late := true, phase := .finished okResult, held := false }] })] } }

/-- The command is offered, and `p` holds of it and of the state after its fetch. -/
def offeredWith (op q : Nat) (d : Desc) (s : State) (p : Cmd → State → Bool) : Bool :=
  serving s && Desc.opcode d == op && match offer q d s with | some (c, s0) => p c s0 | none => false

/-- A device beside one peer, whose port Z00 is UP. -/
def pair (s : State) : State :=
  { s with
    act := { s.act with topo := { s.act.topo with d0 := 2 }, tick := { s.act.tick with dims := 1 } }
    fab := { s.fab with linkEn := true, ports := [(0, { resetPort with state := .up, lanes := 0xF })] } }

theorem hyp_DueCommandRuns : ringMeaning (.nop 0 (dsc 0)) = some (opNop, 0, dsc 0, nopMeaning) ∧
    dueWith opNop nopMeaning 0 (dsc 0) ready always = true := ⟨rfl, by decide +kernel⟩

theorem hyp_HeldBackCommandStays : ringMeaning (.fence 0 (dsc 3)) = some (opFence, 0, dsc 3, fenceMeaning) ∧
    offeredWith opFence 0 (dsc 3) busy (fun c s0 => !startable s0 (ringOf s0 0) c) = true := ⟨rfl, by decide +kernel⟩

theorem hyp_WrongCommandEnds : ringMeaning (.nop 0 (dsc 0 1)) = some (opNop, 0, dsc 0 1, nopMeaning) ∧
    offeredWith opNop 0 (dsc 0 1) ready (fun c s0 => startable s0 (ringOf s0 0) c &&
      headerCheck (ringOf s0 0).stageRing (ringOf s0 0).context.toNat (ringOf s0 0).stage.toNat c.desc == some (descErr 0x04 2)) = true :=
  ⟨rfl, by decide +kernel⟩

theorem hyp_DroppedWrites : ready.pwr.powered = true ∧ ready.pwr.tripped = false ∧ alignedAccess 0x60001 4 = false ∧
    alignedAccess 0x60000 2 = false ∧ State.reset.pwr.powered = true ∧ State.reset.pwr.tripped = false ∧ State.reset.glb.state ≠ .ready ∧
    alignedAccess 0x60000 4 = true ∧ earlyBlock 0x60000 = false ∧ inBlock 0x60000 = true := by decide +kernel

/-- A command that waits, with a limit of 10 µs. -/
def waiting : State :=
  { ready with qsu := { ready.qsu with rings := [(0, { hostRing with
      head := 1, tail := 1
      cmds := [{ index := 0, desc := dsc 2 (10#64 <<< 32), order := 0, beat := 0, late := false, phase := .started 1600000000, held := false }] })] } }

theorem hyp_OrderingCommandsComplete :
    dueWith opNop nopMeaning 0 (dsc 0) ready always = true ∧
    dueWith opFence fenceMeaning 0 (dsc 3) ready (fun c s0 => !(bit (dsc 3).w2 0 && ctxBusyBefore s0 0 c.order)) = true ∧
    dueWith opFence fenceMeaning 1 (sdsc 3 1) { ready with qsu := { ready.qsu with rings := [(0, (ringOf busy 0)), (1, stageRing)] }, obs := { ready.obs with ctrs := [(qsuCtr 2, 1)] }, tkc := { ready.tkc with beat := 0 } }
      (fun c s0 => bit (sdsc 3 1).w2 0 && ctxBusyBefore s0 (ringOf s0 1).context.toNat c.order) = true ∧
    dueWith opTickMark tickMarkMeaning 1 (sdsc 4 9) ready always = true ∧
    dueWith opWait waitMeaning 0 (dsc 2 0 0) ready (fun _ s0 => decide (0 ≤ (syncOf s0 0).value.toNat)) = true ∧
    dueWith opWait waitMeaning 0 (dsc 2 0 1) ready (fun _ s0 => decide ((syncOf s0 0).value.toNat < 1)) = true ∧
    serving waiting = true ∧ (firstTimeout (ringOf waiting 0).cmds).isSome = true := by decide +kernel

theorem hyp_SignalWaitsForEarlier :
    offeredWith opSignal 0 (dsc 1) busy (fun c s0 => earlier (ringOf s0 0) c != []) = true := by decide +kernel

theorem hyp_SignalCompletes :
    dueWith opSignal signalMeaning 0 (dsc 1 (BitVec.ofNat 64 (2 ^ 52 + 8191)) 5) ready (fun _ _ => !sigRemote (dsc 1 (BitVec.ofNat 64 (2 ^ 52 + 8191)))) = true ∧
    dueWith opSignal signalMeaning 0 (dsc 1 0 (BitVec.allOnes 64)) { ready with qsu := { ready.qsu with sync := [(0, { value := 1, remoteOk := false })] } }
      (fun _ s0 => !sigSet (dsc 1) && decide (2 ^ 64 ≤ (syncOf s0 0).value.toNat + (BitVec.allOnes 64).toNat)) = true := by decide +kernel


/-- Eleven sources with states of every kind, vector 5 with a request whose time limit is 10 µs. -/
def events : State :=
  { ready with
    evc := { ready.evc with
      src := [(1, { host := .active, core := .idle, asserted := false, latched := none }),
        (2, { host := .pending, core := .idle, asserted := false, latched := none }),
        (0x20, { host := .active, core := .idle, asserted := false, latched := none }),
        (0x21, { host := .activePending, core := .idle, asserted := false, latched := none })]
      vec := [(0, { requests := 0, first := none, fast := some 1, pba := false }),
        (5, { requests := 1, first := some 1599000000, fast := none, pba := false })]
      msix := [(0, { addr := 0x1000, data := 7, masked := false }), (5, { addr := 0x2000, data := 8, masked := false })] } }

/-- The same with the entry of vector 5 masked. -/
def maskedFive : State := { events with evc := { events.evc with msix := [(5, { addr := 0x2000, data := 8, masked := true })] } }

theorem hyp_RemoteSignalsComplete :
    dueWith opSignal signalMeaning 0 (dsc 1 (BitVec.ofNat 64 (2 ^ 54 + 2 ^ 53 + 3)) 5) (pair ready) (fun _ s0 =>
      sigRemote (dsc 1 (BitVec.ofNat 64 (2 ^ 54 + 2 ^ 53 + 3))) && decide (sigDevice (dsc 1 (BitVec.ofNat 64 (2 ^ 54 + 2 ^ 53 + 3))) ≠ myDevice s0) &&
        routePort s0 1 == some 0) = true ∧
    dueWith opSignal signalMeaning 0 (dsc 1 (BitVec.ofNat 64 (2 ^ 53 + 3)) 5) ready (fun _ s0 =>
      sigRemote (dsc 1 (BitVec.ofNat 64 (2 ^ 53 + 3))) && sigDevice (dsc 1 (BitVec.ofNat 64 (2 ^ 53 + 3))) == myDevice s0 &&
        !(syncOf s0 (sigIndex (dsc 1 (BitVec.ofNat 64 (2 ^ 53 + 3))))).remoteOk) = true ∧
    (let s : State := { ready with qsu := { ready.qsu with sync := [(0, { value := 0, remoteOk := true })] } }
     dueWith opSignal signalMeaning 0 (dsc 1 (BitVec.ofNat 64 (2 ^ 53)) 5) s (fun _ s0 =>
       sigDevice (dsc 1 (BitVec.ofNat 64 (2 ^ 53))) == myDevice s0 && (syncOf s0 (sigIndex (dsc 1 (BitVec.ofNat 64 (2 ^ 53))))).remoteOk) = true) ∧
    (let s : State := { ready with fab := { ready.fab with marks := [(dupKey 1 0 noGroup 9, 1)] } }
     (0#32).toNat < SMap.get (oweArrived (arrivalPort s 1) 0 2 s).fab.marks (dupKey 1 0 noGroup 9) 0) ∧
    arrivalPort ready 1 = none ∧ SMap.get ready.fab.marks (dupKey 1 0 noGroup 9) 0 ≤ (0#32).toNat ∧
    alive { ready with qsu := { ready.qsu with sync := [(0, { value := 0, remoteOk := true })] } } = true ∧
    (syncOf { ready with qsu := { ready.qsu with sync := [(0, { value := 0, remoteOk := true })] } } 0).remoteOk = true ∧
    alive ready = true ∧ (syncOf ready 0).remoteOk = false ∧ bit (0#64) 50 = false ∧
    { waiting with qsu := { waiting.qsu with remote := [(1, 9, 0, 0)] } }.qsu.remote.find? (fun x => x.1 == 1 && x.2.1 == 9#32) = some (1, 9, 0, 0) ∧
    ((ringOf waiting 0).cmds.find? (fun c => c.index == 0 && abortable c)).isSome = true := by decide +kernel

theorem hyp_QueryAndAbortComplete :
    dueWith opQuery queryMeaning 0 (dsc 0xF1 0x1000 64) ready (fun _ s0 => hostOk s0 0) = true ∧
    dueWith opAbort abortMeaning 0 (dsc 0xF0 0) ready always = true := by decide +kernel

theorem hyp_FinishedCommandKeepsResult : (ringOf busy 0).state ≠ .disabled := by decide +kernel

def traceDsc (op : Nat) : Desc := dsc 0x72 (BitVec.ofNat 64 (op * 2 ^ 56))

theorem hyp_TraceControlsComplete :
    dueWith opTraceCtl (traceMeaning fun _ s => s) 0 (traceDsc 1) ready (fun _ _ => traceOp (traceDsc 1) == 1) = true ∧
    dueWith opTraceCtl (traceMeaning fun _ s => s) 0 (traceDsc 2) ready (fun _ _ => traceOp (traceDsc 2) == 2) = true ∧
    dueWith opTraceCtl (traceMeaning fun _ s => s) 0 (traceDsc 3) ready (fun _ _ => traceOp (traceDsc 3) == 3) = true ∧
    dueWith opTraceCtl (traceMeaning fun _ s => s) 0 (traceDsc 4) ready (fun _ _ => traceOp (traceDsc 4) == 4) = true ∧
    dueWith opTraceCtl (traceMeaning fun _ s => s) 0 (traceDsc 5) ready (fun _ _ => traceOp (traceDsc 5) == 5) = true := by
  decide +kernel

/-- A host write at `off` reaches its block. -/
def reaches (off : Nat) (s : State) : Bool := s.pwr.powered && !s.pwr.tripped && (s.glb.state == .ready || earlyBlock off)

theorem reaches_iff (off : Nat) (s : State) : Reaches off s ↔ reaches off s = true := by
  simp only [Reaches, reaches, Bool.and_eq_true, Bool.not_eq_true', Bool.or_eq_true, beq_iff_eq]
  tauto

/-- Two trace records in the FIFO. -/
def traced (r : TraceState) : State :=
  { ready with obs := { ready.obs with
      traceRun := r == .running, traceState := r
      fifo := List.replicate 2 { kind := 1, unit := 0, stage := 0, seq := 0, stamp := 0, p2 := 0, p3 := 0 } } }

theorem hyp_TraceRunAndDrainComplete :
    reaches 0xC0000 ready = true ∧ ready.obs.traceRun = false ∧ reaches 0xC0000 (traced .running) = true ∧ (traced .running).obs.traceRun = true ∧
    alive (traced .running) = true ∧ (traced .running).obs.fifo.length = 2 ∧ (traced .running).act.traceMode = 0 ∧
    (traced .running).obs.traceState = .running ∧ alive (traced .stopped) = true ∧ (traced .stopped).obs.traceState = .stopped := by
  decide +kernel

/-- Sampling with a ring of 2 records of which `n` are taken. -/
def sampling (n : Nat) : State :=
  { ready with
    obs := { ready.obs with sampleEn := true, sampleBase := 0x100001, sampleSeq := BitVec.ofNat 32 n }
    act := { ready.act with sampleMask := 1 } }

theorem hyp_SampleNowRule :
    dueWith opSampleNow sampleNowMeaning 0 (dsc 0x73 1) (sampling 1) always = true ∧
    dueWith opSampleNow sampleNowMeaning 0 (dsc 0x73 0) (sampling 1) always = true ∧
    dueWith opSampleNow sampleNowMeaning 0 (dsc 0x73 1) ready (fun _ s0 => !groupPending s0 12 && !s0.obs.sampleEn) = true ∧
    dueWith opSampleNow sampleNowMeaning 0 (dsc 0x73 (1#64 <<< 63)) (sampling 2) (fun _ s0 => !groupPending s0 12 &&
      ringFull s0.obs.sampleSeq s0.obs.sampleHead (bits s0.obs.sampleBase 4 0)) = true := by decide +kernel

theorem hyp_SampleSetWritesOrDrops :
    Memory.wf (sampling 1).host = true ∧ (sampling 1).obs.sampleEn = true ∧
    ringFull (sampling 1).obs.sampleSeq (sampling 1).obs.sampleHead (bits (sampling 1).obs.sampleBase 4 0) = false ∧
    ready.obs.sampleEn = false ∧
    ringFull (sampling 2).obs.sampleSeq (sampling 2).obs.sampleHead (bits (sampling 2).obs.sampleBase 4 0) = true := by decide +kernel

theorem hyp_ObservationServicesComplete :
    (crumb 0x10 0 0 ready).pwr.powered = true ∧ (crumb 0x10 0 0 ready).obs.queue.length = 1 ∧ alive ready = true ∧
    { ready.evc with ringEn := true }.ringEn = true ∧ alive (sampling 1) = true ∧ (sampling 1).obs.sampleEn = true ∧
    (sampling 1).act.intervalUs ≠ 0 := by decide +kernel

theorem hyp_EndOfInterruptCompletes :
    reaches 0x4000C events = true ∧ reaches 0x48000 events = true ∧ isFast (0x20#11).toNat = false ∧ (sourceOf events 0x20).host = .active ∧
    ((sourceOf events 0x20).asserted && isLevel 0x20) = false ∧ (sourceOf events 0x21).host = .activePending ∧
    isFast (1#11).toNat = true ∧ (sourceOf events 1).host = .active ∧ (vecOf events (srcVector events 1)).fast = some 1 ∧
    (sourceOf events 2).host = .pending ∧ (sourceOf events 0x7FF).host = .idle := by decide +kernel

theorem hyp_DeliveryCommandsComplete :
    reaches 0x40008 events = true ∧ { events.evc with armEn := true, armHeld := true }.armHeld = true ∧ alive events = true ∧
    (vecOf events 5).first = some 1599000000 ∧ vecDue (advanceTo (1599000000 + modTime events 5 * usUnits) events) 5 = true ∧
    deliveryHeld (advanceTo (1599000000 + modTime events 5 * usUnits) events) 5 = false ∧ events.pwr.powered = true ∧
    events.pwr.tripped = false := by decide +kernel

theorem hyp_DeliverySendsOneMessage : vecDue events 5 = true ∧ deliveryHeld events 5 = false ∧ armed events 5 = false := by decide +kernel

theorem hyp_MaskedVectorRule :
    masked maskedFive 5 = true ∧ vecDue maskedFive 5 = true ∧ masked { events with evc := { events.evc with funcMask := true } } 0 = true ∧
    isFast 2 = true ∧ (sourceOf events 2).host = .pending ∧ srcVector events 2 = 0 ∧
    (vecOf { events with evc := { events.evc with vec := [] } } 0).fast = none ∧ maskedFive.pwr.powered = true ∧ maskedFive.pwr.tripped = false ∧
    maskedFive.evc.funcMask = false ∧ maskedFive.evc.globalDisable = false ∧ maskedFive.glb.state ≠ .halted := by decide +kernel


/-- Bytes of a number, most significant first. -/
def beBytes (k n : Nat) : List Byte := (leBytes k n).reverse

/-- The header of a firmware image without a body, version 0x102 and rollback index 1, signed with the private key 1, whose public key
the model's fuses hold (log entry 2): its bytes that are not reserved. -/
def imageHead : List Byte :=
  leBytes 4 0x4657494D ++ leBytes 4 0x0102 ++ [1, 0, 0, 0] ++ leBytes 4 0 ++ List.replicate 48 0 ++
    beBytes 32 p256g.1 ++ beBytes 32 p256g.2 ++
    beBytes 32 0xE3B0C44298FC1C149AFBF4C8996FB92427AE41E4649B934CA495991B7852B855 ++ List.replicate 32 0 ++
    beBytes 32 p256g.1 ++ beBytes 32 0x0E85927C1BDDC750AD5A7141FB533376D4F182995CC6F8F1F805355B3B8A9CA9

def image : List Byte := imageHead ++ List.replicate 3840 0

theorem test_signed_image : imageCheck State.reset image = 0 := by decide +kernel

theorem imageCheck_fuses {s t : State} (h : s.fuses = t.fuses) (i : List Byte) : imageCheck s i = imageCheck t i := by
  unfold imageCheck
  rw [h]

/-- Bytes as memory cells at `a`. -/
def cellsAt (a : Nat) (bs : List Byte) : List Host.Cell := (bs.zipIdx.filter fun p => p.1 != 0).map fun p => (a + p.2, p.1)

/-- The table port of a device in `s` selects entry `i` of table `t`. -/
def port (t i : Nat) (s : State) : State := { s with qsu := { s.qsu with tblSel := BitVec.ofNat 64 (t * 2 ^ 62 + i) } }

/-- No ring live, ring 2 ready to be enabled. -/
def quiet : State :=
  { ready with qsu := { ready.qsu with rings := [(2, { resetRing with log2 := 4, tailAddr := 0x200 })] } }

theorem hyp_TablePortCompletes :
    reaches 0x60038 ready = true ∧
    tblTable (port 0 0xFFFFF quiet) = 0 ∧ ringLive (ringOf quiet 0xFFFFF) = false ∧
    tblTable (port 1 40959 ready) = 1 ∧ tblIndex (port 1 40959 ready) = 40959 ∧ tblWriteRefused (port 1 40959 ready) = false ∧
    tblTable (port 2 8191 ready) = 2 ∧ tblIndex (port 2 8191 ready) = 8191 ∧
    tblTable (port 0 2 quiet) = 0 ∧ tblIndex (port 0 2 quiet) = 2 ∧ (ringOf quiet 2).state = .disabled ∧ (ringOf quiet 2).disabling = false ∧
    enableRefused (port 0 2 quiet) 2 = false ∧ cacheOk (port 0 2 quiet) (ringOf (port 0 2 quiet) 2).context.toNat = true ∧
    tblTable (port 0 0 ready) = 0 ∧ ringRuns (ringOf ready (tblIndex (port 0 0 ready))) = true := by decide +kernel

theorem hyp_RingServiceCompletes :
    reaches 0x60000 { ready with qsu := resetQsu } = true ∧ resetQsu.fetchEn = false ∧ ready.glb.flr = false ∧
    (ringOf { ready with qsu := { ready.qsu with rings := [(0, { hostRing with disabling := true })] } } 0).disabling = true ∧
    (ringOf ready 0).done = (ringOf ready 0).head ∧ serving ready = true ∧ ready.qsu.fetchEn = true ∧ (ctxOf ready 0).valid = true ∧
    cacheOk ready 0 = true ∧ ready.glb.cacheMem = true ∧ { ready.glb with cacheMem := false }.cacheMem = false := by decide +kernel

/-- `busy` with a completion ring that is full, the record held or not. -/
def full (held : Bool) : State :=
  { busy with qsu := { busy.qsu with
      ctxs := [(0, { aContext with cqTail := 16 })]
      rings := [(0, { ringOf busy 0 with cmds := (ringOf busy 0).cmds.map fun c => { c with held := held } })] } }

theorem hyp_OldestCommandCompletes :
    serving busy = true ∧ ((ringOf busy 0).cmds.map (·.phase)) = [.finished okResult] ∧ cqFailed busy (ringOf busy 0) = false ∧ cacheOk busy 0 = true ∧
    cqFailed (full true) (ringOf (full true) 0) = false ∧ cacheOk (full true) 0 = true ∧
    (Desc.quiet (dsc 0) && okResult.status == stOk) = false ∧
    ringFull (ctxOf busy 0).cqTail (ctxOf busy 0).cqHead (ctxOf busy 0).cqLog2.toNat = false ∧
    ringFull (ctxOf (full true) 0).cqTail (ctxOf (full true) 0).cqHead (ctxOf (full true) 0).cqLog2.toNat = true ∧
    (ringOf (full true) 0).cmds.map (·.held) = [true] ∧ (ringOf (full false) 0).cmds.map (·.held) = [false] ∧
    (ringOf (full true) 0).cmds.map (·.phase) = [.finished okResult] := by decide +kernel

theorem hyp_MemoryReadsBack : Memory.wf [(2 ^ 64 - 1, 1)] = true := by decide +kernel

/-- A commit of the groups in `p` waits. -/
def committed (p : W64) (s : State) : State := { s with cmt := { s.cmt with pending := p } }

theorem hyp_CommitsComplete :
    reaches 0x10000 ready = true ∧ ready.cmt.pending.getLsbD 1 = false ∧ ready.cmt.pending.getLsbD 12 = false ∧
    reaches 0x10000 (committed 0x1000 ready) = true ∧ (committed 0x1000 ready).cmt.pending.getLsbD 12 = true ∧
    reaches 0x10008 ready = true ∧ ready.cmt.pending.getLsbD 0 = false ∧ reaches 0x10008 (committed 0x1001 ready) = true ∧
    (committed 0x1001 ready).cmt.pending.getLsbD 12 = true ∧ (committed 0x1001 ready).cmt.pending.getLsbD 0 = true := by decide +kernel

/-- The tick stopped, no ring, every group's commit waiting. -/
def rest : State := { committed 0x1FFF quiet with tkc := resetTkc }

theorem hyp_GroupsApply :
    alive rest = true ∧ rest.cmt.pending.getLsbD 0 = true ∧ rest.cmt.pending.getLsbD 1 = true ∧ rest.cmt.pending.getLsbD 2 = true ∧
    rest.cmt.pending.getLsbD 6 = true ∧ rest.cmt.pending.getLsbD 7 = true ∧ rest.cmt.pending.getLsbD 9 = true ∧ rest.cmt.pending.getLsbD 11 = true ∧
    tickStopped rest = true ∧ timingBad rest.pend.tick none = false ∧ timingBad { rest.pend.tick with periodUs := 15 } none = true ∧
    rest.ple.images = [] ∧ noRing rest = true ∧ 1000 ≤ { rest.pend with capW := 1000 }.capW.toNat ∧
    { rest.pend with capW := 2500 }.capW.toNat ≤ 2500 ∧ { rest.pend with capW := 999 }.capW.toNat < 1000 ∧
    2500 < { rest.pend with capW := 2501 }.capW.toNat ∧ rest.obs.traceState = .stopped ∧ traceBad rest = false ∧
    traceBad { rest with pend := { rest.pend with post := 0 } } = true ∧ ready.cmt.pending.getLsbD 12 = false ∧
    rest.cmt.pending.getLsbD 5 = true ∧ topoOk rest.pend.topo = true ∧ topoOk { rest.pend.topo with d0 := 33 } = true ∧ topoOk { rest.pend.topo with d0 := 34 } = false ∧
    rest.cmt.pending.getLsbD 8 = true ∧ rest.pend.timeMode.toNat ≤ 1 ∧ 1 < { rest.pend with timeMode := 2 }.timeMode.toNat ∧
    rest.cmt.pending.getLsbD 10 = true ∧ rest.cmt.pending.getLsbD 3 = true ∧ rest.cmt.pending.getLsbD 4 = true ∧
    timingBad { rest.pend.tick with periodUs := 16 } none = false := by decide +kernel

theorem hyp_GroupsApply_orderly : Orderly rest := ⟨by decide +kernel, by decide +kernel, by decide +kernel⟩

theorem hyp_RegisterWritesComplete :
    reaches 0x70010 ready = true ∧ ready.cmt.pending.getLsbD 0 = false ∧ reaches 0x70010 rest = true ∧ rest.cmt.pending.getLsbD 0 = true ∧
    reaches 0x60030 ready = true ∧ reaches 0x30004 State.reset = true ∧ reaches 0xF0000 ready = true ∧ reaches 0x18 ready = true ∧
    reaches 0x18 { ready with glb := { ready.glb with held := some (0x60010, 1) } } = true := by decide +kernel

theorem hyp_RunAndTimeWritesComplete :
    reaches 0x70000 rest = true ∧ rest.glb.flr = false ∧ rest.tkc.run = false ∧ rest.tkc.running = false ∧
    now rest + 16000 ≤ ({ rest.act.tick with t0 := 1600016000 }).t0.toNat ∧ ({ rest.act.tick with t0 := 1600015992 }).t0.toNat < now rest + 16000 ∧
    reaches 0x20010 rest = true ∧ rest.act.timeMode = 0 ∧ reaches 0x20010 ready = true ∧ ready.tkc.running = true := by decide +kernel

theorem hyp_DeviceResetCompletes : reaches 0x20 ready = true ∧ ready.pwr.powered = true ∧ ready.pwr.tripped = false ∧ (0xA5C4#32) ≠ 0x0000A5C3 := by decide +kernel

/-- Mailbox `b` is full with word `w`. -/
def boxed (b : Nat) (w : W64) (s : State) : State :=
  { s with mbx := { s.mbx with full := putBit s.mbx.full b true, word := SMap.put s.mbx.word b w } }

theorem hyp_MailboxesComplete :
    ready.pwr.powered = true ∧ ready.pwr.tripped = false ∧ boxFull ready 0 = false ∧ boxFull ready 15 = false ∧ boxFull (boxed 15 1 ready) 15 = true ∧
    boxFull (boxed 16 1 ready) 16 = true ∧ boxFull (boxed 31 1 ready) 31 = true ∧ boxFull ready 31 = false := by decide +kernel

/-- A firmware command word. -/
def fwWord (op arg : Nat) : W64 := BitVec.ofNat 64 (op * 2 ^ 56 + arg)

theorem hyp_FirmwareCommandsComplete :
    turnOf (boxed 15 (fwWord 1 0) ready) 15 = true ∧ ready.glb.state ≠ .recovery ∧ ready.mbx.busy.contains 15 = false ∧
    fwOp (boxWord (boxed 15 (fwWord 1 0) ready) 15) = 0x01 ∧ reservedOp (fwOp (fwWord 3 0)) = true ∧ turnOf (boxed 0 (fwWord 3 0) ready) 0 = true ∧
    fwOp (fwWord 2 0) = 0x02 ∧ fwOp (fwWord 0x10 0x40) = 0x10 ∧ fwOp (fwWord 0x21 0) = 0x21 ∧ reservedOp 0xFF = true ∧ reservedOp 0 = true := by decide +kernel

/-- Memory that holds the header reads as the whole image. -/
theorem read_image {m : List Host.Cell} {a : Nat} (h1 : Memory.read m a 256 = imageHead) (h2 : (m.all fun c => decide (c.1 < a + 256)) = true) :
    Memory.read m a 4096 = image := by
  have h : ∀ c ∈ m, c.1 < a + 256 := fun c hc => of_decide_eq_true (List.all_eq_true.1 h2 c hc)
  rw [show 4096 = 256 + 3840 from rfl, Memory.read_append, h1, Memory.read_of_gt h, image]

/-- FW_UPDATE in mailbox 0, with `image` at host address 0x10000 or with nothing there. -/
def updating (good : Bool) : State :=
  { boxed 0 (fwWord 0x20 0x400) ready with host := if good then cellsAt 0x10000 imageHead else [] }

/-- The write to flash is under way; the mailbox of pair 0 still owes its reply, or has given it. -/
def writing (owed : Bool) : State :=
  { ready with
    sec := { ready.sec with staged := some (0, 0x20, image) }
    mbx := { ready.mbx with busy := if owed then [0] else [] } }

theorem hyp_FirmwareUpdatesComplete :
    (turnOf (updating true) 0 = true ∧ (updating true).glb.state ≠ .recovery ∧ (updating true).mbx.busy.contains 0 = false ∧
      fwOp (boxWord (updating true) 0) = 0x20 ∧ (updating true).sec.staged = none ∧ 64 * fwArg (boxWord (updating true) 0) = 0x10000 ∧
      imgLength image = 0) ∧
    hostRead (updating true) 0x10000 4096 = image ∧ imageCheck (updating true) image = 0 ∧
    turnOf (updating false) 0 = true ∧ hostRead (updating false) 0x10000 4096 = List.replicate 4096 0 ∧
    imageCheck (updating false) (List.replicate 4096 0) ≠ 0 ∧
    firmwareRuns (writing true) = true ∧ (writing true).mbx.busy.contains 0 = true ∧ boxFull (writing true) 16 = false ∧
    (writing false).mbx.busy.contains 0 = false ∧ (writing false).sec.staged.isSome = true :=
  ⟨by decide +kernel, read_image (by decide +kernel) (by decide +kernel), (imageCheck_fuses rfl _).trans test_signed_image, by decide +kernel,
    Memory.read_of_gt (by decide +kernel) 4096, by decide +kernel, by decide +kernel, by decide +kernel, by decide +kernel,
    by decide +kernel, by decide +kernel⟩

/-- RECOVERY with the image in the window and RECOVERY_LOAD in mailbox 0. -/
def recovering : State :=
  { boxed 0 (fwWord 0x30 4096) State.reset with
    glb := { State.reset.glb with state := .recovery }
    mem := { State.reset.mem with cells := cellsAt nbeBase imageHead } }

/-- The recovery window begins with the SRAM of the first NBE in service. -/
theorem recoveryBytes_low {s : State} (h : ((List.range 512).filter fun c => columnOn s c)[0]? = some 0) :
    recoveryBytes s 0 4096 = Memory.read s.mem.cells nbeBase 4096 := by
  rw [Memory.read_eq_map, recoveryBytes]
  refine List.map_congr_left fun i hi => ?_
  have hi := List.mem_range.1 hi
  have h2 : (0 + i) / nbeBytes = 0 := Nat.div_eq_of_lt (by unfold nbeBytes; omega)
  have h3 : (0 + i) % nbeBytes = i := by rw [Nat.zero_add]; exact Nat.mod_eq_of_lt (by unfold nbeBytes; omega)
  simp only [recoveryAddr, if_pos (show 0 + i < 2 ^ 26 by omega), h2, h, Option.map_some, h3, Nat.zero_mul, Nat.add_zero]

theorem recoveryCheck_good {s : State} {w : W64} {img head : List Byte} (h1 : (turnOf s 0 && romServes s 0 && fwOp (boxWord s 0) == 0x30) = true)
    (hw : boxWord s 0 = w) (hh : recoveryBytes s 0 4096 = head) (hi : head ++ recoveryBytes s 4096 (if lengthOk (imgLength head) then imgLength head else 0) = img)
    (h2 : fwArg w = 4096 + imgLength head) (h3 : imageCheck s img = 0) : recoveryCheck true s = some (w, 0, img) := by
  subst hw hh hi
  simp only [recoveryCheck, h1, if_true, h2, h3]
  rfl

theorem hyp_RecoveryLoadCompletes :
    recoveryCheck true recovering = some (fwWord 0x30 4096, 0, image) ∧
    (recoveryCheck false (boxed 0 (fwWord 0x30 4096) ready) = none ∧ ready.glb.state ≠ .recovery ∧ turnOf (boxed 0 (fwWord 0x30 4096) ready) 0 = true ∧
      fwOp (boxWord (boxed 0 (fwWord 0x30 4096) ready) 0) = 0x30 ∧ ready.mbx.busy.contains 0 = false) :=
  ⟨recoveryCheck_good (by decide +kernel) (by decide +kernel) ((recoveryBytes_low (by decide +kernel)).trans (read_image (by decide +kernel) (by decide +kernel)))
    (by rw [show (if lengthOk (imgLength image) = true then imgLength image else 0) = 0 from by decide +kernel]; exact List.append_nil _) (by decide +kernel)
    ((imageCheck_fuses rfl _).trans test_signed_image), by decide +kernel⟩


/-- A boot in state `b`. -/
def boot (b : BootState) : State := { State.reset with glb := { State.reset.glb with state := b } }

theorem hyp_SidebandServicesComplete :
    spdmServed .doe ready = true ∧ spdmServed .mctp ready = true ∧ sessions .doe ready < 2 ∧ (insertNat 1 (ideStreams ready)).length ≤ 3 ∧
    3 < (insertNat 4 (ideStreams { ready with sec := { ready.sec with ideKeys := [(8, 0), (16, 0), (24, 0)] } })).length ∧
    2 ≤ sessions .doe { ready with sec := { ready.sec with doe := 2 } } ∧ 0 < sessions .mctp { ready with sec := { ready.sec with mctp := 1 } } ∧
    0 < { ready.sec with doe := 1 }.doe ∧ ready.pwr.powered = true ∧ (2#8) ≠ 1 ∧ (3#8) ≠ 4 ∧ sensorsServed ready = true ∧
    { ready.store with log := [{ kind := 1, subject := 0, seq := 1, stamp := 0, payload := 0, epoch := 1, step := 0 }] }.log.length = 1 := by
  decide +kernel

theorem hyp_BootCommandsComplete :
    booting State.reset = true ∧ State.reset.glb.state = .bootRom ∧ booting (boot .fwLoad) = true ∧ (boot .fwLoad).glb.state = .fwLoad ∧
    imageCheck { boot .fwLoad with store := { State.reset.store with image := image } } image = 0 ∧
    imageCheck (boot .fwLoad) (boot .fwLoad).store.image ≠ 0 ∧ (boot .memTrain).glb.state = .memTrain ∧
    ((List.range 1024).any fun c => columnOn (boot .memTrain) c) = true ∧ (boot .link).glb.state = .link ∧ booting (boot .link) = true ∧
    (boot .fabric).glb.state = .fabric ∧ booting (boot .fabric) = true ∧ booting (boot .memTrain) = true ∧ (boot .link).glb.state ≠ .halted ∧
    (boot .memTrain).glb.state ≠ .halted :=
  ⟨by decide +kernel, by decide +kernel, by decide +kernel, by decide +kernel, (imageCheck_fuses rfl _).trans test_signed_image, by decide +kernel,
    by decide +kernel, by decide +kernel, by decide +kernel, by decide +kernel, by decide +kernel, by decide +kernel, by decide +kernel,
    by decide +kernel, by decide +kernel⟩

/-- Without power. -/
def unpowered : State := { State.reset with pwr := { resetPwr with powered := false } }

theorem hyp_ResetsAndPowerComplete :
    ready.pwr.powered = true ∧ ready.pwr.tripped = false ∧ ready.pins.perstN = true ∧ ready.glb.d3hot = false ∧
    { ready.glb with d3hot := true }.d3hot = true ∧ { ready.pins with perstN := false }.perstN = false ∧ unpowered.pwr.powered = false ∧
    4600 ≤ (4600#16).toNat ∧ (6000#16).toNat ≤ 6000 := by decide +kernel

/-- The crystal runs, and domain `c` is as given. -/
def clocked (c : Nat) (d : Domain) : State :=
  setDomain c d (setDomain 0 { resetDomain 0 with source := .crystal, inReset := false } { ready with clk := { ready.clk with xtalOk := true } })

def lowOnce : Domain := { source := .pll, low := 1, inReset := false, outOfService := false }

theorem restartCore_idle (c : Nat) (s : State) (h : s.mbx.full = 0) : ∃ m, restartCore c s = crumb 0x10 c 0 { s with mbx := m } := by
  have hf : ∀ (L : List Nat) (t : State), (∃ m, t = { s with mbx := m } ∧ m.full = 0) →
      ∃ m, L.foldl (fun s b => dropBox (16 + b) (abortBox b s)) t = { s with mbx := m } ∧ m.full = 0 := by
    intro L
    induction L with
    | nil => exact fun t ht => ht
    | cons b L ih =>
      rintro t ⟨m, rfl, hm⟩
      refine ih _ ⟨{ m with full := putBit m.full (16 + b) false, word := SMap.del m.word (16 + b) }, ?_, ?_⟩
      · simp [dropBox, abortBox, hm]
      · simp [putBit, hm]
  obtain ⟨m, e, -⟩ := hf ((List.range 16).filter fun b => Config.mailboxCore b % 8 == c) s ⟨s.mbx, rfl, h⟩
  let mine := (List.range 16).filter fun b => Config.mailboxCore b % 8 == c
  refine ⟨{ m with busy := m.busy.filter fun p => !mine.contains p, owed := m.owed.filter fun p => !mine.contains p.1 }, ?_⟩
  simp only [restartCore, e, h]
  simp [mine]

theorem few_expiries : ((restartCore 7 ready).obs.watchdogs.filter fun x => decide (now (restartCore 7 ready) < x + 600 * secUnits)).length + 1 < 3 := by
  obtain ⟨m, e⟩ := restartCore_idle 7 ready rfl
  rw [e]
  exact of_decide_eq_true (Eq.refl true)
theorem three_expiries : let t := restartCore 0 { ready with obs := { ready.obs with watchdogs := [now ready, now ready] } }
     3 ≤ ((t.obs.watchdogs.filter fun x => decide (now t < x + 600 * secUnits)) ++ [now t]).length := by
  obtain ⟨m, e⟩ := restartCore_idle 0 { ready with obs := { ready.obs with watchdogs := [now ready, now ready] } } rfl
  rw [e]
  exact of_decide_eq_true (Eq.refl true)

theorem hyp_ClockAndPowerCommandsComplete :
    monitored (clocked 6 lowOnce) 6 = true ∧ 2 * 499 < expectedEdges (clocked 6 lowOnce) 6 ∧ (domainOf (clocked 6 lowOnce) 6).low = 1 ∧
    expectedEdges (clocked 6 lowOnce) 6 ≤ 2 * 500 ∧
    isDead (clocked 31 { lowOnce with low := 2 }) 31 = true ∧ domainCodes.contains 31 = true ∧ (domainOf (clocked 31 lowOnce) 0).source = .crystal ∧
    (clocked 31 lowOnce).glb.state ≠ .bootRom ∧ ((clocked 31 lowOnce).glb.d3hot && sleepDomains.contains 31) = false ∧
    domainCodes.contains 5 = true ∧ domainCodes.contains 8 = true ∧ (domainOf (clocked 31 lowOnce) 31).outOfService = false ∧
    (domainOf (clocked 5 lowOnce) 5).outOfService = false ∧ (clocked 5 lowOnce).pwr.powered = true ∧ (clocked 5 lowOnce).pwr.tripped = false ∧
    (clocked 5 lowOnce).clk.xtalOk = true ∧ max (114#8).toNat (0#8).toNat < 115 ∧ 115 ≤ max (0#8).toNat (115#8).toNat ∧
    ready.pwr.pfActive = false ∧ ready.glb.state ≠ .halted := by decide +kernel

/-- A graph of one stage with one Ouvut layer: FP32 tensors 20 (weights), 21 (input), 22 (output, host-visible) of two rows of two. -/
def fp32 : Form := { fmt := 0, mode := 0, b32 := false, esc := false, cap := 0 }
def tensor (n role : Nat) : TensorEnt :=
  { tensor := n, form := fp32, role := role, sign1 := false, hostVisible := n == 22, rows := 2, k := 2, sliceRows := 2, recipe := none,
    rule := none, slot := 0 }
def graph : Image :=
  { ouvut := true, plainEnds := false, seed := 0
    stages := [{ stage := 3, kind := 0, strict := false, locked := false, replicas := 1, tiles := 1, group := none }]
    layers := [{ layer := 7, stage := 3, recipe := none, rule := some 1, weight := 20, input := 21, output := 22, k := 2, n := 2, channels := [] }]
    tensors := [tensor 20 1, tensor 21 0, tensor 22 0, tensor 23 2, { tensor 30 3 with rows := 8, rule := some 8 }, tensor 31 0, tensor 32 0,
      { tensor 33 0 with rows := 1 }]
    edges := [], hints := [] }
def tensorAt (n a : Nat) (w : Option Nat) : TensorPl :=
  { tensor := n, tier := 1, dpa := a, bytes := 64, raisin := 0, outlier := 0, ext := 0, book := 0, scale := 0, entries := 1,
    window := w, rep := 0, err := 0 }
def placed : Placement :=
  { emptyPlacement [(0, graph)] with
    stages := [{ stage := 3, tiles := [[0]], nbes := 1, planned := 1, beat := 0, guard := 0, reserve := 0, spare := 0, share := 0, fio := 0 }]
    layers := [
      { layer := 7, paths := [3, 3, 3, 3, 3], exact := false, owner := 0, lues := [], rootLues := [], statsBase := 0
        now := { hi := 0x2000, lo := 0x3000, s1 := 0x4000, s2 := 0x5000, rec_ := 0x6000, fac := 0x8000 }
        next := { hi := 0x2100, lo := 0x3100, s1 := 0x4100, s2 := 0x5100, rec_ := 0x6100, fac := 0x8100 }
        factors := true, grad := 0x7000, wire := 0x7100 }]
    tensors := [tensorAt 20 0x1000 none, tensorAt 21 0x1040 none, tensorAt 22 0x1080 (some 0), tensorAt 23 0x10C0 none,
      { tensorAt 30 0 none with tier := 3 }, tensorAt 31 0x1100 none, tensorAt 32 0x1180 none, tensorAt 33 0x1200 none]
    tables := [
      { table := 30, rowsPerPage := 64, accPages := 1, statePages := 0, pages := 1, quota := 1, logBytes := 4096, logs := [(0, 0xA000, 4096)]
        level2 := 0x9000, statsId := 8, raisin := 0, far := 0, l0 := 0 }] }

/-- The graph placed, its layer's weights loaded. -/
def running : State :=
  { ready with
    ple := { ready.ple with images := [(0, graph)], placement := some placed }
    tiles := { ready.tiles with weights := [(7, [
      { step := 0, from_ := 0, form := fp32, scale := fOne, data := List.replicate 16 0, raisins := [], outliers := [], codebook := [],
        sums := [], poisoned := false, tables := true }])] } }

theorem hyp_WindowsAndScrubsComplete :
    serving running = true ∧ windowAt running 63 1 = some (22, 63) ∧ windowAt running 63 2 = none ∧ ready.pwr.powered = true ∧ ready.glb.linkUp = true ∧
    { ready.glb with ats := true }.ats = true ∧ alive ready = true ∧ { ready.mem with nearScrubEn := true }.nearScrubEn = true ∧ columnOn ready 1023 = true ∧
    SMap.get ready.mem.scrubNear 1023 0 = 0 ∧ SMap.get ready.mem.scrubFar 63 0 = 0 ∧ channelOn ready 63 = true ∧ ready.mem.farScrubEn = true := by decide +kernel

/-- A running device of a domain of two at its report time. -/
def ticking : State :=
  { pair ready with tkc := { ready.tkc with nextEdge := 1600016000 + 16000 } }

theorem hyp_TickCommandsComplete :
    alive ticking = true ∧ ticking.tkc.running = true ∧ ticking.tkc.report = none ∧
    (let r : Report := { notDone := [], local_ := false, running := false, rounds := 0, symbols := [] }
     let s : State := { ticking with tkc := { ticking.tkc with report := some r } }
     alive s = true ∧ (domainDims s).drop r.rounds = [0] ∧ (portTo s 0 1).isSome = true ∧
       bits (0#64) 57 56 = 0 ∧ bit (0#64) 58 = false ∧
       bits (BitVec.ofNat 64 (2 ^ 58 + 2 ^ 50)) 57 56 = 0 ∧ bit (BitVec.ofNat 64 (2 ^ 58 + 2 ^ 50)) 58 = true ∧
       bits (BitVec.ofNat 64 (2 ^ 58 + 2 ^ 50)) 55 50 ≠ latCoord s 0 ∧ bits (0#64) 49 34 = s.act.tick.domainId.toNat ∧ bits (5#64) 31 0 = s.tkc.tick.toNat % 2 ^ 32 ∧
       bits (6#64) 31 0 ≠ s.tkc.tick.toNat % 2 ^ 32) ∧
    (let u := countEdge (advanceTo (settleReport ticking).tkc.nextEdge.toNat (settleReport ticking))
     u.tkc.running = true ∧ (match u.tkc.report with | some r => domainOr u r | none => false) = true) ∧
    (let s : State := { ready with tkc := { ready.tkc with nextEdge := 1600032000 } }
     let u := countEdge (advanceTo (settleReport s).tkc.nextEdge.toNat (settleReport s))
     (s.tkc.running || s.tkc.armed) = true ∧ (match u.tkc.report with | some r => !domainOr u r | none => false) = true) ∧
    (let s : State := { ready with tkc := { resetTkc with armed := true, nextEdge := 1600032000 } }
     (s.tkc.running || s.tkc.armed) = true ∧
       (countEdge (advanceTo (settleReport s).tkc.nextEdge.toNat (settleReport s))).tkc.running = false) := by decide +kernel

/-- A flit of zeros with header `h`. -/
def flit (h : W64) : Flit := { header := h, words := List.replicate 256 0, fecOk := true, fecCorr := 0 }

/-- Port Z00 in a state, with what it holds. -/
def withPort (f : Port → Port) : State :=
  { pair ready with fab := { (pair ready).fab with ports := [(0, f { resetPort with state := .up, lanes := 0xF })] } }

/-- The CRC register after 256 more bytes of zeros. -/
def zeros (c : W32) : W32 := (List.replicate 256 0#8).foldl crcByte c

/-- The same, each register a number before the next byte. -/
def zerosFrom : Nat → Nat → Nat
  | 0, c => c
  | n + 1, 0 => zerosFrom n (crcByte 0 0).toNat
  | n + 1, c + 1 => zerosFrom n (crcByte (BitVec.ofNat 32 (c + 1)) 0).toNat

theorem zerosFrom_eq (n : Nat) (c : W32) : zerosFrom n c.toNat = ((List.replicate n 0#8).foldl crcByte c).toNat := by
  induction n generalizing c with
  | zero => rfl
  | succ n ih =>
    rw [List.replicate_succ, List.foldl_cons, ← ih]
    cases h : c.toNat with
    | zero => rw [show c = 0 from BitVec.eq_of_toNat_eq h]; rfl
    | succ k => rw [zerosFrom, ← h, BitVec.ofNat_toNat, BitVec.setWidth_eq]; rfl

theorem zeros_eq {c d : W32} (h : zerosFrom 256 c.toNat = d.toNat) : zeros c = d :=
  BitVec.eq_of_toNat_eq ((zerosFrom_eq 256 c).symm.trans h)

theorem crc_flit (h : W64) : crc32c (leBytes 4 (h.toNat % 2 ^ 32) ++ wordsBytes ((flit h).words.take 256)) =
    zeros (zeros (zeros (zeros (zeros (zeros (zeros (zeros ((leBytes 4 (h.toNat % 2 ^ 32)).foldl crcByte 0xFFFFFFFF#32)))))))) ^^^ 0xFFFFFFFF#32 := by
  have e : wordsBytes ((flit h).words.take 256) = List.replicate 2048 0#8 := by
    simp only [flit, wordsBytes, List.take_replicate, List.flatMap_replicate]
    exact (congrArg List.flatten (congrArg (List.replicate 256) (show leBytes 8 (0#64).toNat = List.replicate 8 0#8 from rfl))).trans
      (List.flatten_replicate_replicate ..)
  rw [e, show 2048 = 256 + 256 + 256 + 256 + 256 + 256 + 256 + 256 from rfl]
  simp only [List.replicate_add, crc32c, List.foldl_append, zeros]

theorem crcOk_flit (h : W64) : Flit.crcOk (flit h) =
    ((crc32c (leBytes 4 (h.toNat % 2 ^ 32) ++ wordsBytes ((flit h).words.take 256))).toNat == bits h 63 32) := rfl

theorem test_crc_data : (crc32c (leBytes 4 ((0x7D28FBB300000000#64).toNat % 2 ^ 32) ++
    wordsBytes ((flit 0x7D28FBB300000000#64).words.take 256))).toNat = 0x7D28FBB3 := by
  rw [crc_flit, show (leBytes 4 ((0x7D28FBB300000000#64).toNat % 2 ^ 32)).foldl crcByte 0xFFFFFFFF#32 = 0xB798B438#32 by decide +kernel,
    show zeros 0xB798B438#32 = 0x130C61F6#32 from zeros_eq (by decide +kernel), show zeros 0x130C61F6#32 = 0x47B1E364#32 from zeros_eq (by decide +kernel),
    show zeros 0x47B1E364#32 = 0x5349305E#32 from zeros_eq (by decide +kernel), show zeros 0x5349305E#32 = 0x45C2C2F2#32 from zeros_eq (by decide +kernel),
    show zeros 0x45C2C2F2#32 = 0xB8850545#32 from zeros_eq (by decide +kernel), show zeros 0xB8850545#32 = 0xD08DDBBA#32 from zeros_eq (by decide +kernel),
    show zeros 0xD08DDBBA#32 = 0x35BCAA51#32 from zeros_eq (by decide +kernel), show zeros 0x35BCAA51#32 = 0x82D7044C#32 from zeros_eq (by decide +kernel)]
  decide +kernel

theorem test_crc_idle : (crc32c (leBytes 4 ((0x37DE8C0700000100#64).toNat % 2 ^ 32) ++
    wordsBytes ((flit 0x37DE8C0700000100#64).words.take 256))).toNat = 0x37DE8C07 := by
  rw [crc_flit, show (leBytes 4 ((0x37DE8C0700000100#64).toNat % 2 ^ 32)).foldl crcByte 0xFFFFFFFF#32 = 0x12D92646#32 by decide +kernel,
    show zeros 0x12D92646#32 = 0xA2C79F7C#32 from zeros_eq (by decide +kernel), show zeros 0xA2C79F7C#32 = 0x75F061D0#32 from zeros_eq (by decide +kernel),
    show zeros 0x75F061D0#32 = 0xAC970257#32 from zeros_eq (by decide +kernel), show zeros 0xAC970257#32 = 0xD08E3DC2#32 from zeros_eq (by decide +kernel),
    show zeros 0xD08E3DC2#32 = 0x7813A99F#32 from zeros_eq (by decide +kernel), show zeros 0x7813A99F#32 = 0xB96D2452#32 from zeros_eq (by decide +kernel),
    show zeros 0xB96D2452#32 = 0x87363433#32 from zeros_eq (by decide +kernel), show zeros 0x87363433#32 = 0xC82173F8#32 from zeros_eq (by decide +kernel)]
  decide +kernel

theorem hyp_LinkCommandsComplete :
    peerOf (pair ready) 0 = some (0, 1) ∧ alive (pair ready) = true ∧ portUp (pair ready) 0 = true ∧ { flit 0 with fecOk := false }.fecOk = false ∧
    Flit.crcOk (flit 0x100000000#64) = false ∧ Flit.crcOk (flit 0x7D28FBB300000000#64) = true ∧ Flit.idle (flit 0x7D28FBB300000000#64) = false ∧
    (let t := (Flit.symbols (flit 0x7D28FBB300000000#64)).foldl (fun s w => takeSymbol 0 0 1 w s) (ackFlits 0 0 (count (portCtr 0 2) 0 (pair ready)))
     Flit.seq (flit 0x7D28FBB300000000#64) = (portAt t 0).rxExp) ∧
    Flit.crcOk (flit 0x37DE8C0700000100#64) = true ∧ Flit.idle (flit 0x37DE8C0700000100#64) = true ∧
    (let t := (Flit.symbols (flit 0x37DE8C0700000100#64)).foldl (fun s w => takeSymbol 0 0 1 w s) (ackFlits 0 0 (count (portCtr 0 2) 0 (pair ready)))
     (portAt t 0).naking = false) ∧
    (let t := (Flit.symbols (flit 0x37DE8C0700000100#64)).foldl (fun s w => takeSymbol 0 0 1 w s)
       (ackFlits 0 0 (count (portCtr 0 2) 0 (withPort fun x => { x with naking := true })))
     (portAt t 0).naking = true) ∧
    (let t := (Flit.symbols (flit 0x7D28FBB300000000#64)).foldl (fun s w => takeSymbol 0 0 1 w s)
       (ackFlits 0 0 (count (portCtr 0 2) 0 (withPort fun x => { x with rxExp := 1 })))
     Flit.seq (flit 0x7D28FBB300000000#64) ≠ (portAt t 0).rxExp) ∧
    (portAt (withPort fun x => { x with replay := [{ seq := 2047, vc := 0, syms := [], data := [] }] }) 0).replay ≠ [] ∧
    (portAt (withPort fun x => { x with state := .training }) 0).state = .training ∧
    identityOk (withPort fun x => { x with state := .training }) 0 1 (BitVec.ofNat 64 (2 ^ 50 + 2 ^ 42)) = true ∧
    identityOk (withPort fun x => { x with state := .training }) 0 1 0 = false ∧ (RetrainCause.fecLoss ≠ .replays) ∧
    (portAt (withPort fun x => { x with state := .retrain }) 0).state = .retrain ∧
    (portAt (withPort fun x => { x with state := .retrain, retrainAt := some 0 }) 0).retrainAt = some 0 := by
  have z : Flit.crcOk (flit 0x100000000#64) = false := by
    rw [crcOk_flit, show (0x100000000#64).toNat % 2 ^ 32 = (0x7D28FBB300000000#64).toNat % 2 ^ 32 from rfl,
      show (flit 0x100000000#64).words = (flit 0x7D28FBB300000000#64).words from rfl, test_crc_data]
    decide +kernel
  have d : Flit.crcOk (flit 0x7D28FBB300000000#64) = true := by
    rw [crcOk_flit, test_crc_data]
    decide +kernel
  have i : Flit.crcOk (flit 0x37DE8C0700000100#64) = true := by
    rw [crcOk_flit, test_crc_idle]
    decide +kernel
  refine ⟨by decide +kernel, by decide +kernel, by decide +kernel, by decide +kernel, z, d, ?_, ?_, i, ?_, ?_, ?_, ?_, ?_, ?_, ?_, ?_, ?_, ?_, ?_⟩ <;>
    decide +kernel

/-- Device 1 of a pair under LOCKED alignment: its root is device 0. -/
def locked : State :=
  { withPort id with
    act := { (pair ready).act with topo := { (pair ready).act.topo with x0 := 1 }, timeMode := 1 }
    fab := { (withPort id).fab with syncEn := true } }

theorem hyp_TimeExchangesComplete :
    alive locked = true ∧ parent locked = some (0, 0) ∧ disciplined locked = true ∧ locked.act.timeMode = 1 ∧ locked.fab.syncEn = true ∧
    (portTo locked 0 0).isSome = true ∧ { locked.clk with awaiting := some 8 }.awaiting = some 8 ∧ isRoot locked = false := by decide +kernel

/-- A step is open; the vote frozen and fixed or not. -/
def opened (frozen fixed : Bool) : State :=
  { ready with upd := { ready.upd with
    seed := some 0
    step := some
      { num := 9, graph := 0, votePending := false, frozen := frozen, stepBit := false, slotBits := 0, skipped := false, precision := false,
        fixed := fixed, decided := fixed, recording := none, replaying := none, mismatch := false, digests := [], errCrc := 0, layersSeen := [],
        slotsSeen := [], aborted := false } } }

/-- A record of a step with placement ID `placed.id` at host address 0x8000. -/
def recorded : State :=
  { running with host := cellsAt 0x8000 ([0x75, 0, 1, 0] ++ leBytes 4 0x53544550 ++ leBytes 8 4 ++ leBytes 8 placed.id.toNat ++ leBytes 8 77) }

def noVotes : VoteFrame :=
  { step := 9, domainId := 0, mismatch := false, policyAnd := false, policyOr := false, stepBit := false, promote := 0, clean := 0, active := 0, slots := 0 }

theorem hyp_StepCommandsComplete :
    dueWith opStepBegin ⟨stepBeginCheck, stepBeginBody⟩ 1 (sdsc 0x52 9) ready (fun _ s0 => s0.upd.step.isNone) = true ∧
    dueWith opVote ⟨openStepCheck, voteBody⟩ 1 (sdsc 5 9) (opened false false) (fun c s0 => !updatesBefore (ringOf s0 1) c && s0.upd.step.isSome) = true ∧
    dueWith opVote ⟨openStepCheck, voteBody⟩ 1 (sdsc 5 9) (opened true false) (fun c s0 => !updatesBefore (ringOf s0 1) c && s0.upd.step.isSome) = true ∧
    dueWith opStepCommit ⟨openStepCheck, stepCommitBody⟩ 1 (sdsc 0x53 9) (opened false false)
      (fun c s0 => !updatesBefore (ringOf s0 1) c && s0.upd.step.isSome) = true ∧
    dueWith opStepCommit ⟨openStepCheck, stepCommitBody⟩ 1 (sdsc 0x53 9) (opened true true)
      (fun c s0 => !updatesBefore (ringOf s0 1) c && s0.upd.step.isSome) = true ∧
    dueWith opRecordStep ⟨recordCheck, recordBody⟩ 1 (sdsc 0x75 0x1000) ready (fun _ s0 => hostOk s0 0) = true ∧
    dueWith opReplay ⟨noCheck, replayBody⟩ 1 (sdsc 0x74 0x8000) recorded (fun _ s0 => hostOk s0 0 && s0.ple.placement == some placed &&
      hostNat s0 0x8002 2 == 1 && hostNat s0 0x8004 4 == 0x53544550 && hostW64 s0 0x8010 == placed.id) = true ∧
    alive (pair ready) = true ∧ frameCopy (oweArrived (portFrom (pair ready) 0 1) 0 130 (pair ready)) 0 1 noVotes = false ∧
    (let s : State := { pair ready with fab := { (pair ready).fab with frames := [(0, 1, noVotes)] } }
     alive s = true ∧ frameCopy (oweArrived (portFrom s 0 1) 0 130 s) 0 1 noVotes = true ∧ (portFrom s 0 1).isSome = true) := by decide +kernel


/-- A host buffer at 0x10000 with the image of one stage that a hint puts on die 1. -/
def hosted : State :=
  { ready with host := cellsAt 0x10000 (wordsBytes [0x4752414600010000, 0, 0x0000000100000000, 1, 96, 0, 0, 0, 0x0040000000000001, 0,
      0x4000004000000001, 0]) }

/-- The same image loaded as graph 0 and placed. -/
def replacing : State :=
  { hosted with ple := { hosted.ple with
    images := [(0, imageOf hosted 0x10000)]
    placement := some { emptyPlacement [(0, imageOf hosted 0x10000)] with tables := placed.tables } } }

/-- Planning gives a placement whose report fits `n` bytes. -/
def planFits (s : State) (imgs : SMap Image) (n : Nat) : Bool :=
  match plan s imgs with | .ok p => decide (reportBytes p ≤ n) | .error _ => false

theorem hyp_PlacementCommandsComplete :
    hostOk hosted (ringOf hosted 0).context.toNat = true ∧
    dueWith opLoadGraph ⟨alignedCheck 2, loadGraphBody⟩ 0 (dsc 0x10 0x10000) hosted (fun _ s0 => hostOk s0 (ringOf s0 0).context.toNat &&
      imgWhole s0 0x10000 && imageReason (imageOf s0 0x10000) (s0.ple.images.map (·.2)) == 0 && freeHandle s0 == some 0) = true ∧
    dueWith opPlace ⟨noCheck, placeBody⟩ 0 (dsc 0x11 0x20000 64) ready (fun _ s0 => planFits s0 (loadedImages s0) 64) = true ∧
    dueWith opPlace ⟨noCheck, placeBody⟩ 0 (dsc 0x11 0x20000 4096) replacing (fun _ s0 => planFits s0 (loadedImages s0) 4096) = true ∧
    dueWith opReplace ⟨alignedCheck 2, replaceBody⟩ 0 (dsc 0x12 0x10000 4096 0x20000) replacing (fun _ s0 =>
      s0.ple.placement.isSome && (SMap.find s0.ple.images 0).isSome && imgWhole s0 0x10000 &&
        imageReason (imageOf s0 0x10000) ((s0.ple.images.filter fun p => p.1 != 0).map (·.2)) == 0 &&
        (match SMap.find s0.ple.images 0 with | some old => (imageOf s0 0x10000).sameBut old | none => false) &&
        (SMap.find (s0.ple.next.getD (inForce s0)) 0).isSome && planFits s0 (SMap.put (s0.ple.next.getD (inForce s0)) 0 (imageOf s0 0x10000)) 4096) = true ∧
    dueWith opPin ⟨pinCheck, pinBody⟩ 0 (dsc 0x13 0x00001E0000000000 0 1) replacing always = true ∧
    dueWith opUnloadGraph ⟨noCheck, unloadBody⟩ 0 (dsc 0x14 0) { replacing with ple := { replacing.ple with placement := none } }
      (fun _ s0 => (SMap.find s0.ple.images 0).isSome && (SMap.find (s0.ple.next.getD (inForce s0)) 0).isNone) = true ∧
    dueWith opUnloadGraph ⟨noCheck, unloadBody⟩ 0 (dsc 0x14 0) replacing (fun _ s0 => (SMap.find s0.ple.images 0).isSome &&
      planFits { s0 with ple := { s0.ple with images := SMap.del s0.ple.images 0 } } (SMap.del (s0.ple.next.getD (inForce s0)) 0) 64) = true := by
  decide +kernel

/-- A step is open on the placed graph; its layer has a gradient and a plain rule, its table a rule of its own. -/
def stepping : State :=
  { running with
    host := cellsAt 0x10000 (wordsBytes [0, 0, 0x3F800000, 0, 0, 0x3F800000, 0, 0x80])
    upd := { (opened false false).upd with
      gradGot := [7], sched := [(0, BitVec.ofNat 512 (2 ^ 455))]
      rules := [(1, some (BitVec.ofNat 512 (2 ^ 511))), (8, some (BitVec.ofNat 512 (2 ^ 511 + 8)))] } }

/-- The inverse root of a block of layer 7 is due, or being computed. -/
def rooted (b : Bool) : State :=
  { stepping with upd := { stepping.upd with
    roots := [(0, [{ factor := 0, after := 0, n := 1, input := [fOne], started := b, result := none }])] } }

theorem hyp_UpdateCommandsComplete :
    dueWith opUpdateLayer ⟨updateCheck, updateBody⟩ 1 (sdsc 0x50 0x0007000000000000) stepping (fun _ s0 =>
      match layerEnt s0 7, layerPl s0 7, ruleFor s0 1 false (ouvutLayer s0 7) with
      | some l, some p, .ok d => l.rule == some 1 && !luesGone s0 p && !layerPoison s0 d l p && Rule.code d != 4
      | _, _, _ => false) = true ∧
    dueWith opRowUpdate ⟨rowCheck, rowBody⟩ 1 (sdsc 0x51 0x00001E0000000000 31) stepping (fun c s0 =>
      match tabOf s0 30, ruleFor s0 8 true (ouvutStage s0 3) with
      | some b, .ok _ =>
        let beat := cmdBeat s0 (ringOf s0 1) c
        b.rule == some 8 && !unitsGone s0 3 [operand 31] beat &&
          !((List.range (stageReplicas s0 3)).any fun rep => listPoison s0 (operand 31) 8 beat rep (listLength s0 (operand 31))) &&
          !logFull s0 b (ownRows s0 b ((List.range (stageReplicas s0 3)).map (rowItems s0 (ringOf s0 1) c b)).flatten)
      | _, _ => false) = true ∧
    dueWith opScheduleSet ⟨scheduleCheck, scheduleBody⟩ 0 (dsc 0x54 (63 <<< 58) 0x10000) stepping (fun _ s0 =>
      hostOk s0 (ringOf s0 0).context.toNat && schedOk (BitVec.ofNat 512 (leNat (hostRead s0 0x10000 64)))) = true ∧
    dueWith opScheduleSet ⟨scheduleCheck, scheduleBody⟩ 0 (dsc 0x54 (63 <<< 58) 0x20000) stepping (fun _ s0 =>
      hostOk s0 (ringOf s0 0).context.toNat && !schedOk (BitVec.ofNat 512 (leNat (hostRead s0 0x20000 64)))) = true ∧
    dueWith opScheduleSet ⟨scheduleCheck, scheduleBody⟩ 0 (dsc 0x54 (63 <<< 58 ||| 1 <<< 57) 0x3F800000) stepping (fun _ _ =>
      posFinite 0x3F800000) = true ∧
    dueWith opScheduleSet ⟨scheduleCheck, scheduleBody⟩ 0 (dsc 0x54 (63 <<< 58 ||| 1 <<< 57) 0xBF800000) stepping (fun _ _ =>
      !posFinite 0xBF800000) = true := by decide +kernel

theorem hyp_InverseRootsComplete :
    (rootAt (rooted false) 7 0 0).isSome = true ∧ ((rootAt (rooted false) 7 0 0).map (·.2.started)) = some false ∧ alive (rooted false) = true ∧
    (rooted false).upd.rootsEn = true ∧ { (rooted false).upd with rootsEn := false }.rootsEn = false ∧
    ((rootAt (rooted true) 7 0 0).map (·.2.started)) = some true ∧ (layerRule (rooted true) 7).isSome = true := by decide +kernel

/-- A recipe in host memory whose every bound is rung 4. -/
def recipes : State :=
  { stepping with
    host := cellsAt 0x10000 (wordsBytes [0, 0, 0x0092000000000100, 0, 0, 1, 0, 0x8000000000000000]) }

theorem hyp_RecordsComplete :
    hostOk recipes (ringOf recipes 0).context.toNat = true ∧ hostOk recipes (ringOf recipes 1).context.toNat = true ∧
    dueWith opSetRecipe ⟨noCheck, setRecipeBody⟩ 0 (dsc 0x60 0xFFFC000000000000 0x10000) recipes
      (fun _ s0 => recipeOk (hostBlock s0 0x10000)) = true ∧
    dueWith opReadStats ⟨noCheck, readStatsBody⟩ 0 (dsc 0x61 0x20000 0x8000000000000010 0x0000000200000000) recipes always = true ∧
    dueWith opShadowCfg ⟨shadowCheckCfg, shadowCfgBody⟩ 0 (dsc 0x62 0x0007000000000010) recipes always = true ∧
    dueWith opDigest ⟨digestCheck, digestBody⟩ 1 (sdsc 0x70 0x0000000100000015 0x20000) recipes
      (fun c s0 => !unitsGone s0 3 [operand 0x0000000100000015] (cmdBeat s0 (ringOf s0 1) c)) = true ∧
    dueWith opDump ⟨dumpCheck, dumpBody⟩ 1 (sdsc 0x71 0x0000150000000000 0 0x20000 4096) recipes
      (fun c s0 => !unitsGone s0 3 [wholeTensor 21] (cmdBeat s0 (ringOf s0 1) c)) = true := by decide +kernel

theorem hyp_EngineCommandsComplete :
    serving running = true ∧ tileOn running 319 = true ∧ isCondemned running 0 319 = false ∧
    (let ws : List Weights := (SMap.get running.tiles.weights 7 []).map fun w => { w with form := { fp32 with fmt := 15 }, tables := false }
     let s : State := { running with tiles := { running.tiles with weights := [(7, ws)] } }
     alive s = true ∧ buildNext (SMap.get s.tiles.weights 7 []) = some 0 ∧ (layerEnt s 7).isSome = true) ∧
    (let x : Capture := { layer := 7, role := 0, tile := 5, recipe := 0, rung := 0, bytes := 8, rows := [[fOne]], cols := [[fOne]], ys := [fOne] }
     let s : State := { running with prc := { running.prc with captures := [x] } }
     serving s = true ∧ (s.prc.captures.find? fun c => c.tile == 5) = some x ∧
       (shadowResult (fp16.decode (Recipe.shadowTol (recipeAt s 0))) x.ys (shadowRef x)).1 ≠ 15 ∧
       (shadowResult (fp16.decode (Recipe.shadowTol (recipeAt s 0))) [fZero] (shadowRef x)).1 = 15) ∧
    (let s : State := { running with ple := { running.ple with
       copies := [{ table := 30, page := 0, dirty := false, complete := false }]
       dir := [(dirKey 30 0, { far := false, pinned := false, tries := 0, hold := 0, page := 0, home := 0, acc := 0, farSlot := 0, nearSlot := 0 })] } }
     alive s = true ∧ ((s.ple.copies.find? fun c => c.table == 30 && c.page == 0 && !c.complete).isSome) = true ∧
       (SMap.find s.ple.dir (dirKey 30 0)).isSome = true) := by decide +kernel

/-- "No operand". -/
def no : W64 := 0xFFFFFFFF

/-- Rows to work on, units in service, a replica without poison. -/
def worksOn (gone : State → Bool) (i : Instn) (reads : List (Operand × Nat)) (n : Nat) (s0 : State) : Bool :=
  let u := reads.foldl (fun s x => touchOperand i.stage x.1 i.beat x.2 s) s0
  i.rows != 0 && i.cols != 0 && !gone u &&
    !(i.reps.filter fun rep => !(badReps s0 i reads (layerRung s0 i.layer) n).contains rep).isEmpty &&
    !(i.reps.filter fun rep => !(badReps u i reads (layerRung s0 i.layer) n).contains rep).isEmpty

/-- The same on the array's units: a tile whose error ends the command alone is no unit that is gone. -/
def arrayWorks (i : Instn) (reads : List (Operand × Nat)) (n : Nat) (s0 : State) : Bool :=
  worksOn (fun u => arrayGone u i.stage (i.out :: reads.map (·.1)) i.beat) i reads n s0

/-- The same on the XU, which also reads or writes `also`. -/
def works (i : Instn) (also reads : List (Operand × Nat)) (n : Nat) (s0 : State) : Bool :=
  worksOn (fun u => unitsGone u i.stage (i.out :: (also ++ reads).map (·.1)) i.beat) i reads n s0

/-- The same for MATMUL and MATVEC, whose layer has weights that are not poisoned. -/
def matWorks (c : Cmd) (s0 : State) : Bool :=
  let i := matInst s0 (ringOf s0 1) c
  arrayWorks i (matReads s0 (ringOf s0 1) c) i.storedRows s0 && !tablesMissing s0 c.desc i.beat &&
    match weightsOf s0 i.layer i.beat with | some w => !w.poisoned | none => false

theorem hyp_MatrixInstructionsComplete :
    dueWith opMatmul ⟨matCheck false, matBody⟩ 1 (sdsc 0x20 21 no no 22 0x0007000000020000) running matWorks = true ∧
    dueWith opMatvec ⟨matCheck true, matBody⟩ 1 (sdsc 0x21 21 no no 22 0x0007000000010000) running matWorks = true ∧
    dueWith opAttend ⟨attendCheck, attendBody⟩ 1 (sdsc 0x28 21 21 21 22 0x0007000000010100 1) running (fun c s0 =>
      arrayWorks (attendInst s0 (ringOf s0 1) c) (attendReads c.desc) (attendInst s0 (ringOf s0 1) c).rows s0) = true := by decide +kernel

theorem hyp_VectorInstructionsComplete :
    dueWith opLoadWeights ⟨loadCheck, loadBody⟩ 1 (sdsc 0x2A 0x10000 0 0 0 0x0007000000000000 128) running (fun _ s0 =>
      (layerEnt s0 7).isSome && hostOk s0 (ringOf s0 1).context.toNat && !condemnedTile s0 3) = true ∧
    dueWith opElemwise ⟨elemCheck, elemBody⟩ 1 (sdsc 0x25 21 21 no 22 0x0007000000020000) running (fun c s0 =>
      works (xuInst s0 (ringOf s0 1) c (Desc.rows c.desc)) (elemAlso c.desc) (elemReads c.desc) (Desc.rows c.desc) s0) = true ∧
    dueWith opNorm ⟨normCheck, normBody⟩ 1 (sdsc 0x26 21 no no 22 0x0007000000024000) running (fun c s0 =>
      works (xuInst s0 (ringOf s0 1) c (Desc.rows c.desc)) (normAlso c.desc) (normReads c.desc) (Desc.rows c.desc) s0 &&
        !weightsBad s0 (xuInst s0 (ringOf s0 1) c (Desc.rows c.desc))) = true ∧
    dueWith opSoftmax ⟨softmaxCheck, softmaxBody⟩ 1 (sdsc 0x27 21 no no 22 0x0007000000020000) running (fun c s0 =>
      works (xuInst s0 (ringOf s0 1) c (Desc.rows c.desc)) [] (softmaxReads c.desc) (Desc.rows c.desc) s0) = true ∧
    dueWith opConvert ⟨convertCheck, convertBody⟩ 1 (sdsc 0x29 21 no no 22 0x0007000000020000) running (fun c s0 =>
      works (xuInst s0 (ringOf s0 1) c (Desc.rows c.desc)) [] [(operand 21, Desc.rows c.desc)] (Desc.rows c.desc) s0) = true := by decide +kernel

/-- One bag or more, units in service. -/
def bagsRun (seed : State → Desc → Nat) (c : Cmd) (s0 : State) : Bool :=
  match tabOf s0 30 with
  | some b =>
    let x := embRun s0 (ringOf s0 1) c b (seed s0 c.desc)
    embTable c.desc == 30 && embBags c.desc != 0 &&
      !unitsGone s0 x.stage ([operand c.desc.w3, operand c.desc.w5] ++ (embWeights c.desc).toList) x.beat
  | none => false

theorem hyp_EmbeddingInstructionsComplete :
    dueWith opEmbGather ⟨embCheck false (fun _ => 0), embBody false (fun s d => operandTensor s (operand d.w5)) gatherRep⟩ 1
      (sdsc 0x22 0x00001E0000000000 31 no 32 (1 <<< 39)) running (bagsRun fun s d => operandTensor s (operand d.w5)) = true ∧
    dueWith opEmbPool ⟨embCheck false embBags, embBody false (fun s d => operandTensor s (operand d.w5)) poolRep⟩ 1
      (sdsc 0x23 0x00001E0000000000 31 no 32 (2 <<< 39)) running (bagsRun fun s d => operandTensor s (operand d.w5)) = true ∧
    dueWith opEmbScatter ⟨embCheck true embBags, embBody true (fun _ d => bits d.w7 23 0) scatterRep⟩ 1
      (sdsc 0x24 0x00001E0000000000 31 no 32 (2 <<< 39) 33) running (bagsRun fun _ d => bits d.w7 23 0) = true := by decide +kernel

/-- A running pair with group 63 over both, and the shard map of its one layer at host address 0x10000. -/
def grouped : State :=
  { pair running with
    host := cellsAt 0x10000 (wordsBytes [0x0007000000004000, 4])
    act := { (pair running).act with groups := [(63, 0x8300000040040080)] } }

theorem hyp_FabricCommandsComplete :
    dueWith opCopy ⟨copyCheck, copyBody⟩ 0 (dsc 0x40 0x10000 0x20000 16) grouped (fun c s0 =>
      !Desc.remote c.desc && hostOk s0 (ringOf s0 0).context.toNat && !spaceLost s0 0 c.desc.w2 && !spaceLost s0 0 c.desc.w3) = true ∧
    dueWith opCopy ⟨copyCheck, copyBody⟩ 0 (dsc 0x40 (21 <<< 40) (22 <<< 40) 0x5000000000000010) grouped (fun c s0 =>
      !Desc.remote c.desc && Desc.srcSpace c.desc != 0 && Desc.dstSpace c.desc != 0 && !spaceLost s0 1 c.desc.w2 &&
        !spaceLost s0 1 c.desc.w3) = true ∧
    dueWith opCopy ⟨copyCheck, copyBody⟩ 0 (dsc 0x40 0x10000 (22 <<< 40) 0x1802000000000010) grouped (fun c s0 =>
      Desc.remote c.desc && Desc.copyDevice c.desc == 1 && hostOk s0 (ringOf s0 0).context.toNat && !spaceLost s0 0 c.desc.w2) = true ∧
    dueWith opGatherParams ⟨gatherCheck, gatherBody⟩ 1 (sdsc 0x41 0x0007000000000000 0) grouped (fun _ s0 =>
      (layerEnt s0 7).isSome && !condemnedTile s0 3 && (layerPl s0 7).isSome) = true ∧
    dueWith opSend ⟨sendCheck, sendBody⟩ 1 (sdsc 0x44 21 0x0058000000000001 128) grouped always = true ∧
    dueWith opRecv ⟨sendCheck, recvBody⟩ 1 (sdsc 0x45 21 0x0060000000000001 128) grouped
      (fun c s0 => !lostOperand s0 (operand 21) (cmdBeat s0 (ringOf s0 1) c) 0) = true ∧
    dueWith opReduceScatter ⟨reduceCheck, reduceBody⟩ 1 (sdsc 0x42 23 0x10000 0x0001FC0000000000) grouped (fun c s0 =>
      hostOk s0 (ringOf s0 1).context.toNat && !lostOperand s0 (operand 23) (cmdBeat s0 (ringOf s0 1) c) 0) = true ∧
    dueWith opAllToAll ⟨a2aCheck, a2aBody⟩ 1 (sdsc 0x43 21 32 0x0001FC0000000000) grouped (fun c s0 =>
      let beat := cmdBeat s0 (ringOf s0 1) c
      !lostOperand s0 (operand 21) beat 0 && !lostOperand s0 (operand 32) beat 0 &&
        match locate s0 (operand 21) beat 0 none with | some l => (locate s0 (operand 32) beat 0 (some l.form)).isSome | none => false) = true := by
  decide +kernel

/-- A message of one flit from device 1 to `dst`. -/
def message (dst : Nat) (i : W32) : Message :=
  { kind := 4, hop := 0, group := 0, src := 1, dst := dst, tensor := 0, first := 0, step := 0, scaleGen := 0, cmd := 1, msgIndex := i, vc := 3,
    count := 0, body := [], escapes := [] }

/-- A lattice of two by two. -/
def square : State :=
  { pair ready with act := { (pair ready).act with topo := { (pair ready).act.topo with d1 := 2 } } }

theorem hyp_MessagesComplete :
    alive square = true ∧ portUp square 0 = true ∧ peerOf square 0 = some (0, 1) ∧
    (let t := oweSlots 0 3 false 1 square
     3 ≠ myDevice t ∧ coordOf t 3 0 ≠ latCoord t 0 ∧ 2 ≠ myDevice t ∧ coordOf t 2 0 = latCoord t 0) ∧
    (let m := message 0 0
     let s : State := { square with fab := { square.fab with marks := [(markKey m, 1)] } }
     let t := oweSlots 0 3 false (msgSlots m) s
     m.dst = myDevice t ∧ m.msgIndex.toNat < SMap.get t.fab.marks (markKey m) 0) ∧
    (let m := message 0 1
     let t := oweSlots 0 3 false (msgSlots m) square
     m.dst = myDevice t ∧ SMap.get t.fab.marks (markKey m) 0 ≤ m.msgIndex.toNat ∧ m.msgIndex ≠ 0) := by decide +kernel

theorem ready_orderly : Orderly ready := ⟨by decide +kernel, by decide +kernel, by decide +kernel⟩

theorem hyp_EveryCommandAnswers : Orderly ready := ready_orderly

theorem hyp_EveryStepKeepsOrder : ∃ t, Orderly { ready with pending := [.fabricReady] } ∧ step { ready with pending := [.fabricReady] } = .next t :=
  ⟨_, ready_orderly, rfl⟩

theorem hyp_FusesOnlyRiseRollback : ∃ t, Orderly { ready with pending := [] } ∧ step { ready with pending := [] } = .next t :=
  ⟨_, ready_orderly, rfl⟩

theorem hyp_CommandFrames : ∃ t, Orderly ready ∧ exec (.nop 0 (dsc 0)) ready = .next t ∧ mayApplyGroups (.nop 0 (dsc 0)) = false ∧
    mayWriteDevice (.nop 0 (dsc 0)) = false ∧ mayMoveTime (.nop 0 (dsc 0)) = false := ⟨_, ready_orderly, rfl, rfl, rfl, rfl⟩

theorem hyp_MemoriesSpared : ∃ t, exec .fabricReady ready = .next t ∧ sparesMemory .fabricReady = true := ⟨_, rfl, rfl⟩

/-- The well-formedness checks: a ring's number, the opcode of a row, the OP of a trace control, a store's address, a peer's coordinate
and dimension, a clock domain's code, each field of a message, and the ranges that single rows check. -/
theorem test_wf_ring : Instr.wf (.ringDisabled (2 ^ 20 - 1)) = true ∧ Instr.wf (.ringDisabled (2 ^ 20)) = false := by decide
theorem test_wf_desc : Instr.wf (.nop 0 (dsc 0)) = true ∧ Instr.wf (.nop 0 (dsc 1)) = false ∧ Instr.wf (.nop (2 ^ 20) (dsc 0)) = false := by
  decide
theorem test_wf_trace : Instr.wf (.traceStop 0 (traceDsc 2)) = true ∧ Instr.wf (.traceStop 0 (traceDsc 1)) = false := by decide
theorem test_wf_stores : Instr.wf (.eventRingHeadUpdate [(2 ^ 64 - 1, 1)]) = true ∧ Instr.wf (.eventRingHeadUpdate [(2 ^ 64, 1)]) = false := by
  decide
theorem test_wf_peer : Instr.wf (.doneSymbolReceive 2 32 0) = true ∧ Instr.wf (.doneSymbolReceive 3 0 0) = false ∧
    Instr.wf (.doneSymbolReceive 0 33 0) = false := by decide
theorem test_wf_domain : Instr.wf (.forcedPath 10) = true ∧ Instr.wf (.forcedPath 11) = false ∧ Instr.wf (.forcedPath 16) = true ∧
    Instr.wf (.forcedPath 32) = false := by decide
theorem test_wf_message :
    Instr.wf (.messageReceive 0 (message 0 0)) = true ∧ Instr.wf (.messageReceive 32 (message 0 0)) = false ∧
    Instr.wf (.messageReceive 0 (message 1024 0)) = false ∧ Instr.wf (.messageReceive 0 { message 0 0 with src := 1024 }) = false ∧
    Instr.wf (.messageReceive 0 { message 0 0 with kind := 256 }) = false ∧ Instr.wf (.messageReceive 0 { message 0 0 with hop := 4 }) = false ∧
    Instr.wf (.messageReceive 0 { message 0 0 with group := 64 }) = false ∧ Instr.wf (.messageReceive 0 { message 0 0 with vc := 8 }) = false ∧
    Instr.wf (.messageReceive 0 { message 0 0 with tensor := 2 ^ 24 }) = false := by decide
theorem test_wf_units :
    Instr.wf (.migrate (2 ^ 24) 0) = false ∧ Instr.wf (.doneForward 3) = false ∧ Instr.wf (.shadowCheck 320) = false ∧
    Instr.wf (.arrayPassStart 320 0 ⟨false, []⟩ 0 .none) = false ∧ Instr.wf (.productTableBuild (2 ^ 16)) = false ∧
    Instr.wf (.rootComputeStart 0 0 2) = false ∧ Instr.wf (.rootComputeDone (2 ^ 16) 0 0) = false ∧
    Instr.wf (.stagingLogWriteback (2 ^ 24) 0) = false ∧ Instr.wf (.nearScrubPass 1024 0 .clean) = false ∧
    Instr.wf (.farScrubPass 64 0 .clean) = false := by decide
theorem test_wf_host :
    Instr.wf (.doorbellL1Invalidate 4 []) = false ∧ Instr.wf (.cqHeadUpdate 40960 []) = false ∧ Instr.wf (.cmtGroupApply 13) = false ∧
    Instr.wf (.registerWrite (2 ^ 26) 4 0) = false ∧ Instr.wf (.mbxSend 16 0) = false ∧ Instr.wf (.mbxRecv 15) = false ∧
    Instr.wf (.mbxRecv 32) = false ∧ Instr.wf (.ping 16) = false ∧ Instr.wf (.evcArmLine 4 []) = false ∧
    Instr.wf (.vectorModTimeout 2048) = false ∧ Instr.wf (.msixUnmask 2048) = false ∧ Instr.wf (.traceDrain 513) = false := by decide
theorem test_wf_links :
    Instr.wf (.flitReceive 0 { flit 0 with words := [] }) = false ∧ Instr.wf (.replayTimeout 32) = false ∧
    Instr.wf (.remoteSignalReceive 1024 0 0 0 0) = false ∧ Instr.wf (.remoteSignalAnswer 1024 0 0 true) = false ∧
    Instr.wf (.hostWindowAccess true (2 ^ 42) [0]) = false ∧ Instr.wf (.atsInvalidation (2 ^ 64) 1) = false ∧
    Instr.wf (.watchdogExpiry 8) = false ∧ Instr.wf (.pwrFail false false) = false ∧ Instr.wf (.memTrainingDone [16] []) = false ∧
    Instr.wf (.memTrainingDone [] [64]) = false ∧ Instr.wf (.cxlLinkTrained 3 32 true) = false ∧ Instr.wf (.ideKmKey 256 0 0) = false := by
  decide

/-- Expected values from the standards that the manual names: the check value of CRC-32C and the digest of no bytes. -/
theorem test_crc32c_check : crc32c (leBytes 9 0x393837363534333231) = 0xE3069283 := by decide +kernel
theorem test_sha256_empty :
    sha256 [] = beBytes 32 0xE3B0C44298FC1C149AFBF4C8996FB92427AE41E4649B934CA495991B7852B855 := by decide +kernel

/-- Round to nearest, ties to even: 1 + 2^-24 and (1 + 2^-23) + 2^-24. -/
theorem test_add_ties_even :
    fadd 0x3F800000 0x33800000 = 0x3F800000 ∧ fadd 0x3F800001 0x33800000 = 0x3F800002 := by decide +kernel

/-- An empty queue: the time base advances by 320 units in coarse mode (14 R405). -/
theorem test_idle_step : ∃ t, step ready = .next t ∧ t.clk.count = ready.clk.count + 320 := by
  refine ⟨_, rfl, ?_⟩
  decide +kernel

/-- A read of an RWS register returns the active value, and the pending one under READ_PENDING (12 Table 12.9). -/
theorem test_read_rws : ∃ t, exec (.registerWrite 0x70010 4 100) ready = .next t ∧
    (readFour t 0x70010).1 = (readFour ready 0x70010).1 ∧
    (readFour { t with cmt := { t.cmt with readPending := true } } 0x70010).1 = 100 := by
  refine ⟨_, rfl, ?_⟩
  decide +kernel

/-- A WO register reads 0, and so does an offset of no register (00 R8, 12 R360). -/
theorem test_read_zero : readEight ready 0x50000 = 0 ∧ readEight ready 0xF0000 = 0 := by decide +kernel

/-- The low word of a counter of 64 bits latches its high word (02 R58). -/
theorem test_read_latch :
    let s : State := { ready with tkc := { ready.tkc with tick := 0x100000002 } }
    readFour s 0x70030 = (2, some (0x70030, 1)) ∧
      (readFour { ready with glb := { ready.glb with latch := some (0x70030, 1) } } 0x70034).1 = 1 := by decide +kernel

theorem test_nop_ends : ∃ t, exec (.nop 0 (dsc 0)) ready = .next t ∧ (ringOf t 0).cmds.map (·.phase) = [.finished okResult] := by
  refine ⟨_, rfl, ?_⟩
  decide +kernel

end Sys2Proof.Tests
end

section
/-!
PROOF. The statements of the architecture family: how a due command of a ring ends by what its body does, the bodies of the step's
commands, of the exact unit, of LOAD_WEIGHTS and of the commands that move messages, and what a discarded step leaves.
-/
namespace Sys2Proof
open Machine

/-! ### A due command and its body -/

/-- The command of a due descriptor carries that descriptor. -/
theorem Due.desc_eq {op q : Nat} {m : Meaning} {d : Desc} {s s0 : State} {c : Cmd} (h : Due op m q d s c s0) : c.desc = d := by
  obtain ⟨⟨-, -, hoffer⟩, -, -⟩ := h
  exact offer_desc hoffer

/-- A due command that moves no messages leaves the phase that its body comes to, other than `waiting`. -/
theorem exec_of_body {i : Instr} {op q : Nat} {d : Desc} {m : Meaning} {s s0 t : State} {c : Cmd} {p : Phase}
    (hi : ringMeaning i = some (op, q, d, m)) (hm : movesMessages i = false) (h : Due op m q d s c s0)
    (hb : m.body q (ringOf s0 q) c s0 = (p, t)) (hp : p ≠ .waiting) : exec i s = .next (leaves q c p s0 t) := by
  rw [exec_of_ringMeaning hi, runCmd_of_body h hb hp, settled, hm, if_neg Bool.false_ne_true]

/-- After a due command that moves messages the fabric settles (09 R267). -/
theorem exec_of_fabric_body {i : Instr} {op q : Nat} {d : Desc} {m : Meaning} {s s0 t : State} {c : Cmd} {p : Phase}
    (hi : ringMeaning i = some (op, q, d, m)) (hm : movesMessages i = true) (h : Due op m q d s c s0)
    (hb : m.body q (ringOf s0 q) c s0 = (p, t)) (hp : p ≠ .waiting) : exec i s = .next (settleFab (leaves q c p s0 t)) := by
  rw [exec_of_ringMeaning hi, runCmd_of_body h hb hp, settled, if_pos hm]

/-! ### A step that ends discarded (01 R24, 08 R238) -/

/-- No slot's staged update is kept in a discarded step. -/
@[simp] theorem slotKept_discarded (slots : BitVec 16384) (slot : Nat) : slotKept true slots slot = false := rfl

/-- Marking the committed entries of a staging log as committed leaves them as they are. -/
theorem map_commit_filter_committed (log : List LogEntry) :
    (log.filter fun e => e.committed).map (fun e => { e with committed := true }) = log.filter fun e => e.committed := by
  refine (List.map_congr_left fun e he => ?_).trans (List.map_id _)
  have hc : e.committed = true := (List.mem_filter.mp he).2
  simp [← hc]

/-- Settling a discarded step drops what it staged and changes nothing else. -/
theorem settleUpdates_discarded (slots : BitVec 16384) (s : State) : settleUpdates true slots s = dropStaged s := by
  simp [settleUpdates, dropStaged, map_commit_filter_committed]

/-- Settles O52: a discarded step keeps no slot, so that settling it only drops what is staged. -/
theorem discardedStepKeepsParameters : Obligations.DiscardedStepKeepsParameters := by
  intro slots s
  rw [settleUpdates_discarded]
  exact ⟨rfl, rfl, rfl, rfl, rfl, rfl⟩

/-! ### The step's commands (01 R20-R25, 08 R242, R244) -/

theorem stepBeginBody_of_closed {s : State} (h : s.upd.step = none) (q : Nat) (r : Ring) (c : Cmd) :
    stepBeginBody q r c s =
      (.finished okResult, openStep r c (if s.upd.boundary = some c.order then s else boundaryIn c.beat c.desc.w2 s)) := by
  simp [stepBeginBody, h]

/-- A vote that waits for its guard band is noted in the open step. -/
theorem setVotePending_of_open {s : State} {o : OpenStep} (h : s.upd.step = some o) :
    setVotePending s = { s with upd := { s.upd with step := some { o with votePending := true } } } := by
  simp [setVotePending, h]

theorem voteBody_of_frozen {s : State} {o : OpenStep} {r : Ring} {c : Cmd} (hu : updatesBefore r c = false)
    (h : s.upd.step = some o) (hf : o.frozen = true) (q : Nat) : voteBody q r c s = (.finished okResult, s) := by
  simp [voteBody, hu, h, hf]

theorem voteBody_of_not_frozen {s : State} {o : OpenStep} {r : Ring} {c : Cmd} (hu : updatesBefore r c = false)
    (h : s.upd.step = some o) (hf : ¬o.frozen = true) (q : Nat) :
    voteBody q r c s =
      (.started (now s), { s with upd := { s.upd with step := some { o with votePending := true } } }) := by
  simp [voteBody, hu, h, hf, setVotePending_of_open h]

theorem stepCommitBody_of_fixed {s : State} {o : OpenStep} {r : Ring} {c : Cmd} (hu : updatesBefore r c = false)
    (h : s.upd.step = some o) (hf : o.fixed = true) (q : Nat) : stepCommitBody q r c s = (.committing okResult, s) := by
  simp [stepCommitBody, hu, h, hf]

theorem stepCommitBody_of_not_fixed {s : State} {o : OpenStep} {r : Ring} {c : Cmd} (hu : updatesBefore r c = false)
    (h : s.upd.step = some o) (hf : ¬o.fixed = true) (q : Nat) :
    stepCommitBody q r c s = (.started (now s),
      if o.frozen then s else { s with upd := { s.upd with step := some { o with votePending := true } } }) := by
  simp [stepCommitBody, hu, h, hf, setVotePending_of_open h]

theorem recordBody_of_hostOk {s : State} {r : Ring} (h : hostOk s r.context.toNat = true) (q : Nat) (c : Cmd) :
    recordBody q r c s = (.finished okResult, { s with upd := { s.upd with armed := some c.desc.w2 } }) := by
  simp [recordBody, h]

/-- REPLAY of a record of this layout that names the placement in force (08 R244). -/
theorem replayBody_of_record {s t : State} {r : Ring} {c : Cmd} {pl : Placement} (hh : hostOk s r.context.toNat = true)
    (hpl : s.ple.placement = some pl) (hver : hostNat s (c.desc.w2.toNat + 2) 2 = 1)
    (hmagic : hostNat s (c.desc.w2.toNat + 4) 4 = 0x53544550) (hid : hostW64 s (c.desc.w2.toNat + 16) = pl.id)
    (ht : t = loadStart c.desc.w2.toNat (loadDirectory c.desc.w3.toNat s)) (q : Nat) :
    replayBody q r c s = (.finished okResult, { t with upd := { t.upd with
      replay := some c.desc.w2, replaySeed := hostW64 t (c.desc.w2.toNat + 24)
      lastStep := hostW64 t (c.desc.w2.toNat + 8) - 1 } }) := by
  simp [replayBody, hh, hpl, hver, hmagic, hid, ht]

/-- A vote frame that is no copy joins the frames, and every round that has its frames starts (09 R283). -/
theorem voteFrameReceive_of_new {k y : Nat} {f : VoteFrame} {s t : State} (ha : alive s = true)
    (ht : t = oweArrived (portFrom s k y) 0 130 s) (hc : frameCopy t k y f = false) :
    voteFrameReceive k y f s = advanceVote 4 { t with fab := { t.fab with frames := t.fab.frames ++ [(k, y, f)] } } := by
  subst ht
  simp [voteFrameReceive, ha, hc]

/-- A copy of a vote frame is only counted, at the port it came by (09 R264). -/
theorem voteFrameReceive_of_copy {k y : Nat} {f : VoteFrame} {s t : State} {x : Nat × Bool} (ha : alive s = true)
    (ht : t = oweArrived (portFrom s k y) 0 130 s) (hc : frameCopy t k y f = true) (hx : portFrom s k y = some x) :
    voteFrameReceive k y f s = count (portCtr x.1 8) 1 t := by
  subst ht
  simp only [voteFrameReceive, ha, hc, Bool.not_true, Bool.false_eq_true, if_false, if_true]
  simp [hx]

/-- Settles O49: each command of the step by what its body does in the state that the clause describes. -/
theorem stepCommandsComplete : Obligations.StepCommandsComplete := by
  refine ⟨fun q d s s0 c => ⟨?stepBegin, ?vote, ?stepCommit, ?recordStep, ?replay⟩,
    fun k y f s t ha ht => ⟨fun hc => ?newFrame, fun x hc hx => ?copiedFrame⟩⟩
  case stepBegin =>
    intro h hstep
    exact h.desc_eq ▸ exec_of_body (i := .stepBegin q d) rfl rfl h (stepBeginBody_of_closed hstep q _ c) (by simp)
  case vote =>
    intro o h hu hstep
    split
    · next hf => exact exec_of_body (i := .vote q d) rfl rfl h (voteBody_of_frozen hu hstep hf q) (by simp)
    · next hf => exact exec_of_body (i := .vote q d) rfl rfl h (voteBody_of_not_frozen hu hstep hf q) (by simp)
  case stepCommit =>
    intro o h hu hstep
    split
    · next hf => exact exec_of_body (i := .stepCommit q d) rfl rfl h (stepCommitBody_of_fixed hu hstep hf q) (by simp)
    · next hf => exact exec_of_body (i := .stepCommit q d) rfl rfl h (stepCommitBody_of_not_fixed hu hstep hf q) (by simp)
  case recordStep =>
    intro h hh
    exact h.desc_eq ▸ exec_of_body (i := .recordStep q d) rfl rfl h (recordBody_of_hostOk hh q c) (by simp)
  case replay =>
    intro pl t h hh hpl hver hmagic hid ht
    obtain rfl := h.desc_eq
    exact exec_of_body (i := .replay q c.desc) rfl rfl h (replayBody_of_record hh hpl hver hmagic hid ht q) (by simp)
  case newFrame => exact congrArg Host.Outcome.next (voteFrameReceive_of_new ha ht hc)
  case copiedFrame => exact congrArg Host.Outcome.next (voteFrameReceive_of_copy ha ht hc hx)

/-! ### LOAD_WEIGHTS and the exact unit (11 R330, R332-R334) -/

/-- LOAD_WEIGHTS brings the bytes of its descriptor from host memory, not poisoned, for the beats from the next one on. -/
theorem loadedWeights_data (s : State) (d : Desc) (l : LayerEnt) :
    (loadedWeights s d l).data = hostRead s d.w2.toNat (bits d.w7 39 0) := rfl

theorem loadedWeights_from (s : State) (d : Desc) (l : LayerEnt) : (loadedWeights s d l).from_ = nextBeat s := rfl

theorem loadedWeights_poisoned (s : State) (d : Desc) (l : LayerEnt) : (loadedWeights s d l).poisoned = false := rfl

theorem loadBody_of_ready {s : State} {r : Ring} {c : Cmd} {l : LayerEnt} (hl : layerEnt s (Desc.layer c.desc) = some l)
    (hh : hostOk s r.context.toNat = true) (ht : condemnedTile s r.stage.toNat = false) (q : Nat) :
    loadBody q r c s = (.finished okResult, formDigest 0 l.weight (Desc.micro c.desc) (cmdBeat s r c)
      (loadedWeights s c.desc l).data (l.k * l.n) (addWeights l.layer (loadedWeights s c.desc l) s)) := by
  simp only [loadBody, hl, hh, ht, Bool.not_true, Bool.false_eq_true, if_false]

/-- A command of the exact unit with rows to work on, its units in service and a replica without poison: the poisoned replicas' rows are
poisoned, the others make their attempts, and it ends with their repeats. -/
theorem xuRun_of_works {i good : Instn} {reads also : List (Operand × Nat)} {wbad : Bool} {bad : List Nat} {s u p v : State}
    (hrows : i.rows ≠ 0) (hw : wbad = false) (hu : u = reads.foldl (fun s x => touchOperand i.stage x.1 i.beat x.2 s) s)
    (hgone : unitsGone u i.stage (i.out :: (also ++ reads).map (·.1)) i.beat = false)
    (hbad : bad = badReps s i reads (layerRung s i.layer) i.rows)
    (hgood : good = { i with reps := i.reps.filter fun rep => !bad.contains rep }) (hne : good.reps ≠ [])
    (hp : p = poisonAlso i bad also (poisonOut { i with reps := bad } (layerRung s i.layer) i.rows u))
    (hv : v = noteMissed i (layerRung s i.layer)
      (reads.any fun x => good.reps.any fun rep => operandMiss p x.1 i.beat rep x.2) p)
    {mk : Nat → List (List Outp)} {work more : Instn → State → State} {k : Kept × State}
    (hk : k = attempts good true (fun _ _ rep => xuOut (mk rep)) (fun _ _ rep _ s => work { good with reps := [rep] } s)
      (fun _ _ _ s => s) 6 (layerRung s i.layer) 0 v) :
    xuRun i reads also wbad mk work more s =
      (.finished (mkResult (if bad.isEmpty then stOk else stPoisoned) 0 (k.1.repeats * good.reps.length) 0), more good k.2) := by
  have hne' : good.reps.isEmpty = false := by simpa using hne
  subst hu hk hv hp hgood hbad hw
  simp only [xuRun, hrows, hgone, hne', Bool.false_eq_true, if_false]

/-- CONVERT in the same case: one conversion without repeats, its surplus in the flags. -/
theorem convertBody_of_works {i good : Instn} {r : Ring} {c : Cmd} {bad : List Nat} {s u p v : State} {k : Nat × State}
    (hi : i = xuInst s r c (Desc.rows c.desc)) (hrows : Desc.rows c.desc ≠ 0)
    (hu : u = touchOperand i.stage (operand c.desc.w2) i.beat (Desc.rows c.desc) s)
    (hgone : unitsGone u i.stage [i.out, operand c.desc.w2] i.beat = false)
    (hbad : bad = badReps s i [(operand c.desc.w2, Desc.rows c.desc)] (layerRung s i.layer) (Desc.rows c.desc))
    (hgood : good = { i with reps := i.reps.filter fun rep => !bad.contains rep }) (hne : good.reps ≠ [])
    (hp : p = poisonOut { i with reps := bad } (layerRung s i.layer) (Desc.rows c.desc) u)
    (hv : v = noteMissed i (layerRung s i.layer)
      (good.reps.any fun rep => operandMiss p (operand c.desc.w2) i.beat rep (Desc.rows c.desc)) p)
    (hk : k = convertRun c.desc good v) (q : Nat) :
    convertBody q r c s =
      (.finished (mkResult (if bad.isEmpty then stOk else stPoisoned) (if 0 < k.1 then flSurplus else 0) 0 0),
        countXu good 0 0 0 k.2) := by
  have hne' : good.reps.isEmpty = false := by simpa using hne
  subst hk hv hp hgood hbad hu hi
  simp only [convertBody, hrows, hgone, hne', Bool.false_eq_true, if_false]

/-- Settles O57: LOAD_WEIGHTS by its body; ELEMWISE, NORM and SOFTMAX as runs of the exact unit, CONVERT as its own. -/
theorem vectorInstructionsComplete : Obligations.VectorInstructionsComplete := by
  refine fun q d s s0 c => ⟨fun l h hl hh ht => ?load,
    fun i good reads also u p v bad wbad hi hrows hu hgone hw hbad hgood hne hp hv => ⟨?elemwise, ?norm, ?softmax, ?convert⟩⟩
  case load =>
    obtain rfl := h.desc_eq
    exact ⟨_, rfl, loadedWeights_data .., loadedWeights_from .., loadedWeights_poisoned ..,
      exec_of_body (i := .loadWeights q c.desc) rfl rfl h (loadBody_of_ready hl hh ht q) (by simp)⟩
  case elemwise =>
    rintro k rfl rfl hk h
    obtain rfl := h.desc_eq
    subst hi
    exact exec_of_body (i := .elemwise q c.desc) rfl rfl h (xuRun_of_works hrows rfl hu hgone hbad hgood hne hp hv hk) (by simp)
  case norm =>
    rintro k rfl rfl hwb hk h
    obtain rfl := h.desc_eq
    subst hi
    exact exec_of_body (i := .norm q c.desc) rfl rfl h
      (xuRun_of_works hrows (hwb.symm.trans hw) hu hgone hbad hgood hne hp hv hk) (by simp)
  case softmax =>
    rintro k rfl rfl hk h
    obtain rfl := h.desc_eq
    subst hi
    exact exec_of_body (i := .softmax q c.desc) rfl rfl h
      (xuRun_of_works (more := fun _ s => s) hrows rfl hu hgone hbad hgood hne hp hv hk) (by simp)
  case convert =>
    rintro k rfl rfl hk h
    obtain rfl := h.desc_eq
    subst hi
    exact exec_of_body (i := .convert q c.desc) rfl rfl h
      (convertBody_of_works rfl hrows hu hgone hbad hgood hne hp (by simpa using hv) hk q) (by simp)

/-! ### The commands that move messages (01 R27, 02 R51, 09 R277-R280, 11 R335) -/

/-- A COPY that leaves host memory alone, or whose access to it succeeds, does not end with ACCESS. -/
theorem copy_access_granted {s : State} {r : Ring} {d : Desc}
    (ha : (Desc.srcSpace d ≠ 0 ∧ Desc.dstSpace d ≠ 0) ∨ hostOk s r.context.toNat = true) :
    ¬((Desc.srcSpace d = 0 ∨ Desc.dstSpace d = 0) ∧ (!hostOk s r.context.toNat) = true) := by
  rintro ⟨h0, hh⟩
  rcases ha with ⟨hs, hd⟩ | ha
  · exact h0.elim hs hd
  · simp [ha] at hh

/-- A COPY inside the device moves its bytes on each replica in turn (02 R51). -/
theorem copyBody_of_local {s : State} {r : Ring} {c : Cmd} {a : Bool × State} (hr : Desc.remote c.desc = false)
    (ha : (Desc.srcSpace c.desc ≠ 0 ∧ Desc.dstSpace c.desc ≠ 0) ∨ hostOk s r.context.toNat = true)
    (hs : spaceLost s (Desc.srcSpace c.desc) c.desc.w2 = false)
    (hd : spaceLost s (Desc.dstSpace c.desc) c.desc.w3 = false)
    (hfold : a = (ringReplicas s r).foldl (copyLocal r c) (false, s)) (q : Nat) :
    copyBody q r c s = (.finished (dataResult a.1), a.2) := by
  subst hfold
  rw [copyBody, if_neg (copy_access_granted ha)]
  simp only [hr, hs, hd, Bool.not_false, Bool.and_false, Bool.or_false, Bool.false_eq_true, if_false]

/-- A COPY to another device sends its bytes from each replica in turn (02 R51). -/
theorem copyBody_of_remote {s : State} {r : Ring} {c : Cmd} (hr : Desc.remote c.desc = true)
    (ha : (Desc.srcSpace c.desc ≠ 0 ∧ Desc.dstSpace c.desc ≠ 0) ∨ hostOk s r.context.toNat = true)
    (hs : spaceLost s (Desc.srcSpace c.desc) c.desc.w2 = false) (q : Nat) :
    copyBody q r c s = (.started (now s), (ringReplicas s r).foldl (copyRemote q c) s) := by
  rw [copyBody, if_neg (copy_access_granted ha)]
  simp only [hr, hs, Bool.not_true, Bool.false_and, Bool.or_false, Bool.false_eq_true, if_false, if_true]

/-- GATHER_PARAMS asks the layer's owner; only one that brings working weights needs the stage's tiles (01 R27). -/
theorem gatherBody_of_placed {s : State} {c : Cmd} {l : LayerEnt} {p : LayerPl}
    (hl : layerEnt s (Desc.gatherLayer c.desc) = some l) (hp : layerPl s (Desc.gatherLayer c.desc) = some p)
    (ht : bit c.desc.w2 47 = true ∨ condemnedTile s l.stage = false) (q : Nat) (r : Ring) :
    gatherBody q r c s = (.started (now s), sendTo p.owner
      (ownMessage (nextCmd s).2 5 noGroup p.owner 0 0 (nextCmd s).1 0 2
        (mgmt mGatherAsk [(nextCmd s).1.toNat, Desc.gatherLayer c.desc, b2n (bit c.desc.w2 47), c.desc.w3.toNat]))
      (addTransfer (newTransfer q c 4 p.owner 2 (Desc.gatherLayer c.desc) (b2n (bit c.desc.w2 47)) c.desc.w3.toNat (nextCmd s).1)
        (nextCmd s).2)) := by
  have hg : (!bit c.desc.w2 47 && condemnedTile s l.stage) = false := by
    rcases ht with h | h <;> simp [h]
  simp only [gatherBody, hl, hp, hg, Bool.false_eq_true, if_false]

theorem recvBody_of_units {s : State} {r : Ring} {c : Cmd}
    (hlost : ((ringReplicas s r).any fun rep => lostOperand s (operand c.desc.w2) (cmdBeat s r c) rep) = false) (q : Nat) :
    recvBody q r c s = (.started (now s), (ringReplicas s r).foldl (recvStart q c (cmdBeat s r c)) s) := by
  simp only [recvBody, hlost, Bool.false_eq_true, if_false]

/-- REDUCE_SCATTER notes the slots of its shard map and starts on each replica in turn (02 R51). -/
theorem reduceBody_of_units {s : State} {r : Ring} {c : Cmd} (hh : hostOk s r.context.toNat = true)
    (hlost : ((List.range (stageReplicas s r.stage.toNat)).any fun rep =>
      lostOperand s (operand c.desc.w2) (cmdBeat s r c) rep) = false) (q : Nat) :
    reduceBody q r c s = (.started (now s), (List.range (stageReplicas s r.stage.toNat)).foldl
      (reduceStart q c (shardMap s c.desc.w3.toNat (Desc.entries c.desc))
        (operandRows s (operand c.desc.w2) - (operand c.desc.w2).first) (cmdBeat s r c))
      (noteShards (shardMap s c.desc.w3.toNat (Desc.entries c.desc)) s)) := by
  simp only [reduceBody, hh, hlost, Bool.not_true, Bool.false_eq_true, if_false]

theorem a2aBody_of_units {s : State} {r : Ring} {c : Cmd}
    (hlost : ((ringReplicas s r).any fun rep => [operand c.desc.w2, operand c.desc.w3].any fun o =>
      lostOperand s o (cmdBeat s r c) rep || (locate s o (cmdBeat s r c) rep none).isNone) = false) (q : Nat) :
    a2aBody q r c s = (.started (now s), (ringReplicas s r).foldl (a2aReplica q c (cmdBeat s r c)) s) := by
  simp only [a2aBody, hlost, Bool.false_eq_true, if_false]

/-- Settles O59: each command starts its transfers by its body, and then the fabric settles. -/
theorem fabricCommandsComplete : Obligations.FabricCommandsComplete := by
  rintro q d s s0 c _ rfl
  refine ⟨?copyLocal, ?copyRemote, ?gatherParams, ?send, ?recv, ?reduceScatter, ?allToAll⟩
  case copyLocal =>
    intro a h hr ha hs hd hfold
    obtain rfl := h.desc_eq
    exact exec_of_fabric_body (i := .copy q c.desc) rfl rfl h (copyBody_of_local hr ha hs hd hfold q) (by simp)
  case copyRemote =>
    intro h hr ha hs
    obtain rfl := h.desc_eq
    exact exec_of_fabric_body (i := .copy q c.desc) rfl rfl h (copyBody_of_remote hr ha hs q) (by simp)
  case gatherParams =>
    rintro l p _ h hl ht hp rfl
    obtain rfl := h.desc_eq
    exact exec_of_fabric_body (i := .gatherParams q c.desc) rfl rfl h (gatherBody_of_placed hl hp ht q (ringOf s0 q)) (by simp)
  case send =>
    intro h
    exact exec_of_fabric_body (i := .send q d) rfl rfl h rfl (by simp)
  case recv =>
    intro h hlost
    obtain rfl := h.desc_eq
    exact exec_of_fabric_body (i := .recv q c.desc) rfl rfl h (recvBody_of_units hlost q) (by simp)
  case reduceScatter =>
    rintro _ _ _ h hh rfl hlost rfl rfl
    obtain rfl := h.desc_eq
    exact exec_of_fabric_body (i := .reduceScatter q c.desc) rfl rfl h (reduceBody_of_units hh hlost q) (by simp)
  case allToAll =>
    intro h hlost
    obtain rfl := h.desc_eq
    exact exec_of_fabric_body (i := .allToAll q c.desc) rfl rfl h (a2aBody_of_units hlost q) (by simp)

end Sys2Proof
end

section
/-!
PROOF. The statements of the tick and its pipelines: what a finished command keeps, the writes of RUN and of the time base, the DONE
report with its rounds and symbols, edges that slip or advance, and the commands that run on the array.
-/
namespace Sys2Proof
open Machine

/-! ### A finished command (02 R40, 11 R342) -/

/-- Changing the command of one descriptor count leaves the other commands of the ring as they are. -/
theorem setCmd_cmds {q : Nat} {s : State} (h : (ringOf s q).state ≠ .disabled) (i : W32) (f : Cmd → Cmd) :
    (ringOf (setCmd q i f s) q).cmds = (ringOf s q).cmds.map fun x => if x.index = i then f x else x :=
  congrArg Machine.Ring.cmds (ringOf_setRing_live (s := s) (by exact h))

/-- Casting the vote of a status leaves every ring as it is. -/
theorem ringOf_voteOfStatus (q op : Nat) (st : Byte) (s : State) (p : Nat) : ringOf (voteOfStatus q op st s) p = ringOf s p :=
  congrArg (fun x : Qsu => SMap.get x.rings p resetRing) (voteOfStatus_qsu q op st s)

/-- Settles O18: finishing sets the phase of the one command, and the vote of its status touches no ring. -/
theorem finishedCommandKeepsResult : Obligations.FinishedCommandKeepsResult := by
  intro q c r s h
  rw [finish, ringOf_voteOfStatus, setCmd_cmds h]

/-! ### RUN and the time base (02 R33, R36; 14 R410) -/

/-- Dropping a held low word changes only the hold and its BAD_ACCESS flag (12 R361). -/
theorem dropHeld_eq (off size : Nat) (s : State) :
    ∃ held bad, dropHeld off size s = { s with glb := { s.glb with held := held, badAccess := bad } } := by
  unfold dropHeld
  split
  · split
    · exact ⟨_, _, rfl⟩
    · exact ⟨_, _, rfl⟩
  · exact ⟨_, _, rfl⟩

@[simp] theorem dropHeld_tkc (off size : Nat) (s : State) : (dropHeld off size s).tkc = s.tkc := by
  obtain ⟨held, bad, he⟩ := dropHeld_eq off size s
  rw [he]

@[simp] theorem dropHeld_act (off size : Nat) (s : State) : (dropHeld off size s).act = s.act := by
  obtain ⟨held, bad, he⟩ := dropHeld_eq off size s
  rw [he]

@[simp] theorem dropHeld_flr (off size : Nat) (s : State) : (dropHeld off size s).glb.flr = s.glb.flr := by
  obtain ⟨held, bad, he⟩ := dropHeld_eq off size s
  rw [he]

@[simp] theorem dropHeld_now (off size : Nat) (s : State) : now (dropHeld off size s) = now s := by
  obtain ⟨held, bad, he⟩ := dropHeld_eq off size s
  rw [he]
  rfl

/-- RUN set on a tick at rest with T0 at least 1 µs ahead arms it (02 R33). -/
theorem runSet_of_ahead {s : State} (hflr : s.glb.flr = false) (hrun : s.tkc.run = false) (hticks : s.tkc.running = false)
    (ht0 : now s + 16000 ≤ s.act.tick.t0.toNat) :
    runSet s = { s with tkc := { s.tkc with run := true, armed := true, nextEdge := s.act.tick.t0, edgeMade := false } } := by
  have hpast : ¬s.act.tick.t0.toNat < now s + usUnits := Nat.not_lt.mpr ht0
  simp [runSet, hflr, hrun, hticks, hpast]

/-- RUN set on a tick at rest with a T0 less than 1 µs ahead stays clear and sets T0_PAST (02 R33). -/
theorem runSet_of_past {s : State} (hflr : s.glb.flr = false) (hrun : s.tkc.run = false) (hticks : s.tkc.running = false)
    (ht0 : s.act.tick.t0.toNat < now s + 16000) : runSet s = { s with tkc := { s.tkc with t0Past := true } } := by
  have hpast : s.act.tick.t0.toNat < now s + usUnits := ht0
  simp [runSet, hflr, hrun, hticks, hpast]

/-- In FREE with the tick stopped the written count is taken (14 R410). -/
theorem tbSet_of_free {s : State} (hmode : s.act.timeMode = 0) (hticks : s.tkc.running = false) (v : W64) :
    tbSet v s = { s with clk := { s.clk with
      count := BitVec.ofNat 64 (v.toNat / 8 * 8), tbSet := BitVec.ofNat 64 (v.toNat / 8 * 8) } } := by
  simp [tbSet, hmode, hticks]

/-- Elsewhere the write counts as one to a live field (14 R410, 12 R367). -/
theorem tbSet_of_live {s : State} (h : s.act.timeMode ≠ 0 ∨ s.tkc.running = true) (v : W64) :
    tbSet v s = liveIgnored 0x20010 s := by
  have hfree : ¬(s.act.timeMode = 0 ∧ s.tkc.running = false) := by
    rintro ⟨hmode, hticks⟩
    rcases h with h | h
    · exact h hmode
    · simp [hticks] at h
  simp only [tbSet, Bool.and_eq_true, beq_iff_eq, Bool.not_eq_true', if_neg hfree]

/-- Settles O35: each write reaches its block, where dropping a held low word has changed nothing that the write looks at. -/
theorem runAndTimeWritesComplete : Obligations.RunAndTimeWritesComplete := by
  refine ⟨?runSet, ?runClear, ?timeBase⟩
  case runSet =>
    intro s t hreach ht hflr hrun hticks
    have hexec : exec .tkcRunSet s = .next (runSet t) := congrArg Host.Outcome.next (ht ▸ onBus_of_reaches runSet rfl hreach)
    have hflr' : t.glb.flr = false := by simp [ht, hflr]
    have hrun' : t.tkc.run = false := by simp [ht, hrun]
    have hticks' : t.tkc.running = false := by simp [ht, hticks]
    refine ⟨fun h => ?_, fun h => ?_⟩
    · rw [hexec, runSet_of_ahead hflr' hrun' hticks' (by simpa [ht] using h)]
    · rw [hexec, runSet_of_past hflr' hrun' hticks' (by simpa [ht] using h)]
  case runClear =>
    rintro s _ hreach rfl
    exact congrArg Host.Outcome.next (onBus_of_reaches runClear rfl hreach)
  case timeBase =>
    intro v s t hreach ht
    have hexec : exec (.clkTbSet v) s = .next (tbSet v t) :=
      congrArg Host.Outcome.next (ht ▸ onBus_of_reaches (tbSet v) rfl hreach)
    refine ⟨fun hmode hticks => ?_, fun h => ?_⟩
    · rw [hexec, tbSet_of_free (by simp [ht, hmode]) (by simp [ht, hticks])]
    · rw [hexec, tbSet_of_live (by simpa [ht] using h)]

/-! ### The DONE report and its rounds (02 R43, R45; 09 R281) -/

/-- The round of the first of the dimensions that are left starts. -/
def startRound (dims : List Nat) (notDone : Bool) (s : State) : State :=
  match dims with
  | k :: _ => sendRound k notDone s
  | [] => s

/-- The report freezes what the stages have done at the guard band and starts round 0. -/
theorem doneReport_of_running {s t u v : State} {fin l : Bool} (ha : alive s = true) (hticks : s.tkc.running = true)
    (hnone : s.tkc.report = none) (ht : t = advanceTo (reportTime s) s) (hfin : fin = t.fab.final.isSome) (hu : u = contribute t)
    (hl : l = (!(notDoneStages u fin).isEmpty || unlockedNow u || copiesRemain u))
    (hv : v = { u with tkc := { u.tkc with
      report := some { notDone := notDoneStages u fin, local_ := l, running := l, rounds := 0, symbols := [] } } }) :
    doneReport s = startRound (domainDims v) l v := by
  subst hv hl hu hfin ht
  rw [doneReport, if_neg (by simp [ha, hticks, hnone])]
  rfl

/-- The round that is next takes the peers' symbols into the OR at its time, and the round after it starts. -/
theorem doneForward_of_next {s t v : State} {r : Report} {k : Nat} {rest : List Nat} {out : Bool} (ha : alive s = true)
    (hr : s.tkc.report = some r) (hdims : (domainDims s).drop r.rounds = k :: rest)
    (ht : t = advanceTo (reportTime s + 15 * unit10ns + 55 * unit10ns * (r.rounds + 1)) s)
    (hout : out = (r.running || (peersIn t k).any fun y => peerNotDone r k y))
    (hv : v = { t with tkc := { t.tkc with report := some { r with running := out, rounds := r.rounds + 1 } } }) :
    doneForward r.rounds s = startRound rest out v := by
  subst hv hout ht
  simp only [doneForward, hr, hdims]
  rw [if_neg (by simp [ha])]
  rfl

/-! ### A peer's DONE symbol (09 R281, 02 R35; log entry 44) -/

/-- Noting a peer's tick index leaves the report as it is. -/
theorem noteDiffering_report (k y : Nat) (same : Bool) (s : State) : (noteDiffering k y same s).tkc.report = s.tkc.report := rfl

section
variable {k y : Nat} {w : W64} {s : State} (ha : alive s = true) (hport : (portTo s k y).isSome = true) (hdim : bits w 57 56 = k)
include ha hport hdim

/-- A symbol on its way to another device goes on to it. -/
theorem doneSymbolReceive_of_forwarded (hfwd : bit w 58 = true) (htarget : bits w 55 50 ≠ latCoord s k) :
    doneSymbolReceive k y w s = relayDone k (bits w 55 50) w s := by
  have hport' : (portTo s k y).isNone = false := by simpa using hport
  simp [doneSymbolReceive, ha, hport', hdim, hfwd, htarget]

/-- A symbol of the own domain for this device is noted, and heard where the device has reported at the same tick. -/
theorem doneSymbolReceive_of_own (hown : bit w 58 = false ∨ bits w 55 50 = latCoord s k)
    (hdomain : bits w 49 34 = s.act.tick.domainId.toNat) {same : Bool} {t : State}
    (hsame : same = (bits w 31 0 == s.tkc.tick.toNat % 2 ^ 32)) (ht : t = noteDiffering k y same s) :
    doneSymbolReceive k y w s = s.tkc.report.elim t fun r =>
      if same then { t with tkc := { t.tkc with report := some (Report.hear r k y (bit w 59)) } } else t := by
  have hport' : (portTo s k y).isNone = false := by simpa using hport
  have hown' : ¬(bit w 58 = true ∧ bits w 55 50 ≠ latCoord s k) := by
    rcases hown with h | h <;> simp [h]
  subst ht hsame
  rw [doneSymbolReceive, if_neg (by simp [ha, hport', hdim]), if_neg (by simpa using hown'), if_neg (by simp [hdomain])]
  simp only [noteDiffering_report]
  cases s.tkc.report <;> rfl

end

/-! ### Tick edges (02 R30, R47, R50) -/

/-- The report by which an edge slips, if it slips (02 R47). -/
def slipReport (u : State) : Option Report :=
  match u.tkc.report with
  | some r => if u.tkc.running && domainOr u r then some r else none
  | none => none

theorem slipReport_of_not_done {u : State} {r : Report} (hr : u.tkc.report = some r) (hticks : u.tkc.running = true)
    (hor : domainOr u r = true) : slipReport u = some r := by
  simp [slipReport, hr, hticks, hor]

theorem slipReport_of_done {u : State}
    (h : u.tkc.report = none ∨ u.tkc.running = false ∨ ∃ r, u.tkc.report = some r ∧ domainOr u r = false) :
    slipReport u = none := by
  rcases h with hr | hticks | ⟨r, hr, hor⟩
  · simp [slipReport, hr]
  · cases hr : u.tkc.report <;> simp [slipReport, hr, hticks]
  · simp [slipReport, hr, hor]

/-- What every edge ends with: the report is over, no port says DONE symbols any longer, and what waited for the edge goes on. -/
def closeEdge (s : State) : State := settleFab (settleFlr (hushPorts { s with tkc := { s.tkc with report := none } }))

/-- An edge slips by its report or advances, and then does what every edge does. -/
theorem tickEdge_eq {s t u : State} (ha : alive s = true) (hon : (s.tkc.running || s.tkc.armed) = true) (ht : t = settleReport s)
    (hu : u = countEdge (advanceTo t.tkc.nextEdge.toNat t)) :
    tickEdge s = closeEdge (everyEdge (switchesHeld t || ((slipReport u).isSome && t.upd.recHeld))
      (traceTick (slipReport u).isSome
        ((slipReport u).elim (advanceEdge t.tkc.nextEdge.toNat u) fun r => slipEdge r u))) := by
  subst ht
  rw [tickEdge, if_neg (by simp [ha, hon])]
  dsimp only
  rw [← hu]
  change closeEdge (everyEdge (_ || ((slipReport u).isSome && _)) (traceTick (slipReport u).isSome
    (match slipReport u with | some r => slipEdge r u | none => _))) = _
  cases slipReport u <;> rfl

/-- Settles O46: each command by the lemma on the state that the clause describes. -/
theorem tickCommandsComplete : Obligations.TickCommandsComplete := by
  refine ⟨?report, ?round, ?symbol, ?edge⟩
  case report =>
    intro s t u fin l ha hticks hnone ht hfin hu hl
    exact ⟨_, rfl, congrArg Host.Outcome.next (doneReport_of_running ha hticks hnone ht hfin hu hl rfl)⟩
  case round =>
    intro s t r k rest out ha hr hdims ht hout
    refine ⟨_, rfl, congrArg Host.Outcome.next ((doneForward_of_next ha hr hdims ht hout rfl).trans ?_)⟩
    cases rest <;> rfl
  case symbol =>
    intro k y w s t same ha hport hdim
    refine ⟨fun hfwd htarget => congrArg Host.Outcome.next (doneSymbolReceive_of_forwarded ha hport hdim hfwd htarget),
      fun hown hdomain hsame ht => ?own⟩
    have hown' := doneSymbolReceive_of_own ha hport hdim hown hdomain hsame ht
    refine ⟨fun h => congrArg Host.Outcome.next (hown'.trans ?noted), fun r hr h => congrArg Host.Outcome.next (hown'.trans ?heard)⟩
    case noted =>
      rcases h with hnone | hother
      · rw [hnone, Option.elim_none]
      · cases s.tkc.report <;> simp [hother]
    case heard => rw [hr, Option.elim_some, if_pos h]
  case edge =>
    intro s t u ha hon ht hu
    have hedge := tickEdge_eq ha hon ht hu
    refine ⟨fun r hr hticks hor => ⟨_, rfl, congrArg Host.Outcome.next ?slips⟩,
      fun hdone => ⟨_, rfl, congrArg Host.Outcome.next ?advances⟩⟩
    case slips =>
      rw [slipReport_of_not_done hr hticks hor, Option.isSome_some, Bool.true_and] at hedge
      exact hedge
    case advances =>
      rw [slipReport_of_done hdone, Option.isSome_none, Bool.false_and, Bool.or_false] at hedge
      exact hedge

/-! ### The commands that run on the array (02 R42, R52; 04 R121; 05 R146; 11 R330, R331) -/

/-- A run of the command without the replicas that are left out. -/
def Machine.Instn.without (i : Instn) (bad : List Nat) : Instn := { i with reps := i.reps.filter fun rep => !bad.contains rep }

/-- What MATMUL, MATVEC and ATTEND have in common once their operands are touched: `run` makes the attempts of the replicas that are not
left out, with the tiles whose share is retried. -/
def arrayRun (i : Instn) (reads : List (Operand × Nat)) (bad : List Nat) (rung n : Nat)
    (run : Instn → List Nat → State → Kept × State) (u : State) : Phase × State :=
  if arrayGone u i.stage (i.out :: reads.map (·.1)) i.beat then (.finished (stResult stFault), poisonOut i rung n u)
  else
    let fl := takeTileFlags i.stage u
    let p := poisonOut { i with reps := bad } rung n fl.2.2
    let good := i.without bad
    if good.reps.isEmpty then (.finished (stResult stPoisoned), p)
    else
      let missed := reads.any fun x => good.reps.any fun rep => operandMiss p x.1 i.beat rep x.2
      arrayEnd good (fl.1, fl.2.1) bad (run good fl.1 (noteMissed i rung missed p))

/-- With units in service and a replica without poison the attempts run. -/
theorem arrayRun_of_works {i good : Instn} {reads : List (Operand × Nat)} {bad : List Nat} {rung n : Nat}
    {run : Instn → List Nat → State → Kept × State} {u p v : State}
    (hgone : arrayGone u i.stage (i.out :: reads.map (·.1)) i.beat = false) (hgood : good = i.without bad) (hne : good.reps ≠ [])
    (hp : p = poisonOut { i with reps := bad } rung n (takeTileFlags i.stage u).2.2)
    (hv : v = noteMissed i rung (reads.any fun x => good.reps.any fun rep => operandMiss p x.1 i.beat rep x.2) p) :
    arrayRun i reads bad rung n run u =
      arrayEnd good ((takeTileFlags i.stage u).1, (takeTileFlags i.stage u).2.1) bad (run good (takeTileFlags i.stage u).1 v) := by
  subst hv hp hgood
  simp only [arrayRun, hgone, List.isEmpty_iff, hne, Bool.false_eq_true, if_false]

/-- The command reads working weights that are poisoned or were never written. -/
def badWeights (u : State) (i : Instn) (d : Desc) : Bool :=
  Desc.mode d != 2 && !i.dry && (match weightsOf u i.layer i.beat with | some w => w.poisoned | none => true)

theorem badWeights_eq_false {u : State} {i : Instn} {d : Desc}
    (h : Desc.mode d = 2 ∨ i.dry = true ∨ ∃ w, weightsOf u i.layer i.beat = some w ∧ w.poisoned = false) :
    badWeights u i d = false := by
  rcases h with hmode | hdry | ⟨w, hw, hclean⟩
  · simp [badWeights, hmode]
  · simp [badWeights, hdry]
  · simp [badWeights, hw, hclean]

/-- MATMUL and MATVEC with data to work on: bad weights leave out every replica (01 R472). -/
theorem matBody_eq_arrayRun {r : Ring} {c : Cmd} {s u : State} {i : Instn} {reads : List (Operand × Nat)}
    (hi : i = matInst s r c) (hreads : reads = matReads s r c)
    (hu : u = reads.foldl (fun s x => touchOperand i.stage x.1 i.beat x.2 s) s) (hrows : i.rows ≠ 0) (hcols : i.cols ≠ 0)
    (htables : (tablesMissing s c.desc i.beat && !i.dry) = false) (q : Nat) :
    matBody q r c s = arrayRun i reads
      (if badWeights u i c.desc then i.reps else badReps u i reads (layerRung s i.layer) i.storedRows)
      (layerRung s i.layer) i.storedRows (fun good again v => matRun good again r c v) u := by
  subst hu hreads hi
  rw [matBody, if_neg (by simp [hrows, hcols]), if_neg (by simp [htables])]
  rfl

/-- ATTEND with data to work on: whether its operands are poisoned is found before they are touched. -/
theorem attendBody_eq_arrayRun {r : Ring} {c : Cmd} {s u : State} {i : Instn} {reads : List (Operand × Nat)}
    (hi : i = attendInst s r c) (hreads : reads = attendReads c.desc)
    (hu : u = reads.foldl (fun s x => touchOperand i.stage x.1 i.beat x.2 s) s) (hrows : i.rows ≠ 0) (hcols : i.cols ≠ 0) (q : Nat) :
    attendBody q r c s = arrayRun i reads (badReps s i reads (layerRung s i.layer) i.rows) (layerRung s i.layer) i.rows
      (fun good again v => attempts good
        (isFloatFmt (operandFmt v (operand c.desc.w2) i.beat) || isFloatFmt (operandFmt v (operand c.desc.w3) i.beat))
        (attendOut v good c.desc) (attendWork v good c.desc again) (fun _ _ _ s => s) 6 (layerRung s i.layer) 0 v) u := by
  subst hu hreads hi
  rw [attendBody, if_neg (by simp [hrows, hcols])]
  rfl

/-- Settles O56: the three commands are runs on the array, whose end is the result and the state of the statement. -/
theorem matrixInstructionsComplete : Obligations.MatrixInstructionsComplete := by
  rintro q d s s0 u v c i good reads bad n k _ _ hu hgone hrows hcols hv hgood hne rfl rfl
  refine ⟨?product, ?attend⟩
  case product =>
    rintro vec hi hreads rfl htables hweights hbad rfl h
    obtain rfl := h.desc_eq
    have hbody : matBody q (ringOf s0 q) c s0 = _ := matBody_eq_arrayRun hi hreads hu hrows hcols htables q
    rw [badWeights_eq_false hweights, if_neg Bool.false_ne_true, ← hbad, arrayRun_of_works hgone hgood hne rfl hv] at hbody
    cases vec
    · exact exec_of_body (i := .matmul q c.desc) rfl rfl h hbody (by simp)
    · exact exec_of_body (i := .matvec q c.desc) rfl rfl h hbody (by simp)
  case attend =>
    rintro hi hreads rfl hbad rfl h
    obtain rfl := h.desc_eq
    have hbody : attendBody q (ringOf s0 q) c s0 = _ := attendBody_eq_arrayRun hi hreads hu hrows hcols q
    rw [← hbad, arrayRun_of_works hgone hgood hne rfl hv] at hbody
    exact exec_of_body (i := .attend q c.desc) rfl rfl h hbody (by simp)

end Sys2Proof
end

section
/-!
PROOF. The statement of the engines' own commands: what a pass leaves in its tile's registers, the product tables of a layer, the check of a
captured result, the copy of an embedding page and the write back of a row.
-/
namespace Sys2Proof
open Machine

/-! ### An array pass (04 R105, R107, R108) -/

theorem arrayOf_setArray_self (tile : Nat) (x : TileState) (s : State) : arrayOf (setArray tile x s) tile = x := by
  simp [arrayOf, setArray, SMap.get, SMap.find_put]

/-- A parity error changes only a tile's accumulator files and its marks of a retried and a faulted share (04 R121). -/
theorem passParity_fst (tile : Nat) (x : TileState) (s : State) :
    ∃ retried faulted, (passParity tile x s).1 = { x with acc := [], retried := retried, faulted := faulted } := by
  rw [passParity]
  split
  · split <;> exact ⟨_, _, rfl⟩
  · exact ⟨_, _, rfl⟩

/-- What the checks find changes no more than a parity error does (04 R119, R121). -/
theorem passFound_fst (tile : Nat) (tag : BitVec 34) (found : PassFault) (y : TileState) (s : State) :
    ∃ acc retried faulted, (passFound tile tag found y s).1 = { y with acc := acc, retried := retried, faulted := faulted } := by
  cases found with
  | parity => exact ⟨_, passParity_fst tile y _⟩
  | tag => exact ⟨_, _, _, rfl⟩
  | none =>
    rw [passFound]
    split
    · exact ⟨_, _, _, rfl⟩
    · exact ⟨_, passParity_fst tile y _⟩

/-- A pass leaves its tag in the tile, whose active and shadow registers are exchanged, whatever the checks find (04 R105). -/
theorem arrayOf_passStart (tile : Nat) (tag : BitVec 34) (first : Bool) (rows : List (List Elem × Nat)) (ready : Nat)
    (found : PassFault) (s : State) :
    ∃ last acc retried faulted, arrayOf (passStart tile tag first rows ready found s) tile =
      { tag := tag, last := last, retried := retried, faulted := faulted, active := (arrayOf s tile).shadow,
        shadow := (arrayOf s tile).active, acc := acc } := by
  rw [passStart, arrayOf_setArray_self]
  exact ⟨_, passFound_fst ..⟩

theorem execArrayPassStart_of_served {tile : Nat} {tag : BitVec 34} {rows : PassRows} {ready : Nat} {found : PassFault} {s : State}
    (hserving : serving s = true) (hon : tileOn s tile = true) (hok : isCondemned s 0 tile = false)
    (hsome : 1 ≤ rows.rows.length) (hfit : rows.rows.length ≤ 512) :
    execArrayPassStart tile tag rows ready found s =
      .next (passStart tile tag rows.first (rows.rows.map (PassRow.acts (arrayOf s tile).shadow)) ready found s) := by
  simp [execArrayPassStart, hserving, hon, hok, hsome, hfit]

/-! ### Product tables (06 R164) -/

/-- The tiles of a layer's stage build on their shares, in every replica; where a command waits, each notes its cycles. -/
def buildOnTiles (waits : Bool) (l : LayerEnt) (s : State) : State :=
  (List.range (stageReplicas s l.stage)).foldl (fun u rep =>
    ((splitOutputs (stageTiles u l.stage rep).length 1 l.n).zip (stageTiles u l.stage rep)).foldl (fun u x =>
      let v := serveBg 4 (0x2000 + x.2) (count (tileCtr x.2 19) 1 u)
      if waits then count (tileCtr x.2 20) (buildCycles l.k x.1) v else v) u) s

theorem execProductTableBuild_of_next {layer n : Nat} {l : LayerEnt} {ws : List Weights} {s : State} (ha : alive s = true)
    (hws : ws = SMap.get s.tiles.weights layer []) (hn : buildNext ws = some n) (hl : layerEnt s layer = some l) :
    execProductTableBuild layer s = .next (buildOnTiles (waitsForTables s layer) l
      { s with tiles := { s.tiles with weights := SMap.set s.tiles.weights layer (builtSets n ws) [] } }) := by
  subst hws
  simp only [execProductTableBuild, hn, hl, ha, if_true]
  rfl

/-! ### The check of a captured result (05 R153) -/

/-- The capture leaves the queue, and its result `r` is filed in the statistics of its layer, role and tile. -/
def fileShadow (tile : Nat) (c : Capture) (r : Nat × Bool) (s : State) : State :=
  updStat (statKey c.layer c.role tile) c.recipe c.rung
    (fun x =>
      let y := if r.1 = 15 then x.flag 3 else x
      { y with
        shadowChecks := satInc y.shadowChecks
        shadowDisagree := if r.2 then satInc y.shadowDisagree else y.shadowDisagree
        shadowHist := SMap.alter y.shadowHist r.1 0 fun n => min 65535 (n + 1) })
    (count (tileCtr tile 26) (ceilDiv (c.ys.length * (c.rows.headD []).length) 512)
      (serveBg 1 (0x1000 + tile) { s with prc := { s.prc with captures := s.prc.captures.erase c } }))

/-- A ratio in the last bin is a fault of the tile; the fourth within 1,024 steps condemns it (15 Table 15.11). -/
def blameShadow (tile : Nat) (s : State) : State :=
  let n := noteFault 0 tile 6 1024 (stepNo s).toNat s
  if 4 ≤ n.1 then condemn 0 tile 6 n.2 else n.2

theorem execShadowCheck_of_capture {tile : Nat} {c : Capture} {r : Nat × Bool} {s : State} (hserving : serving s = true)
    (hc : (s.prc.captures.find? fun c => c.tile == tile) = some c)
    (hr : r = shadowResult (fp16.decode (Recipe.shadowTol (recipeAt s c.recipe))) c.ys (shadowRef c)) :
    execShadowCheck tile s =
      if r.1 = 15 then .next (blameShadow tile (fileShadow tile c r s)) else .next (fileShadow tile c r s) := by
  rw [execShadowCheck, hc, hr]
  exact if_neg (by simp [hserving])

/-! ### The copy of an embedding page and the write back of a row (07 R193, R195; 10 R305) -/

theorem execMigrate_of_job {table n : Nat} {job : CopyJob} {e : DirEnt} {s t : State} (ha : alive s = true)
    (hjob : (s.ple.copies.find? fun c => c.table == table && c.page == n && !c.complete) = some job)
    (he : SMap.find s.ple.dir (dirKey table n) = some e) (ht : t = [e.home, 0x3000, 0x3001].foldl (fun s u => serveBg 2 u s) s) :
    execMigrate table n s = .next (count (nbeCtr e.home 7) 1 { t with ple := { t.ple with
      copies := t.ple.copies.map fun c => if c.table == table && c.page == n then { c with complete := true } else c } }) := by
  subst ht
  simp only [execMigrate, hjob, he, ha, Bool.not_true, Bool.false_eq_true, if_false]

theorem execStagingLogWriteback_of_alive {s : State} (ha : alive s = true) (table row : Nat) :
    execStagingLogWriteback table row s = .next (writeBackRow table row s) := by
  rw [execStagingLogWriteback, if_pos ha]

/-- Settles O55: each engine command by its equation in the case of its clause. -/
theorem engineCommandsComplete : Obligations.EngineCommandsComplete := by
  refine ⟨fun tile s => ⟨?pass, ?tables, ?shadow⟩, fun table n s ha => ⟨?migrate, ?writeBack⟩⟩
  case pass =>
    intro tag rows ready found hserving hon hok hsome hfit
    obtain ⟨last, acc, retried, faulted, hx⟩ := arrayOf_passStart tile tag rows.first
      (rows.rows.map (PassRow.acts (arrayOf s tile).shadow)) ready found s
    exact ⟨_, rfl, execArrayPassStart_of_served hserving hon hok hsome hfit, by rw [hx], by rw [hx], by rw [hx]⟩
  case tables =>
    intro layer l n ws ha hws hn hl
    exact ⟨_, rfl, execProductTableBuild_of_next ha hws hn hl⟩
  case shadow =>
    rintro c r _ hserving hc hr rfl
    have hexec := execShadowCheck_of_capture hserving hc hr
    exact ⟨fun hbin => hexec.trans (if_neg hbin), fun hbin => ⟨_, rfl, hexec.trans (if_pos hbin)⟩⟩
  case migrate =>
    intro job e t hjob he ht
    exact execMigrate_of_job ha hjob he ht
  case writeBack => exact execStagingLogWriteback_of_alive ha table n

end Sys2Proof
end

section
/-!
PROOF. The statement of the commands of precision and observation: a recipe taken or rejected, the statistics copied to host memory, the
shadow interval, and the records that DIGEST and DUMP write of an operand.
-/
namespace Sys2Proof
open Machine

/-! ### Recipes, statistics and shadow intervals (05 R129, R130, R134, R151) -/

/-- SET_RECIPE takes a recipe that R129 accepts, and applies it at once where no step can begin (05 R130). -/
theorem setRecipeBody_of_ok {s t : State} {r : Ring} {c : Cmd} {rc : BitVec 512} (hh : hostOk s r.context.toNat = true)
    (hrc : rc = (hostBlock s c.desc.w3.toNat &&& recipeMask)) (hok : recipeOk rc = true)
    (ht : t = { s with prc := { s.prc with recipeNext := SMap.put s.prc.recipeNext (bits c.desc.w2 63 50) rc } }) (q : Nat) :
    setRecipeBody q r c s = (.finished okResult,
      if s.tkc.running || s.tkc.armed then t else applyRecipes (s.upd.seed.map fun _ => stepNo s) t) := by
  subst ht hrc
  simp only [setRecipeBody, hh, hok, Bool.not_true, Bool.false_eq_true, if_false]
  rfl

/-- SET_RECIPE of any other recipe keeps none and notes the rejection (05 R129). -/
theorem setRecipeBody_of_bad {s : State} {r : Ring} {c : Cmd} {rc : BitVec 512} (hh : hostOk s r.context.toNat = true)
    (hrc : rc = (hostBlock s c.desc.w3.toNat &&& recipeMask)) (hbad : recipeOk rc = false) (q : Nat) :
    setRecipeBody q r c s = (.finished (descErr 0x09 3), { s with prc := { s.prc with recipeReject := true } }) := by
  subst hrc
  simp only [setRecipeBody, hh, hbad, Bool.not_true, Bool.not_false, Bool.false_eq_true, if_false, if_true]

theorem readStatsBody_of_hostOk {s : State} {r : Ring} {c : Cmd} {bs : List Byte} (hh : hostOk s r.context.toNat = true)
    (hbs : bs = (readStats s (bits c.desc.w3 63 62) (bits c.desc.w4 63 48) (bits c.desc.w4 47 32)).take (bits c.desc.w3 31 0))
    (q : Nat) : readStatsBody q r c s =
      (.finished { okResult with detail := BitVec.ofNat 32 bs.length }, hostWrite s c.desc.w2.toNat bs) := by
  subst hbs
  simp only [readStatsBody, hh, Bool.not_true, Bool.false_eq_true, if_false]

/-! ### The records of DIGEST and DUMP (15 R434, R435) -/

/-- Some replica of a stage reads poison in `n` rows of an operand, from row `first` on. -/
def recordPoison (s : State) (stage : Nat) (o : Operand) (beat first n : Nat) : Bool :=
  (List.range (stageReplicas s stage)).any fun rep =>
    match anySource s o beat rep with | some src => rowsPoison src first n | none => false

/-- Every replica of a stage in turn reads `n` rows of an operand and writes the record of its own rows to host address `a`. -/
def writeRecords (s : State) (stage : Nat) (o : Operand) (beat n a : Nat) (record : RowSource → List Byte) : State :=
  (List.range (stageReplicas s stage)).foldl (fun t rep =>
    match anySource s o beat rep with | some src => hostWrite t a (record src) | none => t) (touchOperand stage o beat n s)

/-- DIGEST with its units in service writes and counts a record for each replica; poison in the operand only shows in the status. -/
theorem digestBody_of_units {s : State} {r : Ring} {c : Cmd} {o : Operand} {beat n : Nat} (hh : hostOk s r.context.toNat = true)
    (ho : o = operand c.desc.w2) (hn : n = operandRows s o - o.first) (hbeat : beat = cmdBeat s r c)
    (hu : unitsGone s r.stage.toNat [o] beat = false) (q : Nat) :
    digestBody q r c s = (.finished (dataResult (recordPoison s r.stage.toNat o beat o.first n)),
      count (obsCtr 2) (stageReplicas s r.stage.toNat) (writeRecords s r.stage.toNat o beat n c.desc.w3.toNat
        (digestRecord s o (Desc.micro c.desc) o.first n))) := by
  subst ho hn hbeat
  simp only [digestBody, hh, hu, Bool.not_true, Bool.false_eq_true, if_false]
  rfl

/-- DUMP in the same case writes a header with its data for each replica, and counts once. -/
theorem dumpBody_of_units {s : State} {r : Ring} {c : Cmd} {o : Operand} {tensor beat n : Nat} (hh : hostOk s r.context.toNat = true)
    (htensor : tensor = bits c.desc.w2 63 40) (ho : o = wholeTensor tensor) (hn : n = operandRows s o) (hbeat : beat = cmdBeat s r c)
    (hu : unitsGone s r.stage.toNat [o] beat = false) (q : Nat) :
    dumpBody q r c s = (.finished (dataResult (recordPoison s r.stage.toNat o beat 0 n)),
      count (obsCtr 3) 1 (writeRecords s r.stage.toNat o beat n c.desc.w4.toNat
        fun src => dumpHeader s tensor src (dumpData s tensor n src) ++ dumpData s tensor n src)) := by
  subst ho hn hbeat htensor
  simp only [dumpBody, hh, hu, Bool.not_true, Bool.false_eq_true, if_false]
  rfl

/-- Settles O54: each command of precision and observation by what its body does in the state that the clause describes. -/
theorem recordsComplete : Obligations.RecordsComplete := by
  rintro q d s s0 c _ _ hh rfl hbeat
  refine ⟨?setRecipe, ?readStats, ?shadowCfg, ?digest, ?dump⟩
  case setRecipe =>
    intro rc t h hrc ht
    obtain rfl := h.desc_eq
    constructor
    · intro hok
      exact exec_of_body (i := .setRecipe q c.desc) rfl rfl h (setRecipeBody_of_ok hh hrc hok ht q) (by simp)
    · intro hbad
      exact exec_of_body (i := .setRecipe q c.desc) rfl rfl h (setRecipeBody_of_bad hh hrc hbad q) (by simp)
  case readStats =>
    intro bs h hbs
    obtain rfl := h.desc_eq
    exact exec_of_body (i := .readStats q c.desc) rfl rfl h (readStatsBody_of_hostOk hh hbs q) (by simp)
  case shadowCfg =>
    intro h
    obtain rfl := h.desc_eq
    exact exec_of_body (i := .shadowCfg q c.desc) rfl rfl h rfl (by simp)
  case digest =>
    intro o n h ho hn hu
    obtain rfl := h.desc_eq
    exact exec_of_body (i := .digest q c.desc) rfl rfl h (digestBody_of_units hh ho hn hbeat hu q) (by simp)
  case dump =>
    intro o n h ho hn hu
    obtain rfl := h.desc_eq
    exact exec_of_body (i := .dump q c.desc) rfl rfl h (dumpBody_of_units hh rfl ho hn hbeat hu q) (by simp)

end Sys2Proof
end

section
/-!
PROOF. The statement of the byte memories: a written run of bytes reads back and leaves the bytes beside it.
-/
namespace Sys2Proof.Machine

/-- A read of the run just written returns its bytes. -/
theorem Memory.read_write_self {m : List Host.Cell} (w : Memory.wf m = true) (a : Nat) (bs : List Byte) :
    Memory.read (Memory.write m a bs) a bs.length = bs := by
  rw [Memory.read_eq_map]
  refine List.ext_getElem (by simp) fun i hi hb => ?_
  have hin : a ≤ a + i ∧ a + i < a + bs.length := by omega
  rw [List.getElem_map, List.getElem_range, Memory.get_write w, if_pos hin, Nat.add_sub_cancel_left,
    List.getD_eq_getElem _ _ hb]

/-- A write of a run leaves the byte at every address beside it. -/
theorem Memory.get_write_of_outside {m : List Host.Cell} (w : Memory.wf m = true) {a b : Nat} {bs : List Byte}
    (hb : b < a ∨ a + bs.length ≤ b) : Memory.get (Memory.write m a bs) b = Memory.get m b := by
  rw [Memory.get_write w, if_neg (by omega)]

end Sys2Proof.Machine

namespace Sys2Proof
open Machine

/-- Settles O31: what a byte reads after a write of several, inside their run and outside it. -/
theorem memoryReadsBack : Obligations.MemoryReadsBack := fun _ a bs w =>
  ⟨Memory.read_write_self w a bs, fun _ hb => Memory.get_write_of_outside w hb, Memory.wf_write a bs w⟩

end Sys2Proof
end

section
/-!
PROOF. The statement of the embedding commands: with bags to work on and units in service each runs in the replicas that no poison
reaches, and its end is its result over those replicas.
-/
namespace Sys2Proof
open Machine

/-- An embedding command with bags to work on and its units in service poisons the output rows of the replicas that read poison (but
EMB_SCATTER, which has no output rows), and runs in the others, whose results make its own (07 R188-R192). -/
theorem embBody_of_works {scatter : Bool} {seedTensor : State → Desc → Nat} {one : EmbRun → Desc → Nat → State → EmbOut × State}
    {r : Ring} {c : Cmd} {s u : State} {b : Tab} {x : EmbRun} {n : Nat} {all bad : List Nat} {i : Instn} {k : List EmbOut × State}
    (hb : tabOf s (embTable c.desc) = some b) (hbags : embBags c.desc ≠ 0) (hx : x = embRun s r c b (seedTensor s c.desc))
    (hn : n = embOutRows s c.desc x scatter) (hall : all = List.range (stageReplicas s x.stage))
    (hgone : unitsGone s x.stage ([operand c.desc.w3, operand c.desc.w5] ++ (embWeights c.desc).toList) x.beat = false)
    (hbad : bad = all.filter (embPoisoned s c.desc x scatter n))
    (hi : i = { layer := noLayer, stage := x.stage, out := operand c.desc.w5, beat := x.beat, rows := embBags c.desc, cols := b.d,
                swap := false, micro := x.micro, recompute := x.again, dry := false, reps := bad })
    (hu : u = if scatter then s else poisonOut i 0 n s)
    (hk : k = embReplicas one c.desc x (all.filter fun rep => !bad.contains rep) u) (q : Nat) :
    embBody scatter seedTensor one q r c s = (.finished (embResult (embBags c.desc) k.1 (!bad.isEmpty)), k.2) := by
  subst hk hu hi hbad hall hn hx
  simp only [embBody, hb, hbags, hgone, Bool.false_eq_true, if_false]

/-- Settles O58: the three commands are runs of one body, each with the tensor of its seed and its run of a replica. -/
theorem embeddingInstructionsComplete : Obligations.EmbeddingInstructionsComplete := by
  intro q d s s0 u c b x n all bad i sc k one hb hbags hn hall hgone hbad hi hu hk
  refine ⟨fun hx hsc => ⟨?gather, ?pool⟩, ?scatter⟩
  case gather =>
    rintro rfl h
    obtain rfl := h.desc_eq
    subst hsc
    have hbody := embBody_of_works (seedTensor := fun s d => operandTensor s (operand d.w5)) hb hbags hx hn hall hgone hbad hi hu hk q
    exact exec_of_body (i := .embGather q c.desc) rfl rfl h hbody (by simp)
  case pool =>
    rintro rfl h
    obtain rfl := h.desc_eq
    subst hsc
    have hbody := embBody_of_works (seedTensor := fun s d => operandTensor s (operand d.w5)) hb hbags hx hn hall hgone hbad hi hu hk q
    exact exec_of_body (i := .embPool q c.desc) rfl rfl h hbody (by simp)
  case scatter =>
    rintro hx rfl rfl h
    obtain rfl := h.desc_eq
    have hbody := embBody_of_works (seedTensor := fun _ d => bits d.w7 23 0) hb hbags hx hn hall hgone hbad hi hu hk q
    exact exec_of_body (i := .embScatter q c.desc) rfl rfl h hbody (by simp)

end Sys2Proof
end

section
/-!
PROOF. The statements of the family of updates and training: what UPDATE_LAYER, ROW_UPDATE and SCHEDULE_SET do once their sources can be
used, and how the inverse root of a factor starts and ends.
-/
namespace Sys2Proof
open Machine

/-! ### UPDATE_LAYER (08 R219, R225, R236) -/

/-- UPDATE_LAYER with its LUEs in service, clean sources and every root that its rule needs stages the update. -/
theorem updateBody_of_ready {s : State} {c : Cmd} {layer : Nat} {l : LayerEnt} {p : LayerPl} {d : BitVec 512}
    (hlayer : layer = bits c.desc.w2 63 48) (hl : layerEnt s layer = some l) (hp : layerPl s layer = some p)
    (hd : ruleFor s (l.rule.getD 0) false (ouvutLayer s layer) = .ok d) (hgone : luesGone s p = false)
    (hpoison : layerPoison s d l p = false)
    (hroots : ¬(Rule.code d = 4 ∧ rootsPending s d l p.now (leNat (devBytes s p.now.rec_ 4) + 1) = true)) (q : Nat) (r : Ring) :
    updateBody q r c s = stageUpdate r c layer d l p s := by
  subst hlayer
  simp only [updateBody, hl, hp, hd, hgone, hpoison, hroots, Bool.false_eq_true, if_false]

/-- A staged update ends at once; its flags tell whether a block fell back to an unpreconditioned direction (08 R227). -/
theorem stageUpdate_fst (r : Ring) (c : Cmd) (layer : Nat) (d : BitVec 512) (l : LayerEnt) (p : LayerPl) (s : State) :
    (stageUpdate r c layer d l p s).1 = .finished (mkResult stOk
      (if (updateLayer s d (ouvutLayer s layer) l p).failed.isEmpty then 0 else flPrecond) 0 0) := rfl

/-! ### ROW_UPDATE (08 R231, 07 R193) -/

/-- ROW_UPDATE with its units in service, lists free of poison and room in the staging logs reads the list of each replica and updates
its rows. -/
theorem rowBody_of_room {s u : State} {r : Ring} {c : Cmd} {b : Tab} {d : BitVec 512} {list : Operand} {reps : List Nat}
    {items : List (List ListItem)} (hlist : list = operand c.desc.w3) (hb : tabOf s (bits c.desc.w2 63 40) = some b)
    (hd : ruleFor s (b.rule.getD 0) true (ouvutStage s r.stage.toNat) = .ok d)
    (hreps : reps = List.range (stageReplicas s r.stage.toNat)) (hitems : items = reps.map (rowItems s r c b))
    (hgone : unitsGone s r.stage.toNat [list] (cmdBeat s r c) = false)
    (hpoison : (reps.any fun rep => listPoison s list 8 (cmdBeat s r c) rep (listLength s list)) = false)
    (hroom : logFull s b (ownRows s b items.flatten) = false)
    (hu : u = reps.foldl (fun t rep => touchList list 8 (cmdBeat s r c) rep (listLength t list) t) s) (q : Nat) :
    rowBody q r c s = rowRun r c d b items u := by
  subst hu hitems hreps hlist
  simp only [rowBody, hb, hd, hgone, hpoison, hroom, Bool.false_eq_true, if_false]

/-- The run of a ROW_UPDATE finishes the command. -/
theorem rowRun_ne_waiting (r : Ring) (c : Cmd) (d : BitVec 512) (b : Tab) (items : List (List ListItem)) (s : State) :
    (rowRun r c d b items s).1 ≠ .waiting := by
  simp [rowRun]

/-! ### SCHEDULE_SET (08 R218, R235) -/

/-- The state in which schedule `i` is `x` from the next step boundary on. -/
def stageSchedule (i : Nat) (x : BitVec 512) (s : State) : State :=
  { s with upd := { s.upd with schedNext := SMap.set s.upd.schedNext i x 0 } }

/-- SCHEDULE_SET of a whole schedule, with host memory in reach: the host's data can be poisoned, valid or out of range. -/
theorem scheduleBody_of_whole {s : State} {r : Ring} {c : Cmd} {x : BitVec 512} (hwhole : bit c.desc.w2 57 = false)
    (hh : hostOk s r.context.toNat = true) (hx : x = BitVec.ofNat 512 (leNat (hostRead s c.desc.w3.toNat 64))) (q : Nat) :
    scheduleBody q r c s =
      if Config.hostPoison c.desc.w3.toNat (ctrAt s (qsuCtr 2)) then (.finished (stResult stPoisoned), s)
      else if schedOk x then (.finished okResult, stageSchedule (bits c.desc.w2 63 58) x s)
      else (.finished (descErr 0x09 3), s) := by
  subst hx
  simp only [scheduleBody, hwhole, hh, Bool.not_true, Bool.false_eq_true, if_false]
  rfl

/-- SCHEDULE_SET of a loss scale alone: finite and above zero it takes the place of the staged schedule's own, any other value is out of
range. -/
theorem scheduleBody_of_lossScale {s : State} {c : Cmd} {v : F32} {x : BitVec 512} (hscale : bit c.desc.w2 57 = true)
    (hv : v = c.desc.w3.setWidth 32)
    (hx : x = (SMap.get s.upd.schedNext (bits c.desc.w2 63 58) 0 &&& ~~~ ((0xFFFFFFFF#512) <<< 320) ||| (v.setWidth 512 <<< 320)))
    (q : Nat) (r : Ring) :
    scheduleBody q r c s = if posFinite v then (.finished okResult, stageSchedule (bits c.desc.w2 63 58) x s)
      else (.finished (descErr 0x09 3), s) := by
  subst hx hv
  simp only [scheduleBody, hscale, if_true]
  cases posFinite (c.desc.w3.setWidth 32) <;> rfl

/-- A due SCHEDULE_SET leaves the result that its body comes to. -/
theorem exec_scheduleSet_of_finished {q : Nat} {s s0 t : State} {c : Cmd} {x : Result}
    (h : Due opScheduleSet ⟨scheduleCheck, scheduleBody⟩ q c.desc s c s0)
    (hbody : scheduleBody q (ringOf s0 q) c s0 = (.finished x, t)) :
    exec (.scheduleSet q c.desc) s = .next (leaves q c (.finished x) s0 t) :=
  exec_of_body rfl rfl h hbody (by simp)

/-- Settles O50: each command by what its body does in the state that the clause describes. -/
theorem updateCommandsComplete : Obligations.UpdateCommandsComplete := by
  intro q e s s0 c
  refine ⟨?updateLayer, ?rowUpdate, ?schedule, ?lossScale⟩
  case updateLayer =>
    intro layer l p d h hlayer hl hp hd hgone hpoison hroots
    obtain rfl := h.desc_eq
    have hbody := updateBody_of_ready hlayer hl hp hd hgone hpoison hroots q (ringOf s0 q)
    exact exec_of_body (i := .updateLayer q c.desc) rfl rfl h (hbody.trans (Prod.ext (stageUpdate_fst ..) rfl)) (by simp)
  case rowUpdate =>
    intro b d list reps items u h hlist hb hd hreps hitems hgone hpoison hroom hu
    obtain rfl := h.desc_eq
    exact exec_of_body (i := .rowUpdate q c.desc) rfl rfl h
      (rowBody_of_room hlist hb hd hreps hitems hgone hpoison hroom hu q) (rowRun_ne_waiting _ _ _ _ _ _)
  case schedule =>
    intro x h hwhole hh hx
    obtain rfl := h.desc_eq
    have hbody := scheduleBody_of_whole hwhole hh hx q
    split
    · next hpoison => exact exec_scheduleSet_of_finished h (hbody.trans (if_pos hpoison))
    · next hclean =>
      rw [if_neg hclean] at hbody
      split
      · next hok => exact exec_scheduleSet_of_finished h (hbody.trans (if_pos hok))
      · next hbad => exact exec_scheduleSet_of_finished h (hbody.trans (if_neg hbad))
  case lossScale =>
    intro v x h hscale hv hx
    obtain rfl := h.desc_eq
    have hbody := scheduleBody_of_lossScale hscale hv hx q (ringOf s0 q)
    exact ⟨fun hok => exec_scheduleSet_of_finished h (hbody.trans (if_pos hok)),
      fun hbad => exec_scheduleSet_of_finished h (hbody.trans (if_neg (by simp [hbad])))⟩

/-! ### Inverse roots (08 R225-R227) -/

/-- The LUE takes up a root that no LUE has taken up; with root computations off it takes the root off the list instead. -/
theorem exec_rootComputeStart_of_due {layer block factor n : Nat} {r : Root} {s : State}
    (hroot : rootAt s layer block factor = some (n, r)) (ha : alive s = true) (hdue : r.started = false) :
    exec (.rootComputeStart layer block factor) s = .next
      (if s.upd.rootsEn then setRoots n (fun l => l.map fun x => if x == r then { x with started := true } else x) s
       else setRoots n (fun l => l.filter fun x => !(x == r)) s) := by
  change execRootComputeStart layer block factor s = _
  simp only [execRootComputeStart, hroot, ha, hdue, Bool.not_true, Bool.or_false, Bool.false_eq_true, if_false]

/-- A started root of a layer that has its rule ends with what the rule's iteration gives. -/
theorem exec_rootComputeDone_of_started {layer block factor n : Nat} {r : Root} {d : BitVec 512} {s : State}
    (hroot : rootAt s layer block factor = some (n, r)) (ha : alive s = true) (hstarted : r.started = true)
    (hd : layerRule s layer = some d) :
    exec (.rootComputeDone layer block factor) s = .next (setRoots n (fun l => l.map fun x =>
      if x == r then { x with result := some ((inverseRoot d r.n (chunks r.n r.input)).map List.flatten) } else x) s) := by
  change execRootComputeDone layer block factor s = _
  simp only [execRootComputeDone, hroot, hd, ha, hstarted, Bool.not_true, Bool.or_false, Bool.false_eq_true, if_false]

/-- Settles O51, by whether the root has started and whether root computations are on. -/
theorem inverseRootsComplete : Obligations.InverseRootsComplete := by
  intro layer block factor n r s hroot ha
  refine ⟨fun hdue hon => ?starts, fun hdue hoff => ?dropped, fun d => exec_rootComputeDone_of_started hroot ha⟩
  case starts => rw [exec_rootComputeStart_of_due hroot ha hdue, if_pos hon]
  case dropped => rw [exec_rootComputeStart_of_due hroot ha hdue, hoff, if_neg Bool.false_ne_true]

end Sys2Proof
end

section
/-!
PROOF. The statements of the fabric: what a flit, a missing acknowledgement, training and a retrain do to a port, how the time exchanges
of a device run and its lock follows its parent's, and where a message goes that arrives.
-/
namespace Sys2Proof
open Machine

/-! ### Flits (09 R252-R254, R287) -/

/-- A flit that is not idle is taken where its SEQ is the one that the port expects. -/
def takeFlit (p : Nat) (f : Flit) (t : State) : State :=
  if !Flit.idle f && Flit.seq f == (portAt t p).rxExp then acceptFlit p f t else t

/-- A flit is answered by an idle flit, but for an idle one at a port that has nothing to refuse (log entry 128). -/
def answerFlit (p : Nat) (f : Flit) (t : State) : State :=
  if Flit.idle f && !(portAt t p).naking then t else sayIdle p [] t

theorem takeFlit_of_inOrder {p : Nat} {f : Flit} {t : State} (hidle : Flit.idle f = false)
    (hseq : Flit.seq f = (portAt t p).rxExp) : takeFlit p f t = acceptFlit p f t := by
  simp [takeFlit, hidle, hseq]

theorem takeFlit_of_otherSeq {p : Nat} {f : Flit} {t : State} (hseq : Flit.seq f ≠ (portAt t p).rxExp) : takeFlit p f t = t := by
  simp [takeFlit, hseq]

theorem takeFlit_of_idle {p : Nat} {f : Flit} {t : State} (hidle : Flit.idle f = true) : takeFlit p f t = t := by
  simp [takeFlit, hidle]

theorem answerFlit_of_data {p : Nat} {f : Flit} {t : State} (hidle : Flit.idle f = false) : answerFlit p f t = sayIdle p [] t := by
  simp [answerFlit, hidle]

theorem answerFlit_of_naking {p : Nat} {f : Flit} {t : State} (hnak : (portAt t p).naking = true) :
    answerFlit p f t = sayIdle p [] t := by
  simp [answerFlit, hnak]

theorem answerFlit_of_idle {p : Nat} {f : Flit} {t : State} (hidle : Flit.idle f = true) (hnak : (portAt t p).naking = false) :
    answerFlit p f t = t := by
  simp [answerFlit, hidle, hnak]

section
variable {p k y : Nat} {s : State} (hpeer : peerOf s p = some (k, y)) (ha : alive s = true)
include hpeer ha

/-- An UP port counts what FEC corrected, refuses a flit that fails its FEC or its CRC, and otherwise goes through the flit's ACK, its
unsequenced symbols and its sequenced part. -/
theorem flitReceive_eq (hup : portUp s p = true) (f : Flit) :
    flitReceive p f s =
      if !f.fecOk then rejectFlit p (count (portCtr p 3) 1 (count (portCtr p 2) f.fecCorr s))
      else if !Flit.crcOk f then rejectFlit p (count (portCtr p 4) 1 (count (portCtr p 2) f.fecCorr s))
      else flushPort p (answerFlit p f (takeFlit p f
        ((Flit.symbols f).foldl (fun s w => takeSymbol p k y w s) (ackFlits p (Flit.ack f) (count (portCtr p 2) f.fecCorr s))))) := by
  simp only [flitReceive, hpeer, ha, hup, Bool.not_true, Bool.or_false, Bool.false_eq_true, if_false]
  rfl

/-! ### Training (09 R256, R260) -/

/-- A port that trains takes the peer's identity once every lane has FEC lock. -/
theorem portTrainingDone_eq (hstate : (portAt s p).state = .training ∨ (portAt s p).state = .retrain) {t : State}
    (ht : t = returnToTraining p s) (id : W64) (rtt : W32) (lanes : BitVec 4) :
    portTrainingDone p id rtt lanes s =
      if lanes ≠ 0xF then setPort p { portAt t p with lanes := lanes } t
      else if identityOk t k y id then flushPort p (portState p .up (setPort p (freshPort (portAt t p) rtt lanes) t))
      else portState p .down (setPort p { portAt t p with lanes := lanes, retrainAt := none }
        { t with fab := { t.fab with cableErr := true } }) := by
  subst ht
  have hstate' : ((portAt s p).state == .training || (portAt s p).state == .retrain) = true := by simpa using hstate
  simp only [portTrainingDone, hpeer, ha, hstate', Bool.not_true, Bool.or_false, Bool.false_eq_true, if_false]

end

/-! ### Replays and retrains (09 R253, R256; 15 R447) -/

theorem replayTimeout_of_unacked {p : Nat} {s : State} {x : SentFlit} {rest : List SentFlit} (ha : alive s = true)
    (hup : portUp s p = true) (hx : (portAt s p).replay = x :: rest) :
    replayTimeout p s = resendFrom p x.seq (advanceTo ((portAt s p).ackTime + 2 * usUnits) s) := by
  simp [replayTimeout, hx, ha, hup]

theorem portRetrain_of_fecLoss {p : Nat} {s : State} {cause : RetrainCause} (ha : alive s = true) (hup : portUp s p = true)
    (hcause : cause ≠ .replays) (lanes : BitVec 4) :
    portRetrain p cause lanes s = portRetrainNow p (setPort p { portAt s p with lanes := lanes } s) := by
  simp [portRetrain, ha, hup, hcause]

/-- A retrain that has not reached UP in 100 ms is counted, and the third in ten minutes condemns the port. -/
theorem portRetrainTimeout_of_retraining {p t0 : Nat} {s t u : State} {recent : List Nat} (ha : alive s = true)
    (ht0 : (portAt s p).retrainAt = some t0) (hstate : (portAt s p).state = .retrain ∨ (portAt s p).state = .training)
    (ht : t = advanceTo (t0 + 100000 * usUnits) s)
    (hrecent : recent = ((portAt t p).failedRetrains.filter fun x => decide (now t < x + tenMinutes)) ++ [now t])
    (hu : u = setPort p { portAt t p with failedRetrains := recent, retrainAt := some (now t) } t) :
    portRetrainTimeout p s = if 3 ≤ recent.length then condemn 3 p 9 u else u := by
  subst hu hrecent ht
  have hstate' : ((portAt s p).state == .retrain || (portAt s p).state == .training) = true := by simpa using hstate
  simp only [portRetrainTimeout, ht0, ha, hstate', Bool.not_true, Bool.or_false, Bool.false_eq_true, if_false]

/-- Settles O47: each command by its equation, and a good flit by whether it is idle and in order. -/
theorem linkCommandsComplete : Obligations.LinkCommandsComplete := by
  intro p k y s hpeer ha
  refine ⟨fun f hup => ?flit, ?replay, ?training, ?retrain, ?timeout⟩
  case flit =>
    have hflit : exec (.flitReceive p f) s = .next _ := congrArg Host.Outcome.next (flitReceive_eq hpeer ha hup f)
    refine ⟨fun hfec => ?badFec, fun hfec hcrc => ?badCrc, fun t hfec hcrc ht => ?good⟩
    case badFec => rw [hflit, if_pos (by simp [hfec])]
    case badCrc => rw [hflit, if_neg (by simp [hfec]), if_pos (by simp [hcrc])]
    case good =>
      rw [if_neg (by simp [hfec]), if_neg (by simp [hcrc]), ← ht] at hflit
      refine ⟨fun hidle hseq => ?_, fun hidle hseq => ?_, fun hidle hnak => ?_, fun hidle hnak => ?_⟩
      · rw [hflit, takeFlit_of_inOrder hidle hseq, answerFlit_of_data hidle]
      · rw [hflit, takeFlit_of_otherSeq hseq, answerFlit_of_data hidle]
      · rw [hflit, takeFlit_of_idle hidle, answerFlit_of_idle hidle hnak]
      · rw [hflit, takeFlit_of_idle hidle, answerFlit_of_naking hnak]
  case replay => exact fun x rest hup hx => congrArg Host.Outcome.next (replayTimeout_of_unacked ha hup hx)
  case training =>
    intro id rtt lanes t hstate ht
    have htrain := portTrainingDone_eq hpeer ha hstate ht id rtt
    refine ⟨fun hid => congrArg Host.Outcome.next ?up, fun hid => ⟨_, rfl, congrArg Host.Outcome.next ?wrongCable⟩,
      fun hlanes => congrArg Host.Outcome.next ((htrain lanes).trans (if_pos hlanes))⟩
    case up => rw [htrain, if_neg (not_not_intro rfl), if_pos hid]
    case wrongCable => rw [htrain, if_neg (not_not_intro rfl), if_neg (by simp [hid])]
  case retrain => exact fun cause lanes hup hcause => congrArg Host.Outcome.next (portRetrain_of_fecLoss ha hup hcause lanes)
  case timeout =>
    exact fun t0 t recent u ht0 hstate ht hrecent hu =>
      congrArg Host.Outcome.next (portRetrainTimeout_of_retraining ha ht0 hstate ht hrecent hu)

/-! ### Time exchanges (09 R285; 14 R407, R408) -/

theorem timeExchangeStart_of_disciplined {k y : Nat} {s t : State} (ha : alive s = true) (hparent : parent s = some (k, y))
    (hdisc : disciplined s = true)
    (ht : t = skipExchange (advanceTo (s.clk.syncAt.toNat + max 1 s.act.topo.periodUs.toNat * usUnits) s)) :
    timeExchangeStart s = sayTime k y [timeSymbol 0 t.clk.count]
      { t with clk := { t.clk with awaiting := some t.clk.count, syncAt := t.clk.count } } := by
  subst ht
  simp only [timeExchangeStart, hparent, ha, hdisc, Bool.not_true, Bool.or_false, Bool.false_eq_true, if_false]

theorem timeRequestReceive_of_locked {k y : Nat} {s : State} (ha : alive s = true) (hmode : s.act.timeMode = 1)
    (hsync : s.fab.syncEn = true) (hport : (portTo s k y).isSome = true) (t1 : BitVec 56) :
    timeRequestReceive k y t1 s = sayTime k y [timeSymbol 1 s.clk.count, timeSymbol 2 s.clk.count] s := by
  simp [timeRequestReceive, ha, hmode, hsync, hport]

/-- A response ends the exchange that the device waits for, with half the difference of the two directions. -/
theorem timeResponseReceive_of_awaited {t1 : W64} {s : State} (ha : alive s = true) (hwait : s.clk.awaiting = some t1)
    (hdisc : disciplined s = true) (t2 t3 t4 : W64) (cycles : Nat) :
    timeResponseReceive t2 t3 t4 cycles s =
      endExchange (Int.tdiv (((t2.toNat : Int) - t1.toNat) - ((t4.toNat : Int) - t3.toNat)) 2) cycles s := by
  simp only [timeResponseReceive, hwait, ha, hdisc, Bool.not_true, Bool.or_false, Bool.false_eq_true, if_false]

/-! ### The parent's lock (14 R409; log entry 47) -/

/-- A device that loses its lock tells its children. -/
theorem loseLock_of_locked {s t : State} (hlocked : s.clk.locked = true)
    (ht : t = { s with clk := { s.clk with good := 0, locked := false } }) :
    loseLock s = (children t).foldl (fun s d => tell d mLock [0] s) t := by
  subst ht
  simp only [loseLock, setLocked, hlocked, Bool.true_eq_false, if_false]
  rfl

/-- A device without lock only starts its run of good exchanges again. -/
theorem loseLock_of_unlocked {s : State} (hlocked : s.clk.locked = false) :
    loseLock s = { s with clk := { s.clk with good := 0, locked := false } } := by
  simp only [loseLock, setLocked, hlocked, if_true]

section
variable {s : State} (ha : alive s = true) (hroot : isRoot s = false)
include ha hroot

theorem lockStateMessage_of_locked {t : State} (ht : t = { s with clk := { s.clk with parentLocked := true } }) :
    lockStateMessage true s = if 8 ≤ s.clk.good ∧ s.clk.coarse = false then setLocked true t else t := by
  subst ht
  simp [lockStateMessage, ha, hroot]

theorem lockStateMessage_of_unlocked :
    lockStateMessage false s = loseLock { s with clk := { s.clk with parentLocked := false } } := by
  simp [lockStateMessage, ha, hroot]

end

/-- Settles O48: each command by its equation; a parent that is out of lock by whether the device itself had lock. -/
theorem timeExchangesComplete : Obligations.TimeExchangesComplete := by
  intro s ha
  refine ⟨?start, ?request, ?response, fun hroot => ⟨⟨_, rfl, ?parentLocked⟩, _, rfl, fun hlocked => ?lost, fun hlocked => ?kept⟩⟩
  case start => exact fun k y t hparent hdisc ht => congrArg Host.Outcome.next (timeExchangeStart_of_disciplined ha hparent hdisc ht)
  case request => exact fun k y t1 hmode hsync hport => congrArg Host.Outcome.next (timeRequestReceive_of_locked ha hmode hsync hport t1)
  case response =>
    rintro t1 t2 t3 t4 cycles _ _ hwait hdisc rfl rfl
    exact congrArg Host.Outcome.next (timeResponseReceive_of_awaited ha hwait hdisc t2 t3 t4 cycles)
  case parentLocked => exact congrArg Host.Outcome.next (lockStateMessage_of_locked ha hroot rfl)
  case lost => exact congrArg Host.Outcome.next ((lockStateMessage_of_unlocked ha hroot).trans (loseLock_of_locked hlocked rfl))
  case kept => exact congrArg Host.Outcome.next ((lockStateMessage_of_unlocked ha hroot).trans (loseLock_of_unlocked hlocked))

/-! ### Messages (09 R254, R261-R264, R277) -/

/-- Once its slots are freed, a message goes on, is counted as a copy, or is taken. -/
theorem messageReceive_eq {p k z : Nat} {m : Message} {s t : State} (ha : alive s = true) (hup : portUp s p = true)
    (hpeer : peerOf s p = some (k, z)) (ht : t = oweSlots p m.vc (coordOf s m.src k != z) (msgSlots m) s) :
    messageReceive p m s =
      if m.dst ≠ myDevice t then
        if coordOf t m.dst k ≠ latCoord t k then relayOut k (coordOf t m.dst k) m t
        else if gatherMessage m then sendDown (takeOrder t).1 m.dst m (takeOrder t).2 else sendTo m.dst m t
      else if m.msgIndex.toNat < SMap.get t.fab.marks (markKey m) 0 then count (portCtr p 8) 1 t
      else messageHere p m t := by
  subst ht
  simp only [messageReceive, hpeer, ha, hup, Bool.not_true, Bool.or_false, Bool.false_eq_true, if_false]

/-- Only the first message of a command leaves a record of its arrival (15 R443). -/
theorem messageHere_of_later {m : Message} (hindex : m.msgIndex ≠ 0) (p : Nat) (t : State) :
    messageHere p m t = settleFab (takeMessage p m
      { t with fab := { t.fab with marks := SMap.put t.fab.marks (markKey m) (m.msgIndex.toNat + 1) } }) := by
  simp only [messageHere, if_neg hindex]

/-- Settles O60: each clause is one branch of `messageReceive_eq`. -/
theorem messagesComplete : Obligations.MessagesComplete := by
  intro p k z m s t ha hup hpeer ht
  have hexec : exec (.messageReceive p m) s = .next _ := congrArg Host.Outcome.next (messageReceive_eq ha hup hpeer ht)
  refine ⟨fun hdst hcoord => ?detour, fun hdst hcoord => ?nextDim, fun hdst hmark => ?copy, fun hdst hmark => ⟨?new, ?later⟩⟩
  case detour => rw [hexec, if_pos hdst, if_pos hcoord]
  case nextDim => rw [hexec, if_pos hdst, if_neg (not_not_intro hcoord)]
  case copy => rw [hexec, if_neg (not_not_intro hdst), if_pos hmark]
  case new => rw [hexec, if_neg (not_not_intro hdst), if_neg (Nat.not_lt.mpr hmark)]
  case later => exact fun hindex => ⟨_, rfl, messageHere_of_later hindex p t⟩

end Sys2Proof
end

section
/-!
PROOF. The statements of placement: what the bodies of LOAD_GRAPH, PLACE, REPLACE and UNLOAD_GRAPH come to with every check met, and what
a host access of a window, a translation invalidation and a scrub pass do in a running device.
-/
namespace Sys2Proof
open Machine

/-! ### The reports of placements (10 R292, R307) -/

/-- The engine keeps the buffer at `a` of `n` bytes, to which it sends the report of a re-placement. -/
def keepBuffer (a : W64) (n : Nat) (s : State) : State :=
  { s with ple := { s.ple with report := some (a, n) } }

@[simp] theorem keepBuffer_placement (a : W64) (n : Nat) (s : State) : (keepBuffer a n s).ple.placement = s.ple.placement := rfl
@[simp] theorem loadedImages_keepBuffer (a : W64) (n : Nat) (s : State) : loadedImages (keepBuffer a n s) = loadedImages s := rfl
@[simp] theorem loadedImages_hostWrite (s : State) (a : Nat) (bs : List Byte) :
    loadedImages (hostWrite s a bs) = loadedImages s := rfl

/-- A report that its buffer can hold goes to host memory, and the engine keeps the buffer. -/
theorem writeReport_of_fits {s : State} {r : Ring} {p : Placement} {n : Nat} (hh : hostOk s r.context.toNat = true)
    (hfit : reportBytes p ≤ n) (a : W64) :
    writeReport r p a n s = (none, keepBuffer a n (hostWrite s a.toNat (reportOf s p))) := by
  rw [writeReport, if_neg (Nat.not_lt.mpr hfit), if_neg (by simp [hh])]
  rfl

/-! ### LOAD_GRAPH, PLACE and REPLACE (10 R288, R292, R307) -/

section
variable {s : State} {r : Ring} {c : Cmd} (hh : hostOk s r.context.toNat = true)
include hh

/-- LOAD_GRAPH of a whole and valid image keeps it under the lowest free handle. -/
theorem loadGraphBody_of_valid {h : Nat} (hwhole : imgWhole s c.desc.w2.toNat = true)
    (hvalid : imageReason (imageOf s c.desc.w2.toNat) (s.ple.images.map (·.2)) = 0) (hfree : freeHandle s = some h) (q : Nat) :
    loadGraphBody q r c s = (.finished { okResult with detail := BitVec.ofNat 32 h },
      { s with ple := { s.ple with images := SMap.put s.ple.images h (imageOf s c.desc.w2.toNat) } }) := by
  simp only [loadGraphBody, hh, hwhole, hvalid, hfree, Bool.not_true, Bool.false_eq_true, if_false]

/-- PLACE of images that have a plan installs it where nothing is placed, and else asks for it at the next boundary. -/
theorem placeBody_of_plan {p : Placement} {t : State} (hplan : plan s (loadedImages s) = .ok p)
    (hfit : reportBytes p ≤ bits c.desc.w3 31 0) (ht : t = hostWrite s c.desc.w2.toNat (reportOf s p)) (q : Nat) :
    placeBody q r c s = (.finished okResult,
      if s.ple.placement = none then install p (keepBuffer c.desc.w2 (bits c.desc.w3 31 0) t)
      else askReplace (loadedImages s) (keepBuffer c.desc.w2 (bits c.desc.w3 31 0) t)) := by
  subst ht
  simp only [placeBody, hplan, writeReport_of_fits hh hfit, keepBuffer_placement, loadedImages_keepBuffer,
    loadedImages_hostWrite, hostWrite_ple, Option.isNone_iff_eq_none]

/-- REPLACE of a loaded image by one that differs only where REPLACE allows it keeps the new image and asks for the set with it. -/
theorem replaceBody_of_plan {pl p : Placement} {old g : Image} {h : Nat} {set : SMap Image} {t : State}
    (hhandle : h = bits c.desc.w3 35 32) (hpl : s.ple.placement = some pl) (hold : SMap.find s.ple.images h = some old)
    (hwhole : imgWhole s c.desc.w2.toNat = true) (hg : g = imageOf s c.desc.w2.toNat)
    (hvalid : imageReason g ((s.ple.images.filter fun p => p.1 != h).map (·.2)) = 0) (hsame : g.sameBut old = true)
    (hset : set = if (SMap.find (s.ple.next.getD (inForce s)) h).isSome then SMap.put (s.ple.next.getD (inForce s)) h g
      else s.ple.next.getD (inForce s))
    (hplan : plan s set = .ok p) (hfit : reportBytes p ≤ bits c.desc.w3 31 0)
    (ht : t = hostWrite s c.desc.w4.toNat (reportOf s p)) (q : Nat) :
    replaceBody q r c s = (.finished okResult, askReplace set { t with ple := { t.ple with
      report := some (c.desc.w4, bits c.desc.w3 31 0), images := SMap.put t.ple.images h g } }) := by
  subst ht hg hhandle
  simp only [replaceBody, hpl, hold, hh, hwhole, hvalid, hsame, ← hset, hplan, writeReport_of_fits hh hfit, Bool.not_true,
    Bool.false_eq_true, if_false, keepBuffer]

end

/-! ### UNLOAD_GRAPH (10 R288, R307) -/

section
variable {s t : State} {c : Cmd} {h : Nat} {g : Image}
  (ht : t = if imageBusy s g then { s with ple := { s.ple with unload := insertNat h s.ple.unload } }
    else { s with ple := { s.ple with images := SMap.del s.ple.images h } })
include ht

/-- Taking an image off or marking it changes neither the set asked for nor the placement in force. -/
theorem nextSet_of_unload : t.ple.next.getD (inForce t) = s.ple.next.getD (inForce s) := by
  subst ht
  split <;> rfl

variable (hh : h = bits c.desc.w2 3 0) (hg : SMap.find s.ple.images h = some g)
include hh hg

/-- UNLOAD_GRAPH of an image outside the set of the next boundary only takes the image off or marks it. -/
theorem unloadBody_of_unplaced (hout : (SMap.find (s.ple.next.getD (inForce s)) h).isNone = true) (q : Nat) (r : Ring) :
    unloadBody q r c s = (.finished okResult, t) := by
  subst hh
  simp only [unloadBody, hg, ← ht, nextSet_of_unload ht, hout, if_true]

/-- UNLOAD_GRAPH of an image of that set also asks for the set without it, and sends the report of its plan. -/
theorem unloadBody_of_placed {set : SMap Image} {p : Placement} (hin : (SMap.find (s.ple.next.getD (inForce s)) h).isNone = false)
    (hset : set = SMap.del (s.ple.next.getD (inForce s)) h) (hplan : plan t set = .ok p) (q : Nat) (r : Ring) :
    unloadBody q r c s = (.finished okResult, askReplace set (resendReport p t)) := by
  subst hh hset
  simp only [unloadBody, hg, ← ht, nextSet_of_unload ht, hin, hplan, Bool.false_eq_true, if_false]

end

/-- Settles O53: each command by what its body does in the state that the clause describes. -/
theorem placementCommandsComplete : Obligations.PlacementCommandsComplete := by
  intro q d s s0 c hh
  refine ⟨?loadGraph, ?place, ?replace, ?pin, ?unloadGraph⟩
  case loadGraph =>
    intro h hdue hwhole hvalid hfree
    obtain rfl := hdue.desc_eq
    exact exec_of_body (i := .loadGraph q c.desc) rfl rfl hdue (loadGraphBody_of_valid hh hwhole hvalid hfree q) (by simp)
  case place =>
    intro p t hdue hplan hfit ht
    obtain rfl := hdue.desc_eq
    exact exec_of_body (i := .place q c.desc) rfl rfl hdue (placeBody_of_plan hh hplan hfit ht q) (by simp)
  case replace =>
    intro h pl old g set p t hdue hhandle hpl hold hwhole hg hvalid hsame hset hplan hfit ht
    obtain rfl := hdue.desc_eq
    exact exec_of_body (i := .replace q c.desc) rfl rfl hdue
      (replaceBody_of_plan hh hhandle hpl hold hwhole hg hvalid hsame hset hplan hfit ht q) (by simp)
  case pin =>
    intro hdue
    obtain rfl := hdue.desc_eq
    exact exec_of_body (i := .pin q c.desc) rfl rfl hdue rfl (by simp)
  case unloadGraph =>
    intro h g t hdue hhandle hg ht
    obtain rfl := hdue.desc_eq
    refine ⟨fun hout => ?unplaced, fun set p hin hset hplan => ?placed⟩
    case unplaced =>
      exact exec_of_body (i := .unloadGraph q c.desc) rfl rfl hdue
        (unloadBody_of_unplaced ht hhandle hg hout q (ringOf s0 q)) (by simp)
    case placed =>
      exact exec_of_body (i := .unloadGraph q c.desc) rfl rfl hdue
        (unloadBody_of_placed ht hhandle hg hin hset hplan q (ringOf s0 q)) (by simp)

/-! ### Host accesses of the window (10 R309; 12 R354, R355) -/

/-- What `serving` asks of a device. -/
theorem fields_of_serving {s : State} (h : serving s = true) : s.glb.state = .ready ∧ s.pwr.powered = true ∧
    s.pwr.tripped = false ∧ s.glb.d3hot = false ∧ s.glb.cacheMem = true := by
  simpa [serving, and_assoc] using h

section
variable {off : Nat} {data : List Byte} {s : State} (hserving : serving s = true)
include hserving

/-- A running device serves an access that a window of a placed tensor holds where the tensor's bytes lie. -/
theorem exec_hostWindowAccess_of_window {w : Nat × Nat} (hw : windowAt s off data.length = some w) (write : Bool) :
    exec (.hostWindowAccess write off data) s = .next (if write then hostStore (windowPieces s w data.length) data s
      else hostLoad (windowPieces s w data.length) s) := by
  change Host.Outcome.next (hostWindow write off data s) = _
  simp [hostWindow, fields_of_serving hserving, hw]

theorem exec_hostWindowAccess_of_miss (hw : windowAt s off data.length = none) (write : Bool) :
    exec (.hostWindowAccess write off data) s = .next (hdmMiss write data.length s) := by
  change Host.Outcome.next (hostWindow write off data s) = _
  simp [hostWindow, fields_of_serving hserving, hw]

end

/-! ### Scrub passes (07 R178, R182, R204; 15 R447) -/

/-- A scrub pass takes the word at the position of the column's patrol, and no other. -/
theorem exec_nearScrubPass_of_on {c : Nat} {s : State} (ha : alive s = true) (hen : s.mem.nearScrubEn = true)
    (hon : columnOn s c = true) (w : Nat) (f : EccFinding) :
    exec (.nearScrubPass c w f) s = .next (if w = SMap.get s.mem.scrubNear c 0 then
      nearScrub c w f (serveBg 0 c { s with mem := { s.mem with scrubNear := SMap.set s.mem.scrubNear c ((w + 1) % 2 ^ 24) 0 } })
      else s) := by
  change execNearScrubPass c w f s = _
  simp only [execNearScrubPass, ha, hen, hon, Bool.true_and, beq_iff_eq]

theorem exec_farScrubPass_of_on {c : Nat} {s : State} (ha : alive s = true) (hen : s.mem.farScrubEn = true)
    (hon : channelOn s c = true) (w : Nat) (f : EccFinding) :
    exec (.farScrubPass c w f) s = .next (if w = SMap.get s.mem.scrubFar c 0 then
      farScrub c w f (serveBg 0 (0x400 + c / 4)
        { s with mem := { s.mem with scrubFar := SMap.set s.mem.scrubFar c ((w + 1) % 2 ^ 30) 0 } })
      else s) := by
  change execFarScrubPass c w f s = _
  simp only [execFarScrubPass, ha, hen, hon, Bool.true_and, beq_iff_eq]

/-- A device whose host has translation services on answers an invalidation (12 R353). -/
theorem exec_atsInvalidation_of_on {s : State} (hpower : s.pwr.powered = true) (hlink : s.glb.linkUp = true)
    (hats : s.glb.ats = true) (b n : Nat) : exec (.atsInvalidation b n) s =
      .next (emit (.atsComplete b n) { s with glb := { s.glb with atsSeen := s.glb.atsSeen + 1 } }) := by
  change execAtsInvalidation b n s = _
  simp only [execAtsInvalidation, hpower, hlink, hats, Bool.and_true, if_true]

/-- Settles O45: an access by whether a window holds it, a scrub pass by whether it is at the patrol's position. -/
theorem windowsAndScrubsComplete : Obligations.WindowsAndScrubsComplete := by
  refine ⟨fun off w data s hserving hw => ?window, fun off data s hserving hw => ?miss,
    fun b n s hpower hlink hats => exec_atsInvalidation_of_on hpower hlink hats b n,
    fun c w f s ha hen hon => ?near, fun c w f s ha hen hon => ?far⟩
  case window =>
    have haccess := exec_hostWindowAccess_of_window hserving hw
    exact ⟨haccess true, _, rfl, haccess false⟩
  case miss =>
    have haccess := exec_hostWindowAccess_of_miss hserving hw
    exact ⟨haccess true, haccess false⟩
  case near =>
    rw [exec_nearScrubPass_of_on ha hen hon]
    exact ⟨fun hw => congrArg _ (if_pos hw), fun hw => congrArg _ (if_neg hw)⟩
  case far =>
    rw [exec_farScrubPass_of_on ha hen hon]
    exact ⟨fun hw => congrArg _ (if_pos hw), fun hw => congrArg _ (if_neg hw)⟩

end Sys2Proof
end

section
/-!
PROOF. The statement that every run goes on: each command answers a next state and leaves the queue alone, and with it the parts of
the state that its class spares.
-/
namespace Sys2Proof
open Machine

/-- A good next state, whose fuses are the given ones but for a rollback index that has not fallen (13 R391). -/
def Keeps (k : List Instr) (u : Fuses) (a : Staged → Prop) (t : W64 → Prop) (c : List Host.Cell → Prop)
    (o : Host.Outcome State Fault Refusal) : Prop :=
  ∃ n, u.rollback ≤ n ∧ OutGood k { u with rollback := n } a t c o

section
variable {K : List Instr} {U : Fuses} {A : Staged → Prop} {T : W64 → Prop} {C : List Host.Cell → Prop}

theorem keeps_of_good {o : Host.Outcome State Fault Refusal} (h : OutGood K U A T C o) : Keeps K U A T C o :=
  ⟨U.rollback, le_rfl, h⟩

theorem keeps_of_view {s : State} {o : Host.Outcome State Fault Refusal} (h : Good K U A T C (view s))
    (ho : outView o = some (view s)) : Keeps K U A T C o := by
  cases o with
  | next t => exact keeps_of_good (show Good K U A T C (view t) from Option.some.inj ho ▸ h)
  | fault r => cases ho
  | refused r => cases ho

/-- Every command answers a next state with the queue as it was. The active registers, the time base and module memory keep any property
under a command of a class that leaves them alone, and under every command the order of `Orderly`. -/
theorem exec_keeps {s : State} (h : Good K U A T C (view s)) (c : Instr) (hregs : mayApplyGroups c = true → A = AnyRegs)
    (htime : mayMoveTime c = true → T = Eights) (hmem : mayWriteDevice c = true → C = Canon) : Keeps K U A T C (exec c s) :=
  match c with
  | .nop .. => keeps_of_good (execNop_good _ _ s h)
  | .signal .. => keeps_of_good (execSignal_good _ _ s h)
  | .wait .. => keeps_of_good (execWait_good _ _ s h)
  | .waitTimeout .. => by cases htime rfl; exact keeps_of_good (execWaitTimeout_good _ s h)
  | .fence .. => keeps_of_good (execFence_good _ _ s h)
  | .tickMark .. => keeps_of_good (execTickMark_good _ _ s h)
  | .vote .. => keeps_of_good (execVote_good _ _ s h)
  | .loadGraph .. => keeps_of_good (execLoadGraph_good _ _ s h)
  | .place .. => by cases hmem rfl; exact keeps_of_good (execPlace_good _ _ s h)
  | .replace .. => keeps_of_good (execReplace_good _ _ s h)
  | .pin .. => keeps_of_good (execPin_good _ _ s h)
  | .unloadGraph .. => keeps_of_good (execUnloadGraph_good _ _ s h)
  | .matmul .. => by cases hmem rfl; exact keeps_of_good (execMatmul_good _ _ s h)
  | .matvec .. => by cases hmem rfl; exact keeps_of_good (execMatvec_good _ _ s h)
  | .embGather .. => by cases hmem rfl; exact keeps_of_good (execEmbGather_good _ _ s h)
  | .embPool .. => by cases hmem rfl; exact keeps_of_good (execEmbPool_good _ _ s h)
  | .embScatter .. => by cases hmem rfl; exact keeps_of_good (execEmbScatter_good _ _ s h)
  | .elemwise .. => by cases hmem rfl; exact keeps_of_good (execElemwise_good _ _ s h)
  | .norm .. => by cases hmem rfl; exact keeps_of_good (execNorm_good _ _ s h)
  | .softmax .. => by cases hmem rfl; exact keeps_of_good (execSoftmax_good _ _ s h)
  | .attend .. => by cases hmem rfl; exact keeps_of_good (execAttend_good _ _ s h)
  | .convert .. => by cases hmem rfl; exact keeps_of_good (execConvert_good _ _ s h)
  | .loadWeights .. => keeps_of_good (execLoadWeights_good _ _ s h)
  | .copy .. => by cases hmem rfl; exact keeps_of_good (execCopy_good _ _ s h)
  | .gatherParams .. => by cases hmem rfl; exact keeps_of_good (execGatherParams_good _ _ s h)
  | .reduceScatter .. => by cases hmem rfl; exact keeps_of_good (execReduceScatter_good _ _ s h)
  | .allToAll .. => by cases hmem rfl; exact keeps_of_good (execAllToAll_good _ _ s h)
  | .send .. => by cases hmem rfl; exact keeps_of_good (execSend_good _ _ s h)
  | .recv .. => by cases hmem rfl; exact keeps_of_good (execRecv_good _ _ s h)
  | .updateLayer .. => by cases hmem rfl; exact keeps_of_good (execUpdateLayer_good _ _ s h)
  | .rowUpdate .. => by cases hmem rfl; exact keeps_of_good (execRowUpdate_good _ _ s h)
  | .stepBegin .. => by cases hregs rfl; cases hmem rfl; exact keeps_of_good (execStepBegin_good _ _ s h)
  | .stepCommit .. => keeps_of_good (execStepCommit_good _ _ s h)
  | .scheduleSet .. => keeps_of_good (execScheduleSet_good _ _ s h)
  | .setRecipe .. => keeps_of_good (execSetRecipe_good _ _ s h)
  | .readStats .. => keeps_of_good (execReadStats_good _ _ s h)
  | .shadowCfg .. => keeps_of_good (execShadowCfg_good _ _ s h)
  | .digest .. => keeps_of_good (execDigest_good _ _ s h)
  | .dump .. => keeps_of_good (execDump_good _ _ s h)
  | .replay .. => by cases hmem rfl; exact keeps_of_good (execReplay_good _ _ s h)
  | .recordStep .. => keeps_of_good (execRecordStep_good _ _ s h)
  | .traceStart .. => keeps_of_good (execTraceStart_good _ _ s h)
  | .traceStop .. => by cases hmem rfl; exact keeps_of_good (execTraceStop_good _ _ s h)
  | .traceTrigger .. => keeps_of_good (execTraceTrigger_good _ _ s h)
  | .traceMark .. => keeps_of_good (execTraceMark_good _ _ s h)
  | .traceSetMask .. => keeps_of_good (execTraceSetMask_good _ _ s h)
  | .sampleNow .. => by cases hregs rfl; exact keeps_of_good (execSampleNow_good _ _ s h)
  | .abortContext .. => keeps_of_good (execAbortContext_good _ _ s h)
  | .query .. => keeps_of_good (execQuery_good _ _ s h)
  | .migrate .. => keeps_of_view h (execMigrate_view _ _ s)
  | .tickEdge => by cases hregs rfl; cases htime rfl; cases hmem rfl; exact keeps_of_good (execTickEdge_good s h)
  | .doneReport => by cases htime rfl; cases hmem rfl; exact keeps_of_good (execDoneReport_good s h)
  | .doneForward .. => by cases htime rfl; exact keeps_of_good (execDoneForward_good _ s h)
  | .doneSymbolReceive .. => keeps_of_view h (execDoneSymbolReceive_view _ _ _ s)
  | .voteFrameReceive .. => keeps_of_good (execVoteFrameReceive_good _ _ _ s h)
  | .arrayPassStart .. => keeps_of_good (execArrayPassStart_good _ _ _ _ _ s h)
  | .shadowCheck .. => keeps_of_good (execShadowCheck_good _ s h)
  | .productTableBuild .. => keeps_of_view h (execProductTableBuild_view _ s)
  | .rootComputeStart .. => keeps_of_view h (execRootComputeStart_view _ _ _ s)
  | .rootComputeDone .. => keeps_of_view h (execRootComputeDone_view _ _ _ s)
  | .stagingLogWriteback .. => by cases hmem rfl; exact keeps_of_good (execStagingLogWriteback_good _ _ s h)
  | .nearScrubPass .. => keeps_of_good (execNearScrubPass_good _ _ _ s h)
  | .farScrubPass .. => keeps_of_good (execFarScrubPass_good _ _ _ s h)
  | .bucketDecay => by cases htime rfl; exact keeps_of_good (execBucketDecay_good s h)
  | .doorbellL1Invalidate .. => keeps_of_good (execDoorbellL1Invalidate_good _ _ s h)
  | .cqHeadUpdate .. => keeps_of_good (execCqHeadUpdate_good _ _ s h)
  | .qsuTblWrite => keeps_of_good (execQsuTblWrite_good s h)
  | .qsuTblRead => keeps_of_view h (execQsuTblRead_view s)
  | .qsuTblEnable => keeps_of_view h (execQsuTblEnable_view s)
  | .qsuTblDisable => keeps_of_view h (execQsuTblDisable_view s)
  | .ringDisabled .. => keeps_of_view h (execRingDisabled_view _ s)
  | .fetchEnSet => keeps_of_good (execFetchEnSet_good s h)
  | .cmtCommit .. => by cases hregs rfl; exact keeps_of_good (execCmtCommit_good _ s h)
  | .cmtDiscard .. => keeps_of_view h (execCmtDiscard_view _ s)
  | .cmtGroupApply .. => by cases hregs rfl; exact keeps_of_good (execCmtGroupApply_good _ s h)
  | .tkcRunSet => keeps_of_view h (execTkcRunSet_view s)
  | .tkcRunClear => keeps_of_view h (execTkcRunClear_view s)
  | .glbDeviceReset .. => by cases hregs rfl; cases htime rfl; cases hmem rfl; exact keeps_of_good (execGlbDeviceReset_good _ s h)
  | .registerWrite .. => by cases hregs rfl; cases htime rfl; cases hmem rfl; exact keeps_of_good (execRegisterWrite_good _ _ _ s h)
  | .clkTbSet .. => by cases htime rfl; exact keeps_of_good (execClkTbSet_good _ s h)
  | .mbxSend .. => keeps_of_good (execMbxSend_good _ _ s h)
  | .mbxRecv .. => keeps_of_good (execMbxRecv_good _ s h)
  | .ping .. => keeps_of_good (execPing_good _ s h)
  | .stateCmd .. => keeps_of_good (execStateCmd_good _ s h)
  | .crumbRead .. => keeps_of_good (execCrumbRead_good _ s h)
  | .fwUpdate .. => by cases hmem rfl; exact keeps_of_good (execFwUpdate_good _ s h)
  | .fwUpdateComplete .. => keeps_of_good (execFwUpdateComplete_good _ s h)
  | .updateStatus .. => keeps_of_good (execUpdateStatus_good _ s h)
  | .recoveryLoad .. => by cases hregs rfl; cases htime rfl; cases hmem rfl; exact keeps_of_good (execRecoveryLoad_good _ s h)
  | .evcEoi .. => keeps_of_good (execEvcEoi_good _ s h)
  | .evcFastEoi .. => keeps_of_good (execEvcFastEoi_good _ s h)
  | .evcGlobalEnable => keeps_of_good (execEvcGlobalEnable_good s h)
  | .evcArmLine .. => keeps_of_good (execEvcArmLine_good _ _ s h)
  | .vectorModTimeout .. => by cases htime rfl; exact keeps_of_good (execVectorModTimeout_good _ s h)
  | .msixUnmask .. => keeps_of_good (execMsixUnmask_good _ s h)
  | .sampleTick => by cases hregs rfl; cases htime rfl; exact keeps_of_good (execSampleTick_good s h)
  | .traceRunSet => keeps_of_view h (execTraceRunSet_view s)
  | .traceRunClear => by cases hmem rfl; exact keeps_of_good (execTraceRunClear_good s h)
  | .traceDrain .. => by cases hmem rfl; exact keeps_of_good (execTraceDrain_good _ s h)
  | .crumbMramWrite => keeps_of_view h (execCrumbMramWrite_view s)
  | .flitReceive .. => by cases htime rfl; exact keeps_of_good (execFlitReceive_good _ _ s h)
  | .replayTimeout .. => by cases htime rfl; exact keeps_of_good (execReplayTimeout_good _ s h)
  | .messageReceive .. => by cases hmem rfl; exact keeps_of_good (execMessageReceive_good _ _ s h)
  | .remoteSignalReceive .. => keeps_of_good (execRemoteSignalReceive_good _ _ _ _ _ s h)
  | .remoteSignalAnswer .. => keeps_of_good (execRemoteSignalAnswer_good _ _ _ _ s h)
  | .portTrainingDone .. => keeps_of_good (execPortTrainingDone_good _ _ _ _ s h)
  | .portRetrain .. => keeps_of_good (execPortRetrain_good _ _ _ s h)
  | .timeExchangeStart => by cases htime rfl; exact keeps_of_good (execTimeExchangeStart_good s h)
  | .timeRequestReceive .. => keeps_of_view h (execTimeRequestReceive_view _ _ _ s)
  | .timeResponseReceive .. => by cases htime rfl; exact keeps_of_good (execTimeResponseReceive_good _ _ _ _ s h)
  | .lockStateMessage .. => keeps_of_good (execLockStateMessage_good _ s h)
  | .hostWindowAccess .. => by cases hmem rfl; exact keeps_of_good (execHostWindowAccess_good _ _ _ s h)
  | .atsInvalidation .. => keeps_of_view h (execAtsInvalidation_view _ _ s)
  | .watchdogExpiry .. => keeps_of_good (execWatchdogExpiry_good _ s h)
  | .clkMonitorWindow .. => keeps_of_good (execClkMonitorWindow_good _ _ s h)
  | .clkSwitchTimeout .. => keeps_of_good (execClkSwitchTimeout_good _ s h)
  | .forcedPath .. => keeps_of_good (execForcedPath_good _ s h)
  | .clkRelockFail .. => keeps_of_good (execClkRelockFail_good _ s h)
  | .xtalLoss => keeps_of_good (execXtalLoss_good s h)
  | .powerMeasure .. => by cases htime rfl; exact keeps_of_good (execPowerMeasure_good _ _ _ _ s h)
  | .thermThrottle => keeps_of_good (execThermThrottle_good s h)
  | .thermTrip => keeps_of_good (execThermTrip_good s h)
  | .pwrFail .. => keeps_of_good (execPwrFail_good _ _ s h)
  | .pwrFailEnd => keeps_of_view h (execPwrFailEnd_view s)
  | .inputLoss => by cases hregs rfl; cases htime rfl; cases hmem rfl; exact keeps_of_good (execInputLoss_good s h)
  | .pwrEnAssert .. => by cases hregs rfl; cases htime rfl; cases hmem rfl; exact keeps_of_good (execPwrEnAssert_good _ s h)
  | .pwrEnRelease => by cases hregs rfl; cases htime rfl; cases hmem rfl; exact keeps_of_good (execPwrEnRelease_good s h)
  | .perstAssert => by cases hregs rfl; cases htime rfl; cases hmem rfl; exact keeps_of_good (execPerstAssert_good s h)
  | .perstRelease => keeps_of_view h (execPerstRelease_view s)
  | .hotReset => by cases hregs rfl; cases htime rfl; cases hmem rfl; exact keeps_of_good (execHotReset_good s h)
  | .functionLevelReset => by cases hregs rfl; cases hmem rfl; exact keeps_of_good (execFunctionLevelReset_good s h)
  | .d3hotEntry => keeps_of_good (execD3hotEntry_good s h)
  | .d0Return => keeps_of_good (execD0Return_good s h)
  | .xtalStable => keeps_of_good (execXtalStable_good s h)
  | .xtalBootTimeout => keeps_of_good (execXtalBootTimeout_good s h)
  | .fwImageLoaded => execFwImageLoaded_good s h
  | .memTrainingDone .. => keeps_of_good (execMemTrainingDone_good _ _ s h)
  | .cxlLinkTrained .. => keeps_of_good (execCxlLinkTrained_good _ _ _ s h)
  | .fabricReady => keeps_of_view h (execFabricReady_view s)
  | .spdmRequest .. => keeps_of_view h (execSpdmRequest_view _ _ s)
  | .ideKmKey .. => keeps_of_view h (execIdeKmKey_view _ _ _ s)
  | .mctpControl .. => keeps_of_view h (execMctpControl_view _ _ s)
  | .pldmBase .. => keeps_of_view h (execPldmBase_view _ s)
  | .pldmSensorRead .. => keeps_of_view h (execPldmSensorRead_view _ s)
  | .pldmFruRead => keeps_of_view h (execPldmFruRead_view s)
  | .pldmCrumbRange => keeps_of_view h (execPldmCrumbRange_view s)
  | .pldmCrumbEntries .. => keeps_of_view h (execPldmCrumbEntries_view _ _ s)
  | .sensorRefresh .. => keeps_of_view h (execSensorRefresh_view _ _ s)
  | .commandComplete .. => by cases hregs rfl; cases hmem rfl; exact keeps_of_good (execCommandComplete_good _ s h)
  | .portRetrainTimeout .. => by cases htime rfl; exact keeps_of_good (execPortRetrainTimeout_good _ s h)
  | .thermalThrottleEnd => keeps_of_view h (execThermalThrottleEnd_view s)
  | .eventRingHeadUpdate .. => keeps_of_good (execEventRingHeadUpdate_good _ s h)
  | .sampleRingHeadUpdate .. => keeps_of_good (execSampleRingHeadUpdate_good _ s h)
end

/-- In every state, orderly or not, a command answers a next state: no meaning stops. -/
theorem exec_answers (c : Instr) (s : State) : ∃ t, exec c s = .next t := by
  cases c
  case arrayPassStart tile tag rows ready found =>
    change ∃ t, execArrayPassStart tile tag rows ready found s = .next t
    rw [execArrayPassStart]
    split <;> exact ⟨_, rfl⟩
  case shadowCheck tile =>
    change ∃ t, execShadowCheck tile s = .next t
    simp only [execShadowCheck]
    repeat' split
    all_goals exact ⟨_, rfl⟩
  case productTableBuild layer =>
    change ∃ t, execProductTableBuild layer s = .next t
    rw [execProductTableBuild]
    repeat' split
    all_goals exact ⟨_, rfl⟩
  all_goals exact ⟨_, rfl⟩

/-- A step answers a next state: that of the command at the front of the queue, or the idle one. -/
theorem step_answers (s : State) : ∃ t, step s = .next t := by
  rw [step]
  split
  · exact ⟨_, rfl⟩
  · exact exec_answers _ _

/-- No run of any length stops. -/
theorem safe_all (n : Nat) (s : State) : Safe n s := by
  induction n generalizing s with
  | zero => trivial
  | succ n ih =>
    obtain ⟨t, ht⟩ := step_answers s
    rw [Safe, ht]
    exact ih t

/-- In an orderly state a command answers a next state and leaves the queue to the step. -/
theorem exec_pending {s : State} (h : Orderly s) (c : Instr) : ∃ t, exec c s = .next t ∧ t.pending = s.pending := by
  obtain ⟨hcells, hhost, hcount⟩ := h
  have hgood : Good s.pending s.fuses AnyRegs Eights Canon (view s) := ⟨rfl, rfl, trivial, hcount, hcells, hhost⟩
  obtain ⟨n, -, hout⟩ := exec_keeps hgood c (fun _ => rfl) (fun _ => rfl) (fun _ => rfl)
  obtain ⟨t, ht⟩ := exec_answers c s
  rw [ht] at hout
  obtain ⟨hpending, -⟩ := hout
  exact ⟨t, ht, hpending⟩

/-- Settles O2: by the frame of each command, and along a run by its length. -/
theorem everyCommandAnswers : Obligations.EveryCommandAnswers :=
  ⟨fun c _ h => exec_pending h c, safe_all⟩

end Sys2Proof
end

section
/-!
PROOF. The statements of the commands that rings carry for themselves: what a due, a held back and a wrong command does, the ordering
commands, SIGNAL on this device and between devices, QUERY and ABORT_CONTEXT.
-/
namespace Sys2Proof
open Machine

/-! ### A command of a ring that is due, held back or wrong (11 R314, R326, R336, R338) -/

/-- What running its row's meaning leaves is what the command leaves, but for what follows in the same step. -/
theorem exec_of_run {i : Instr} {op q : Nat} {d : Desc} {m : Meaning} {s t : State} (hrow : ringMeaning i = some (op, q, d, m))
    (hrun : runCmd op m q d s = t) : exec i s = .next (settled i t) := by
  rw [exec_of_ringMeaning hrow, hrun]

/-- Settles O9: a due command runs its body, which tells the phase that it has come to. -/
theorem dueCommandRuns : Obligations.DueCommandRuns := fun _ _ _ _ _ _ _ _ hrow hdue => exec_of_run hrow (runCmd_of_due hdue)

/-- Settles O10: a command that may not start leaves the state in which it is fetched. -/
theorem heldBackCommandStays : Obligations.HeldBackCommandStays := fun _ _ _ _ _ _ _ _ hrow hoffered hheld =>
  exec_of_run hrow (runCmd_of_held hoffered hheld)

/-- Settles O11: the first check that fails ends the command before its body runs. -/
theorem wrongCommandEnds : Obligations.WrongCommandEnds := fun _ _ _ _ _ _ _ _ _ hrow hoffered hstart herr =>
  exec_of_run hrow (runCmd_of_error hoffered hstart herr)

/-! ### A SIGNAL behind unfinished commands (11 R338) -/

/-- The sync objects, the remote SIGNALs on their way, the outputs and the fabric are as they were. -/
def SignalsKept (s t : State) : Prop :=
  t.qsu.sync = s.qsu.sync ∧ t.qsu.remote = s.qsu.remote ∧ t.out = s.out ∧ t.fab = s.fab

theorem SignalsKept.trans {s t u : State} (h : SignalsKept s t) (g : SignalsKept t u) : SignalsKept s u := by
  obtain ⟨hsync, hremote, hout, hfab⟩ := h
  obtain ⟨gsync, gremote, gout, gfab⟩ := g
  exact ⟨gsync.trans hsync, gremote.trans hremote, gout.trans hout, gfab.trans hfab⟩

/-- Casting the vote of a status changes at most the step. -/
theorem voteOfStatus_eq (q op : Nat) (st : Byte) (s : State) : ∃ upd, voteOfStatus q op st s = { s with upd := upd } := by
  simp only [voteOfStatus, voteStepBit, onStep]
  repeat' split
  all_goals exact ⟨_, rfl⟩

theorem signalsKept_voteOfStatus (q op : Nat) (st : Byte) (s : State) : SignalsKept s (voteOfStatus q op st s) := by
  obtain ⟨upd, he⟩ := voteOfStatus_eq q op st s
  rw [he]
  exact ⟨rfl, rfl, rfl, rfl⟩

/-- Fetching a descriptor touches its ring, the counters and the step alone. -/
theorem signalsKept_fetchDesc (q : Nat) (d : Desc) (s : State) : SignalsKept s (fetchDesc q d s) := by
  have hadd : SignalsKept s (addCmd q (fetchCmd s q d) s) := ⟨rfl, rfl, rfl, rfl⟩
  rw [fetchDesc]
  split
  · exact hadd.trans (signalsKept_voteOfStatus ..)
  · exact hadd

theorem signalsKept_of_fetchNow {q : Nat} {d : Desc} {s s0 : State} {c : Cmd} (h : fetchNow q d s = some (c, s0)) :
    SignalsKept s s0 := by
  unfold fetchNow at h
  dsimp only at h
  split at h
  · obtain ⟨x, -, he⟩ := Option.map_eq_some_iff.mp h
    obtain ⟨-, rfl⟩ := Prod.mk.inj he
    exact SignalsKept.trans (t := setRing q _ s) ⟨rfl, rfl, rfl, rfl⟩ (signalsKept_fetchDesc ..)
  · cases h

/-- A command that waits is offered in the state as it is, another in the state that its fetch leaves. -/
theorem signalsKept_of_offer {q : Nat} {d : Desc} {s s0 : State} {c : Cmd} (h : offer q d s = some (c, s0)) : SignalsKept s s0 := by
  have hself : SignalsKept s s := ⟨rfl, rfl, rfl, rfl⟩
  simp only [offer] at h
  split at h
  · split at h
    · cases h
      exact hself
    · cases h
  · split at h
    · split at h
      · cases h
        exact hself
      · exact signalsKept_of_fetchNow h
    · exact signalsKept_of_fetchNow h

/-- A SIGNAL behind a command that is not complete may not start. -/
theorem not_startable_of_signal {s : State} {r : Ring} {c : Cmd} (hop : Desc.opcode c.desc = opSignal) (he : earlier r c ≠ []) :
    startable s r c = false := by
  have hne : (earlier r c).isEmpty = false := by simpa using he
  simp [startable, hop, hne]

/-- Settles O14: the SIGNAL may not start, and offering it changes nothing that it would change. -/
theorem signalWaitsForEarlier : Obligations.SignalWaitsForEarlier := by
  intro q d s s0 c hoffered hearlier
  have hheld : startable s0 (ringOf s0 q) c = false := by
    obtain ⟨-, hop, hoffer⟩ := hoffered
    exact not_startable_of_signal (offer_desc hoffer ▸ hop) hearlier
  refine ⟨heldBackCommandStays (.signal q d) _ _ _ _ s s0 c rfl hoffered hheld, ?_⟩
  obtain ⟨-, -, hoffer⟩ := hoffered
  exact signalsKept_of_offer hoffer

/-! ### The ordering commands (11 R326, R339; 02 R38) -/

theorem fenceBody_of_clear {s : State} {r : Ring} {c : Cmd}
    (h : (bit c.desc.w2 0 && ctxBusyBefore s r.context.toNat c.order) = false) (q : Nat) :
    fenceBody q r c s = (.finished okResult, s) := by
  rw [fenceBody, h]
  rfl

theorem fenceBody_of_busy {s : State} {r : Ring} {c : Cmd}
    (h : (bit c.desc.w2 0 && ctxBusyBefore s r.context.toNat c.order) = true) (q : Nat) :
    fenceBody q r c s = (.waiting, s) := by
  rw [fenceBody, h]
  rfl

theorem waitBody_of_reached {s : State} {c : Cmd} (h : c.desc.w3.toNat ≤ (syncOf s (bits c.desc.w2 12 0)).value.toNat) (q : Nat)
    (r : Ring) : waitBody q r c s = (.finished okResult, s) := if_pos h

theorem waitBody_of_short {s : State} {c : Cmd} (h : (syncOf s (bits c.desc.w2 12 0)).value.toNat < c.desc.w3.toNat) (q : Nat)
    (r : Ring) : waitBody q r c s = (.started (now s), s) := if_neg (Nat.not_le.mpr h)

theorem waitTimeout_of_first {q t : Nat} {s : State} {c : Cmd} (hserving : serving s = true)
    (hfirst : firstTimeout (ringOf s q).cmds = some (t, c)) :
    waitTimeout q s = finish q c (stResult stTimeout) (advanceTo t s) := by
  simp only [waitTimeout, hfirst, hserving, if_true]

/-- Settles O13: each command by its body in the case of its clause. -/
theorem orderingCommandsComplete : Obligations.OrderingCommandsComplete := by
  refine ⟨fun q d s s0 c => ⟨fun h => ?nop, fun h hclear => ?fence, fun h hbusy => ?fenceWaits, fun h => ?tickMark⟩,
    fun q d s s0 c h => ⟨fun hreached => ?reached, fun hshort => ?short⟩,
    fun q t s c hserving hfirst => congrArg Host.Outcome.next (waitTimeout_of_first hserving hfirst)⟩
  case nop => exact exec_of_body (i := .nop q d) rfl rfl h rfl (by simp)
  all_goals obtain rfl := h.desc_eq
  case fence => exact exec_of_body (i := .fence q c.desc) rfl rfl h (fenceBody_of_clear hclear q) (by simp)
  case fenceWaits => exact exec_of_run (i := .fence q c.desc) rfl (runCmd_of_wait h (fenceBody_of_busy hbusy q))
  case tickMark => exact exec_of_body (i := .tickMark q c.desc) rfl rfl h rfl (by simp)
  case reached => exact exec_of_body (i := .wait q c.desc) rfl rfl h (waitBody_of_reached hreached q (ringOf s0 q)) (by simp)
  case short => exact exec_of_body (i := .wait q c.desc) rfl rfl h (waitBody_of_short hshort q (ringOf s0 q)) (by simp)

/-! ### SIGNAL on this device (11 R338) -/

theorem signalBody_of_set {s : State} {c : Cmd} (hlocal : sigRemote c.desc = false) (hset : sigSet c.desc = true) (q : Nat) (r : Ring) :
    signalBody q r c s = (.finished okResult,
      putSync (sigIndex c.desc) { syncOf s (sigIndex c.desc) with value := c.desc.w3 } s) := by
  simp [signalBody, signalLocal, hlocal, hset]

theorem signalBody_of_add {s : State} {c : Cmd} (hlocal : sigRemote c.desc = false) (hadd : sigSet c.desc = false) (q : Nat) (r : Ring) :
    signalBody q r c s =
      (.finished (mkResult stOk
        (if 2 ^ 64 ≤ (syncOf s (sigIndex c.desc)).value.toNat + c.desc.w3.toNat then flSyncSat else 0) 0 0),
       putSync (sigIndex c.desc)
        { syncOf s (sigIndex c.desc) with value := satAdd (syncOf s (sigIndex c.desc)).value c.desc.w3 } s) := by
  simp [signalBody, signalLocal, hlocal, hadd]

/-- Settles O15: a local SIGNAL by whether it sets or adds. -/
theorem signalCompletes : Obligations.SignalCompletes := by
  intro q d s s0 c h hlocal
  obtain rfl := h.desc_eq
  exact ⟨fun hset => exec_of_body (i := .signal q c.desc) rfl rfl h (signalBody_of_set hlocal hset q (ringOf s0 q)) (by simp),
    fun hadd => exec_of_body (i := .signal q c.desc) rfl rfl h (signalBody_of_add hlocal hadd q (ringOf s0 q)) (by simp)⟩

/-! ### SIGNAL between devices (11 R340; 09 R261, R264) -/

/-- An object that lets remote devices change it takes the value; another refuses, and the refusal is counted. -/
theorem remoteApply_of_ok {s : State} {i : Nat} {x : SyncObj} (hx : syncOf s i = x) (h : x.remoteOk = true) (v : W64) :
    remoteApply i v s = (false, putSync i { x with value := satAdd x.value v } s) := by
  subst hx
  exact if_pos h

theorem remoteApply_of_refused {s : State} {i : Nat} {x : SyncObj} (hx : syncOf s i = x) (h : x.remoteOk = false) (v : W64) :
    remoteApply i v s = (true, count (qsuCtr 8) 1 s) := by
  subst hx
  exact if_neg (by simp [h])

/-- A SIGNAL to another device leaves as a message and waits for the answer. -/
theorem signalBody_of_away {s : State} {c : Cmd} (hremote : sigRemote c.desc = true) (haway : sigDevice c.desc ≠ myDevice s) (q : Nat)
    (r : Ring) : signalBody q r c s = (.started (now s), sendTo (sigDevice c.desc)
      (signalMessage s (sigDevice c.desc) s.qsu.remoteSeq 0 (signalBytes (sigIndex c.desc) c.desc.w3 false false))
      { s with qsu := { s.qsu with
          remoteSeq := s.qsu.remoteSeq + 1
          remote := s.qsu.remote ++ [(sigDevice c.desc, s.qsu.remoteSeq, q, c.index)] } }) := by
  simp [signalBody, hremote, haway]

/-- One that names its own device does here what it would do at its target (log entry 91). -/
theorem signalBody_of_own {s t : State} {c : Cmd} {refused : Bool} (hremote : sigRemote c.desc = true)
    (hown : sigDevice c.desc = myDevice s) (happly : remoteApply (sigIndex c.desc) c.desc.w3 s = (refused, t)) (q : Nat) (r : Ring) :
    signalBody q r c s = (.finished (if refused then stResult stFault else okResult), t) := by
  simp [signalBody, hremote, hown, happly]

/-- The mark of a remote SIGNAL that has been taken: a message of its CMD up to this MSG_INDEX is a copy (09 R264). -/
def markSignal (source : Nat) (cmd k : W32) (t : State) : State :=
  { t with fab := { t.fab with marks := SMap.put t.fab.marks (dupKey source 0 noGroup cmd) (k.toNat + 1) } }

theorem syncOf_markSignal (source : Nat) (cmd k : W32) (t : State) (i : Nat) : syncOf (markSignal source cmd k t) i = syncOf t i := rfl

section
variable {source : Nat} {cmd k : W32} {v w1 : W64} {s t : State} (ha : alive s = true) (hreq : bit w1 50 = false)
  (ht : t = oweArrived (arrivalPort s source) 0 2 s)
include ha hreq ht

theorem remoteSignalReceive_of_copy (hk : k.toNat < SMap.get t.fab.marks (dupKey source 0 noGroup cmd) 0) :
    remoteSignalReceive source cmd k v w1 s = countDup source t := by
  subst ht
  simp [remoteSignalReceive, ha, hreq, hk]

/-- A message that is no copy is applied behind its mark, and the answer tells whether the object refused it. -/
theorem remoteSignalReceive_of_new (hk : SMap.get t.fab.marks (dupKey source 0 noGroup cmd) 0 ≤ k.toNat) {u : State} {refused : Bool}
    (happly : remoteApply (bits w1 63 51) v (markSignal source cmd k t) = (refused, u)) :
    remoteSignalReceive source cmd k v w1 s =
      sendTo source (signalMessage u source cmd k (signalBytes (bits w1 63 51) v true refused)) u := by
  subst ht
  rw [markSignal] at happly
  simp [remoteSignalReceive, ha, hreq, Nat.not_lt.mpr hk, happly]

end

/-- The answer ends the SIGNAL that waits for it. -/
theorem remoteSignalAnswer_of_waiting {source q : Nat} {cmd i : W32} {reject : Bool} {s t : State} {c : Cmd}
    (ht : t = oweArrived (arrivalPort s source) 0 2 s)
    (hremote : t.qsu.remote.find? (fun x => x.1 == source && x.2.1 == cmd) = some (source, cmd, q, i))
    (hc : (ringOf t q).cmds.find? (fun c => c.index == i && abortable c) = some c) :
    remoteSignalAnswer source cmd 0 reject s = finish q c (if reject then stResult stFault else okResult)
      { t with qsu := { t.qsu with remote := t.qsu.remote.filter fun y => y != (source, cmd, q, i) } } := by
  subst ht
  simp only [remoteSignalAnswer, beq_self_eq_true, Bool.and_true, hremote]
  simp only [ringOf] at hc ⊢
  rw [hc]

/-- Settles O16: the three places of a remote SIGNAL, each by its body in the case of its clause. -/
theorem remoteSignalsComplete : Obligations.RemoteSignalsComplete := by
  refine ⟨fun q d s s0 c h hremote => ?sender, fun source cmd k v w1 s t ha hreq ht => ?target,
    fun source q cmd i reject s t c ht hremote hc => congrArg Host.Outcome.next (remoteSignalAnswer_of_waiting ht hremote hc)⟩
  case sender =>
    obtain rfl := h.desc_eq
    refine ⟨fun haway => ?_, fun hown hok => ?_, fun hown hrefused => ?_⟩
    · exact exec_of_body (i := .signal q c.desc) rfl rfl h (signalBody_of_away hremote haway q (ringOf s0 q)) (by simp)
    · have happly := remoteApply_of_ok rfl hok c.desc.w3
      exact exec_of_body (i := .signal q c.desc) rfl rfl h (signalBody_of_own hremote hown happly q (ringOf s0 q)) (by simp)
    · have happly := remoteApply_of_refused rfl hrefused c.desc.w3
      exact exec_of_body (i := .signal q c.desc) rfl rfl h (signalBody_of_own hremote hown happly q (ringOf s0 q)) (by simp)
  case target =>
    refine ⟨fun hcopy => congrArg Host.Outcome.next (remoteSignalReceive_of_copy ha hreq ht hcopy), fun hnew =>
      ⟨markSignal source cmd k t, rfl, fun hok => ⟨_, rfl, ?_⟩, fun hrefused => ⟨_, rfl, ?_⟩⟩⟩
    · have happly := remoteApply_of_ok (syncOf_markSignal source cmd k t _) hok v
      exact congrArg Host.Outcome.next (remoteSignalReceive_of_new ha hreq ht hnew happly)
    · have happly := remoteApply_of_refused (syncOf_markSignal source cmd k t _) hrefused v
      exact congrArg Host.Outcome.next (remoteSignalReceive_of_new ha hreq ht hnew happly)

/-! ### QUERY and ABORT_CONTEXT (11 Table 11.7, R345) -/

theorem queryBody_of_hostOk {s : State} {r : Ring} (h : hostOk s r.context.toNat = true) (q : Nat) (c : Cmd) :
    queryBody q r c s =
      (.finished { okResult with
        detail := BitVec.ofNat 32 ((queryAnswer s (bits c.desc.w3 63 56) (bits c.desc.w4 19 0)).take (bits c.desc.w3 31 0)).length },
       hostWrite s c.desc.w2.toNat ((queryAnswer s (bits c.desc.w3 63 56) (bits c.desc.w4 19 0)).take (bits c.desc.w3 31 0))) :=
  if_pos h

/-- Settles O17: QUERY by its access to host memory, ABORT_CONTEXT by whether its target is drained. -/
theorem queryAndAbortComplete : Obligations.QueryAndAbortComplete := by
  refine fun q d s s0 c => ⟨fun h hok => ?query, fun h => ?abort⟩
  all_goals obtain rfl := h.desc_eq
  case query => exact exec_of_body (i := .query q c.desc) rfl rfl h (queryBody_of_hostOk hok q c) (by simp)
  case abort => exact exec_of_body (i := .abortContext q c.desc) rfl rfl h rfl (by split <;> simp)

end Sys2Proof
end

section
/-!
PROOF. The statements of the set-up and service of the queues: the operations of the table port, FETCH_EN, doorbell lines, head words and
disabled rings, and the record of a ring's oldest command.
-/
namespace Sys2Proof
open Machine

/-! ### The table port (11 R319, Tables 11.1, 11.2) -/

@[simp] theorem dropHeld_qsu (off size : Nat) (s : State) : (dropHeld off size s).qsu = s.qsu := by
  obtain ⟨held, bad, he⟩ := dropHeld_eq off size s
  rw [he]

@[simp] theorem dropHeld_cacheMem (off size : Nat) (s : State) : (dropHeld off size s).glb.cacheMem = s.glb.cacheMem := by
  obtain ⟨held, bad, he⟩ := dropHeld_eq off size s
  rw [he]

/-- What the link carries for a context, and what it reads of host memory, does not depend on a held low word. -/
theorem cacheOk_dropHeld (off size : Nat) (s : State) (k : Nat) : cacheOk (dropHeld off size s) k = cacheOk s k := by
  obtain ⟨held, bad, he⟩ := dropHeld_eq off size s
  rw [he]
  rfl

theorem hostNat_dropHeld (off size : Nat) (s : State) (a n : Nat) : hostNat (dropHeld off size s) a n = hostNat s a n := by
  obtain ⟨held, bad, he⟩ := dropHeld_eq off size s
  rw [he]
  rfl

section
variable {s t : State} (hq : t.qsu = s.qsu)
include hq

/-- States with the same queues select the same entry, with the same words in it. -/
theorem tblTable_of_qsu : tblTable t = tblTable s := by rw [tblTable, tblTable, hq]

theorem tblIndex_of_qsu : tblIndex t = tblIndex s := by rw [tblIndex, tblIndex, hq]

theorem tblWord_of_qsu : tblWord t = tblWord s := by
  funext i
  rw [tblWord, tblWord, hq]

theorem ringOf_of_qsu (q : Nat) : ringOf t q = ringOf s q := by rw [ringOf, ringOf, hq]

theorem ctxOf_of_qsu (k : Nat) : ctxOf t k = ctxOf s k := by rw [ctxOf, ctxOf, hq]

theorem syncOf_of_qsu (i : Nat) : syncOf t i = syncOf s i := by rw [syncOf, syncOf, hq]

theorem tblWriteRefused_of_qsu : tblWriteRefused t = tblWriteRefused s := by
  simp only [tblWriteRefused, tblTable_of_qsu hq, tblIndex_of_qsu hq, ringOf_of_qsu hq, hq]

theorem enableRefused_of_qsu (q : Nat) : enableRefused t q = enableRefused s q := by
  simp only [enableRefused, stageTaken, ringOf_of_qsu hq, ctxOf_of_qsu hq, hq]

end

/-- The entry selected in each of the three tables exists, as far as its index allows. -/
theorem tblExists_of_ring {s : State} (htable : tblTable s = 0) : tblExists s = true := by simp [tblExists, htable]

theorem tblExists_of_ctx {s : State} (htable : tblTable s = 1) (hi : tblIndex s < 40960) : tblExists s = true := by
  simp [tblExists, htable, hi]

theorem tblExists_of_sync {s : State} (htable : tblTable s = 2) (hi : tblIndex s < 8192) : tblExists s = true := by
  simp [tblExists, htable, hi]

/-! WRITE -/

theorem tblWrite_of_ring {s : State} (htable : tblTable s = 0) (hdead : ringLive (ringOf s (tblIndex s)) = false) :
    tblWrite s = tblResult 1 (setRing (tblIndex s) ((ringOf s (tblIndex s)).setWords (tblWord s)) s) := by
  simp [tblWrite, tblExists_of_ring htable, tblWriteRefused, htable, hdead]

theorem tblWrite_of_ctx {s : State} (htable : tblTable s = 1) (hi : tblIndex s < 40960) (hfree : tblWriteRefused s = false) :
    tblWrite s = tblResult 1 (if bit (tblWord s 0) 63
      then readCqHead (tblIndex s) (setCtx (tblIndex s) ((ctxOf s (tblIndex s)).setWords (tblWord s)) s)
      else setCtx (tblIndex s) ((ctxOf s (tblIndex s)).setWords (tblWord s)) s) := by
  simp only [tblWrite, tblExists_of_ctx htable hi, hfree, htable, Bool.not_true, Bool.false_eq_true, if_false]
  rfl

theorem tblWrite_of_sync {s : State} (htable : tblTable s = 2) (hi : tblIndex s < 8192) :
    tblWrite s = tblResult 1 (putSync (tblIndex s) { value := tblWord s 0, remoteOk := bit (tblWord s 1) 0 } s) := by
  simp [tblWrite, tblExists_of_sync htable hi, tblWriteRefused, htable]

/-! READ -/

theorem tblRead_of_ring {s : State} (htable : tblTable s = 0) :
    tblRead s = tblResult 1 (setTblData (ringOf s (tblIndex s)).words s) := by
  simp [tblRead, tblExists_of_ring htable, htable]

theorem tblRead_of_ctx {s : State} (htable : tblTable s = 1) (hi : tblIndex s < 40960) :
    tblRead s = tblResult 1 (setTblData (ctxOf s (tblIndex s)).words s) := by
  simp [tblRead, tblExists_of_ctx htable hi, htable]

theorem tblRead_of_sync {s : State} (htable : tblTable s = 2) (hi : tblIndex s < 8192) :
    tblRead s = tblResult 1 (setTblData (syncOf s (tblIndex s)).words s) := by
  simp [tblRead, tblExists_of_sync htable hi, htable]

/-! ENABLE and DISABLE -/

/-- A disabled ring that no rule keeps from it starts empty at the tail that its tail word gives. -/
theorem tblEnable_of_disabled {s : State} (htable : tblTable s = 0) (hstate : (ringOf s (tblIndex s)).state = .disabled)
    (hidle : (ringOf s (tblIndex s)).disabling = false) (hallowed : enableRefused s (tblIndex s) = false)
    (hcache : cacheOk s (ringOf s (tblIndex s)).context.toNat = true) {tail : W32}
    (htail : tail = BitVec.ofNat 32 (hostNat s ((ringOf s (tblIndex s)).tailAddr.toNat * 8) 4)) :
    tblEnable s = tblResult 1 (setRing (tblIndex s) { ringOf s (tblIndex s) with
      state := .enabled, head := tail, done := tail, tail := tail, maxSeen := 0, cmds := [] } (count (qsuCtr 1) 1 s)) := by
  subst htail
  simp [tblEnable, htable, hstate, hidle, hallowed, hcache]

theorem tblDisable_of_runs {s : State} (htable : tblTable s = 0) (hruns : ringRuns (ringOf s (tblIndex s)) = true) :
    tblDisable s = tblResult 1 (setRing (tblIndex s) { ringOf s (tblIndex s) with disabling := true } s) := by
  rw [ringRuns] at hruns
  simp [tblDisable, htable, hruns]

/-- Settles O28: the write of QSU_TBL_OP reaches its block, and dropping a held low word has changed nothing that an operation looks at. -/
theorem tablePortCompletes : Obligations.TablePortCompletes := by
  intro s t hreach ht
  have hreaches (f : State → State) : onBus 0x60038 4 f s = f t := ht ▸ onBus_of_reaches f rfl hreach
  have hq : t.qsu = s.qsu := by rw [ht, dropHeld_qsu]
  have hcacheOk (k : Nat) : cacheOk t k = cacheOk s k := by rw [ht, cacheOk_dropHeld]
  have hhostNat (a n : Nat) : hostNat t a n = hostNat s a n := by rw [ht, hostNat_dropHeld]
  have hwrite : exec .qsuTblWrite s = .next (tblWrite t) := congrArg Host.Outcome.next (hreaches tblWrite)
  have hread : exec .qsuTblRead s = .next (tblRead t) := congrArg Host.Outcome.next (hreaches tblRead)
  have henable : exec .qsuTblEnable s = .next (tblEnable t) := congrArg Host.Outcome.next (hreaches tblEnable)
  have hdisable : exec .qsuTblDisable s = .next (tblDisable t) := congrArg Host.Outcome.next (hreaches tblDisable)
  rw [hwrite, hread, henable, hdisable]
  simp only [← tblTable_of_qsu hq, ← tblIndex_of_qsu hq, ← tblWord_of_qsu hq, ← tblWriteRefused_of_qsu hq, ← ringOf_of_qsu hq,
    ← ctxOf_of_qsu hq, ← syncOf_of_qsu hq, ← enableRefused_of_qsu hq, ← hcacheOk, ← hhostNat]
  refine ⟨fun htable hdead => ?writeRing, fun htable hi hfree => ⟨_, rfl, ?writeCtx⟩, fun htable hi => ?writeSync,
    fun htable => ?readRing, fun htable hi => ?readCtx, fun htable hi => ?readSync,
    fun htable hstate hidle hallowed hcache => ⟨_, rfl, ?enable⟩, fun htable hruns => ?disable⟩
  case writeRing => rw [tblWrite_of_ring htable hdead]
  case writeCtx => rw [tblWrite_of_ctx htable hi hfree]
  case writeSync => rw [tblWrite_of_sync htable hi]
  case readRing => rw [tblRead_of_ring htable]
  case readCtx => rw [tblRead_of_ctx htable hi]
  case readSync => rw [tblRead_of_sync htable hi]
  case enable => rw [tblEnable_of_disabled htable hstate hidle hallowed hcache rfl]
  case disable => rw [tblDisable_of_runs htable hruns]

/-! ### FETCH_EN, disabled rings, doorbells and head words (11 R319, R322, R341; 12 R349) -/

/-- Where the link carries CXL.cache, FETCH_EN takes the level-1 lines and passes over all four. -/
theorem fetchEnable_of_cache {s : State} (hen : s.qsu.fetchEn = false) (hflr : s.glb.flr = false) (hcache : s.glb.cacheMem = true) :
    fetchEnable s = fetchAll (doorbellLine 3 (doorbellLine 2 (doorbellLine 1 (doorbellLine 0
      (count (qsuCtr 0) 1 { s with qsu := { s.qsu with fetchEn := true, l1Held := true } }))))) := by
  simp [fetchEnable, hen, hflr, hcache]

theorem fetchEnable_of_no_cache {s : State} (hen : s.qsu.fetchEn = false) (hflr : s.glb.flr = false) (hcache : s.glb.cacheMem = false) :
    fetchEnable s = { s with qsu := { s.qsu with fetchEn := true } } := by
  simp [fetchEnable, hen, hflr, hcache]

theorem ringDisabled_of_done {q : Nat} {s : State} (hdisabling : (ringOf s q).disabling = true)
    (hdone : (ringOf s q).done = (ringOf s q).head) :
    ringDisabled q s = setRing q { ringOf s q with state := .disabled, disabling := false } s := by
  simp [ringDisabled, hdisabling, hdone]

theorem doorbell_of_serving {line : Nat} {s : State} (hserving : serving s = true) (hen : s.qsu.fetchEn = true) (hline : line < 4)
    (cs : List Host.Cell) : doorbell line cs s =
      fetchAll (doorbellLine line (count (qsuCtr 0) 1 { s with host := Memory.stores s.host cs })) := by
  have hserving' : serving { s with host := Memory.stores s.host cs } = true := hserving
  simp [doorbell, hserving', hen, hline]

theorem readCqHead_of_ok {k : Nat} {s : State} (h : cacheOk s k = true) : readCqHead k s =
    setCtx k { ctxOf s k with cqHead := BitVec.ofNat 32 (hostNat s ((ctxOf s k).cqHeadAddr.toNat * 8) 4) } s := by
  simp [readCqHead, h]

theorem cqHeadUpdate_of_serving {k : Nat} {s : State} (hserving : serving s = true) (hvalid : (ctxOf s k).valid = true)
    (cs : List Host.Cell) : cqHeadUpdate k cs s = readCqHead k { s with host := Memory.stores s.host cs } := by
  have hboth : (serving { s with host := Memory.stores s.host cs } && (ctxOf { s with host := Memory.stores s.host cs } k).valid) = true :=
    Bool.and_eq_true_iff.mpr ⟨hserving, hvalid⟩
  exact if_pos hboth

/-- Settles O29: FETCH_EN by whether the link carries CXL.cache, each other service by its equation. -/
theorem ringServiceCompletes : Obligations.RingServiceCompletes := by
  refine ⟨fun s hreach hen hflr => ⟨_, rfl, fun hcache => ?cache, fun hcache => ?noCache⟩,
    fun q s hdisabling hdone => congrArg Host.Outcome.next (ringDisabled_of_done hdisabling hdone),
    fun line cs s hserving hen hline => congrArg Host.Outcome.next (doorbell_of_serving hserving hen hline cs),
    fun k cs s hserving hvalid hcache => congrArg Host.Outcome.next ?headWord⟩
  case headWord =>
    exact (cqHeadUpdate_of_serving hserving hvalid cs).trans
      (readCqHead_of_ok (s := { s with host := Memory.stores s.host cs }) hcache)
  all_goals
    have hexec : exec .fetchEnSet s = .next (fetchEnable (dropHeld 0x60000 4 s)) :=
      congrArg Host.Outcome.next (onBus_of_reaches fetchEnable rfl hreach)
    rw [hexec]
  case cache => rw [fetchEnable_of_cache (by simpa using hen) (by simpa using hflr) (by simpa using hcache)]
  case noCache => rw [fetchEnable_of_no_cache (by simpa using hen) (by simpa using hflr) (by simpa using hcache)]

/-! ### The record of a ring's oldest command (11 R341, R342) -/

section
variable {q : Nat} {s : State} {c : Cmd} {rest : List Cmd} {res : Result} {x : Ctx} (hcmds : (ringOf s q).cmds = c :: rest)
  (hphase : c.phase = .finished res) (hx : x = ctxOf s (ringOf s q).context.toNat) (hring : cqFailed s (ringOf s q) = false)
  (hcache : cacheOk s (ringOf s q).context.toNat = true) (hrecord : (Desc.quiet c.desc && res.status = stOk) = false)
include hcmds hphase hx hring hcache hrecord

/-- With a free slot the record is written there, and the command leaves its ring. -/
theorem completeHead_of_free (hfree : ringFull x.cqTail x.cqHead x.cqLog2.toNat = false) {t : State}
    (ht : t = popCmd q (traceDone (ringOf s q) c res (count (qsuCtr 6) 1
      (setCtx (ringOf s q).context.toNat { x with cqTail := x.cqTail + 1 }
        (hostWrite s (x.cqAddr + 32 * (x.cqTail.toNat % 2 ^ x.cqLog2.toNat)) (recordBytes s q c x res)))))) :
    completeHead q s = (true, if Desc.irq c.desc then request x.vector.toNat t else t) := by
  subst ht hx
  simp only [completeHead, hcmds, hphase, hring, hrecord, hcache, hfree, Bool.or_false, Bool.not_true, Bool.false_eq_true, if_false]

/-- On a full completion ring the command stays, and the first time it is counted as held. -/
theorem completeHead_of_full (hfull : ringFull x.cqTail x.cqHead x.cqLog2.toNat = true) :
    completeHead q s = (false, if c.held then s
      else count (qsuCtr 7) 1 (setCmd q c.index (fun y => { y with held := true }) s)) := by
  subst hx
  simp only [completeHead, hcmds, hphase, hring, hrecord, hcache, hfull, Bool.or_false, Bool.not_true, Bool.false_eq_true, if_false,
    if_true]

end

/-- COMMAND_COMPLETE goes on to fetch where the command has left its ring. -/
theorem commandComplete_of_left {q : Nat} {s t : State} (hserving : serving s = true) (h : completeHead q s = (true, t)) :
    commandComplete q s = settleAborts (fetchAll t) := by
  simp [commandComplete, hserving, h]

theorem commandComplete_of_stays {q : Nat} {s t : State} (hserving : serving s = true) (h : completeHead q s = (false, t)) :
    commandComplete q s = t := by
  simp [commandComplete, hserving, h]

/-- Settles O30: by whether the completion ring has a free slot, and on a full one by whether the command has been held before. -/
theorem oldestCommandCompletes : Obligations.OldestCommandCompletes := by
  intro q s c rest res x hserving hcmds hphase hx hring hcache hrecord
  refine ⟨fun hfree => ⟨_, rfl, congrArg (fun t => Host.Outcome.next (settleFlr t)) ?_⟩,
    fun hfull hheld => congrArg (fun t => Host.Outcome.next (settleFlr t)) ?_,
    fun hfull hheld => congrArg (fun t => Host.Outcome.next (settleFlr t)) ?_⟩
  · exact commandComplete_of_left hserving (completeHead_of_free hcmds hphase hx hring hcache hrecord hfree rfl)
  · rw [commandComplete_of_stays hserving (completeHead_of_full hcmds hphase hx hring hcache hrecord hfull), hheld]
    exact if_neg Bool.false_ne_true
  · rw [commandComplete_of_stays hserving (completeHead_of_full hcmds hphase hx hring hcache hrecord hfull), hheld]
    exact if_pos rfl

end Sys2Proof
end

section
/-!
PROOF. The statements of the host link and its registers: what commands leave alone, host writes that are dropped, commits and discards of
agreement groups, the safe points at which groups apply, and the registers' bits by access type.
-/
namespace Sys2Proof
open Machine

/-! ### What a command of a class leaves alone (12 R363, 14 R404) -/

/-- An orderly state is good for whatever holds of its active registers, its time base and its module memory. -/
theorem good_of_orderly {A : Staged → Prop} {T : W64 → Prop} {C : List Host.Cell → Prop} {s : State} (h : Orderly s) (hact : A s.act)
    (hcount : T s.clk.count) (hcells : C s.mem.cells) : Good s.pending s.fuses A T C (view s) := by
  obtain ⟨-, hhost, -⟩ := h
  exact ⟨rfl, rfl, hact, hcount, hcells, hhost⟩

/-- What holds of the active registers, the time base and module memory before a command holds after it, where the command's class leaves
each alone or what holds is no more than their order. -/
theorem exec_next_keeps {A : Staged → Prop} {T : W64 → Prop} {C : List Host.Cell → Prop} {c : Instr} {s t : State}
    (he : exec c s = .next t) (h : Good s.pending s.fuses A T C (view s)) (hregs : mayApplyGroups c = true → A = AnyRegs)
    (htime : mayMoveTime c = true → T = Eights) (hmem : mayWriteDevice c = true → C = Canon) :
    A t.act ∧ T t.clk.count ∧ C t.mem.cells := by
  obtain ⟨n, -, hout⟩ := exec_keeps h c hregs htime hmem
  rw [he] at hout
  obtain ⟨-, -, hact, hcount, hcells, -⟩ := hout
  exact ⟨hact, hcount, hcells⟩

/-- Settles O7: each part alone is followed as the one value it has, beside the order of the others. -/
theorem commandFrames : Obligations.CommandFrames := by
  intro c s t h he
  have ⟨hcells, _, hcount⟩ := h
  refine ⟨fun hc => ?act, fun hc a => ?cells, fun hc => ?count⟩
  case act =>
    have hgood := good_of_orderly (A := (· = s.act)) (T := Eights) (C := Canon) h rfl hcount hcells
    obtain ⟨hact, -, -⟩ := exec_next_keeps he hgood (by simp [hc]) (fun _ => rfl) fun _ => rfl
    exact hact
  case cells =>
    have hgood := good_of_orderly (A := AnyRegs) (T := Eights) (C := (· = s.mem.cells)) h trivial hcount rfl
    obtain ⟨-, -, hsame⟩ := exec_next_keeps he hgood (fun _ => rfl) (fun _ => rfl) (by simp [hc])
    rw [hsame]
  case count =>
    have hgood := good_of_orderly (A := AnyRegs) (T := (· = s.clk.count)) (C := Canon) h trivial rfl hcells
    obtain ⟨-, hsame, -⟩ := exec_next_keeps he hgood (fun _ => rfl) (by simp [hc]) fun _ => rfl
    exact hsame

/-- A command that spares both memories changes no part of the view, in an orderly state or not. -/
theorem exec_view_of_sparesMemory {c : Instr} (h : sparesMemory c = true) (s : State) : outView (exec c s) = some (view s) := by
  cases c
  case migrate => exact execMigrate_view _ _ s
  case doneSymbolReceive => exact execDoneSymbolReceive_view _ _ _ s
  case productTableBuild => exact execProductTableBuild_view _ s
  case rootComputeStart => exact execRootComputeStart_view _ _ _ s
  case rootComputeDone => exact execRootComputeDone_view _ _ _ s
  case qsuTblRead => exact execQsuTblRead_view s
  case qsuTblEnable => exact execQsuTblEnable_view s
  case qsuTblDisable => exact execQsuTblDisable_view s
  case ringDisabled => exact execRingDisabled_view _ s
  case cmtDiscard => exact execCmtDiscard_view _ s
  case tkcRunSet => exact execTkcRunSet_view s
  case tkcRunClear => exact execTkcRunClear_view s
  case traceRunSet => exact execTraceRunSet_view s
  case crumbMramWrite => exact execCrumbMramWrite_view s
  case timeRequestReceive => exact execTimeRequestReceive_view _ _ _ s
  case atsInvalidation => exact execAtsInvalidation_view _ _ s
  case pwrFailEnd => exact execPwrFailEnd_view s
  case perstRelease => exact execPerstRelease_view s
  case fabricReady => exact execFabricReady_view s
  case spdmRequest => exact execSpdmRequest_view _ _ s
  case ideKmKey => exact execIdeKmKey_view _ _ _ s
  case mctpControl => exact execMctpControl_view _ _ s
  case pldmBase => exact execPldmBase_view _ s
  case pldmSensorRead => exact execPldmSensorRead_view _ s
  case pldmFruRead => exact execPldmFruRead_view s
  case pldmCrumbRange => exact execPldmCrumbRange_view s
  case pldmCrumbEntries => exact execPldmCrumbEntries_view _ _ s
  case sensorRefresh => exact execSensorRefresh_view _ _ s
  case thermalThrottleEnd => exact execThermalThrottleEnd_view s
  all_goals cases h

/-- Settles O8: all that the statement names is in the view. -/
theorem memoriesSpared : Obligations.MemoriesSpared := by
  intro c s t hc he
  have hview := exec_view_of_sparesMemory hc s
  rw [he, outView_next, Option.some_inj] at hview
  have hcells : t.mem.cells = s.mem.cells := congrArg View.cells hview
  have hhost : t.host = s.host := congrArg View.host hview
  exact ⟨fun a => by rw [hcells], fun a => by rw [hhost], congrArg View.count hview, congrArg View.act hview,
    congrArg View.fuses hview⟩

/-! ### Host writes that are dropped (12 R361, R362) -/

section
variable {off size : Nat} {s : State} (hpower : s.pwr.powered = true) (htrip : s.pwr.tripped = false) (f : State → State)
include hpower htrip

theorem onBus_of_misaligned (h : alignedAccess off size = false) :
    onBus off size f s =
      { dropHeld off size s with glb := { (dropHeld off size s).glb with badAccess := true } } := by
  simp [onBus, busWrite, hpower, htrip, h]

theorem onBus_of_early (h : alignedAccess off size = true) (hstate : s.glb.state ≠ .ready) (hblock : earlyBlock off = false)
    (hin : inBlock off = true) :
    onBus off size f s =
      { dropHeld off size s with glb := { (dropHeld off size s).glb with earlyAccess := true } } := by
  simp [onBus, busWrite, hpower, htrip, h, dropHeld_state, hstate, hblock, hin]

end

/-- Settles O12: whichever register is addressed, the bus drops the write. -/
theorem droppedWrites : Obligations.DroppedWrites := fun _ _ _ _ hpower htrip =>
  ⟨fun h => congrArg Host.Outcome.next (onBus_of_misaligned hpower htrip _ h),
    fun h hstate hblock hin => congrArg Host.Outcome.next (onBus_of_early hpower htrip _ h hstate hblock hin)⟩

/-! ### Commits and discards (12 R363-R365) -/

@[simp] theorem dropHeld_cmt (off size : Nat) (s : State) : (dropHeld off size s).cmt = s.cmt := by
  obtain ⟨held, bad, he⟩ := dropHeld_eq off size s
  rw [he]

/-- A bit that is set reads as set. -/
theorem getLsbD_putBit_true {w : Nat} (x : BitVec w) {i : Nat} (hi : i < w) : (putBit x i true).getLsbD i = true := by
  rw [putBit, if_pos rfl, BitVec.getLsbD_or, BitVec.getLsbD_ofNat, Nat.testBit_two_pow_self]
  simp [hi]

/-- Whether group `g` waits is bit `g` of CMT_PENDING. -/
theorem groupPending_eq (s : State) (g : Nat) : groupPending s g = s.cmt.pending.getLsbD g := rfl

/-- The word of one group names that group alone. -/
theorem groups_of_one : ∀ g < 13, (List.range 13).filter (fun i => (1#64 <<< g).getLsbD i) = [g] := by decide

theorem cmtCommit_of_one {g : Nat} (hg : g < 13) (s : State) : cmtCommit (1#64 <<< g) s = applyNow (commitGroup s g) g := by
  simp only [cmtCommit, allGroups, groups_of_one g hg, List.foldl_cons, List.foldl_nil]

theorem cmtDiscard_of_one {g : Nat} (hg : g < 13) (s : State) : cmtDiscard (1#64 <<< g) s = discardGroup s g := by
  simp only [cmtDiscard, allGroups, groups_of_one g hg, List.foldl_cons, List.foldl_nil]

section
variable {s : State} {g : Nat}

theorem commitGroup_of_free (h : s.cmt.pending.getLsbD g = false) :
    commitGroup s g = { s with cmt := { s.cmt with pending := putBit s.cmt.pending g true } } := by
  simp [commitGroup, groupPending_eq, h]

theorem commitGroup_of_pending (h : s.cmt.pending.getLsbD g = true) :
    commitGroup s g = { s with cmt := { s.cmt with stagedReject := satInc s.cmt.stagedReject } } := by
  simp [commitGroup, groupPending_eq, h]

theorem discardGroup_of_free (h : s.cmt.pending.getLsbD g = false) :
    discardGroup s g =
      { s with pend := applyFields g s.pend s.act, cmt := { s.cmt with dirty := putBit s.cmt.dirty g false } } := by
  simp [discardGroup, groupPending_eq, h]

theorem discardGroup_of_pending (h : s.cmt.pending.getLsbD g = true) :
    discardGroup s g = { s with cmt := { s.cmt with stagedReject := satInc s.cmt.stagedReject } } := by
  simp [discardGroup, groupPending_eq, h]

end

/-! ### Safe points (12 R363, Table 12.8) -/

section
variable {s : State} {g : Nat}

/-- A group that does not wait does not apply. -/
theorem applyNow_of_free (h : s.cmt.pending.getLsbD g = false) : applyNow s g = s := by simp [applyNow, groupPending_eq, h]

/-- The sampling group applies only at a sample. -/
theorem applyNow_sampling : applyNow s 12 = s := by simp [applyNow]

theorem applyNow_seed (h : s.cmt.pending.getLsbD 1 = true) : applyNow s 1 = applyGroup 1 s := by
  simp [applyNow, groupPending_eq, h]

theorem applyNow_routing (h : s.cmt.pending.getLsbD 10 = true) : applyNow s 10 = deliverAll (idleDisabled (applyGroup 10 s)) := by
  simp [applyNow, groupPending_eq, h]

theorem applyNow_timing (h : s.cmt.pending.getLsbD 0 = true) (hstop : tickStopped s = true) :
    applyNow s 0 = applyTiming none s := by
  simp [applyNow, groupPending_eq, h, hstop]

theorem applyNow_time (h : s.cmt.pending.getLsbD 8 = true) (hstop : tickStopped s = true) : applyNow s 8 = applyTime s := by
  simp [applyNow, groupPending_eq, h, hstop]

theorem applyNow_cap (h : s.cmt.pending.getLsbD 9 = true) (hstop : tickStopped s = true) : applyNow s 9 = applyCap s := by
  simp [applyNow, groupPending_eq, h, hstop]

theorem applyNow_queues (h : s.cmt.pending.getLsbD 7 = true) (hring : noRing s = true) : applyNow s 7 = applyGroup 7 s := by
  simp [applyNow, groupPending_eq, h, hring]

theorem applyNow_trace (h : s.cmt.pending.getLsbD 11 = true) (hstop : s.obs.traceState = .stopped) :
    applyNow s 11 = applyTrace s := by
  simp [applyNow, groupPending_eq, h, hstop]

theorem applyNow_topo (h : s.cmt.pending.getLsbD 5 = true) (hgraph : s.ple.images = []) : applyNow s 5 = applyTopo s := by
  simp [applyNow, groupPending_eq, h, noGraph, hgraph]

/-- The groups whose safe point is that no graph is loaded, and whose values are not checked. -/
theorem applyNow_of_noGraph (hg : g = 2 ∨ g = 3 ∨ g = 4 ∨ g = 6) (h : s.cmt.pending.getLsbD g = true)
    (hgraph : s.ple.images = []) : applyNow s g = applyGroup g s := by
  rcases hg with rfl | rfl | rfl | rfl <;> simp [applyNow, groupPending_eq, h, noGraph, hgraph]

end

/-- Settles O32: a commit or discard of one group is that group's own; each by whether the group waits. -/
theorem commitsComplete : Obligations.CommitsComplete := by
  refine ⟨fun gs s t hreach ht => ?commit, fun g s t hg hreach ht => ?discard⟩
  case commit =>
    have hexec : exec (.cmtCommit gs) s = .next (cmtCommit gs t) :=
      congrArg Host.Outcome.next (ht ▸ onBus_of_reaches (cmtCommit gs) rfl hreach)
    have hcmt : t.cmt = s.cmt := by rw [ht, dropHeld_cmt]
    rw [hexec, ← hcmt]
    refine ⟨rfl, ?seed, ?waits, ?rejected⟩
    case seed =>
      rintro rfl hfree
      rw [show (2 : W64) = 1#64 <<< 1 from rfl, cmtCommit_of_one (by omega), commitGroup_of_free hfree,
        applyNow_seed (getLsbD_putBit_true _ (by omega))]
      rfl
    case waits =>
      rintro rfl hfree
      rw [show (0x1000 : W64) = 1#64 <<< 12 from rfl, cmtCommit_of_one (by omega), applyNow_sampling, commitGroup_of_free hfree]
    case rejected =>
      rintro rfl hpending
      rw [show (0x1000 : W64) = 1#64 <<< 12 from rfl, cmtCommit_of_one (by omega), applyNow_sampling,
        commitGroup_of_pending hpending]
  case discard =>
    have hexec : exec (.cmtDiscard (1#64 <<< g)) s = .next (cmtDiscard (1#64 <<< g) t) :=
      congrArg Host.Outcome.next (ht ▸ onBus_of_reaches (cmtDiscard (1#64 <<< g)) rfl hreach)
    have hcmt : t.cmt = s.cmt := by rw [ht, dropHeld_cmt]
    rw [hexec, cmtDiscard_of_one hg, ← hcmt]
    exact ⟨fun hfree => by rw [discardGroup_of_free hfree], fun hpending => by rw [discardGroup_of_pending hpending]⟩

/-! ### Groups that apply or are refused (12 R364; 02 R34, 09 R286, 14 R410, R413, 15 R442) -/

theorem exec_cmtGroupApply_of_alive {s : State} (h : alive s = true) (g : Nat) :
    exec (.cmtGroupApply g) s = .next (applyNow s g) :=
  congrArg Host.Outcome.next (if_pos h)

section
variable {s : State}

theorem applyTiming_of_fits (h : timingBad s.pend.tick none = false) : applyTiming none s = applyGroup 0 s := by
  simp [applyTiming, h]

theorem applyTiming_of_bad (h : timingBad s.pend.tick none = true) :
    applyTiming none s = refuseGroup 0 { s with tkc := { s.tkc with cfgRefused := true } } := by
  simp [applyTiming, h]

theorem applyCap_of_fits (h : 1000 ≤ s.pend.capW.toNat ∧ s.pend.capW.toNat ≤ 2500) : applyCap s = applyGroup 9 s := if_pos h

theorem applyCap_of_bad (h : s.pend.capW.toNat < 1000 ∨ 2500 < s.pend.capW.toNat) :
    applyCap s = refuseGroup 9 { s with pwr := { s.pwr with capRefused := true } } := if_neg (by omega)

theorem applyTrace_of_fits (h : traceBad s = false) : applyTrace s = applyGroup 11 s := by simp [applyTrace, h]

theorem applyTrace_of_bad (h : traceBad s = true) :
    applyTrace s = refuseGroup 11 { s with obs := { s.obs with traceRefused := true } } := by
  simp [applyTrace, h]

theorem applyTopo_of_bad (h : topoOk s.pend.topo = false) :
    applyTopo s = refuseGroup 5 { s with fab := { s.fab with topoRefused := true } } := by
  simp [applyTopo, h]

theorem applyTime_of_bad (h : 1 < s.pend.timeMode.toNat) :
    applyTime s = refuseGroup 8 { s with clk := { s.clk with cfgRefused := true } } := if_neg (by omega)

/-- After a group has applied to an orderly state, its active registers are the pending ones, and the state is good for that. -/
theorem applyGroup_good_act (h : Orderly s) (g : Nat) :
    Good s.pending s.fuses (· = applyFields g s.act s.pend) (fun _ => True) (fun _ => True) (view (applyGroup g s)) := by
  obtain ⟨-, hhost, -⟩ := h
  exact ⟨rfl, rfl, rfl, trivial, trivial, hhost⟩

/-- Losing lock, training the ports and finding lock again leave the active registers to the group that has applied. -/
theorem applyTopo_act (h : Orderly s) (hok : topoOk s.pend.topo = true) : (applyTopo s).act = applyFields 5 s.act s.pend := by
  have hgood : Good s.pending s.fuses (· = applyFields 5 s.act s.pend) (fun _ => True) (fun _ => True) (view (applyTopo s)) := by
    rw [applyTopo, if_pos hok]
    extract_lets was s1 _ s2
    have hs2 : Good s.pending s.fuses (· = applyFields 5 s.act s.pend) (fun _ => True) (fun _ => True) (view s2) := by
      unfold s2
      split
      · exact applyGroup_good_act h 5
      · exact loseLock_good _ (applyGroup_good_act h 5)
    exact relock_good _ (trainPorts_good _ hs2)
  obtain ⟨-, -, hact, -⟩ := hgood
  exact hact

theorem applyTime_act (h : Orderly s) (hmode : s.pend.timeMode.toNat ≤ 1) : (applyTime s).act = applyFields 8 s.act s.pend := by
  have hgood : Good s.pending s.fuses (· = applyFields 8 s.act s.pend) (fun _ => True) (fun _ => True) (view (applyTime s)) := by
    rw [applyTime, if_pos hmode]
    refine relock_good _ ?_
    split <;> exact applyGroup_good_act h 8
  obtain ⟨-, -, hact, -⟩ := hgood
  exact hact

/-- A waiting group whose safe point is now, with values in range, does nothing but apply. -/
theorem applyNow_of_safePoint {g : Nat} (h : s.cmt.pending.getLsbD g = true)
    (hsafe : g = 1 ∨ ((g = 2 ∨ g = 3 ∨ g = 4 ∨ g = 6) ∧ s.ple.images = []) ∨ (g = 7 ∧ noRing s = true) ∨
      (g = 0 ∧ tickStopped s = true ∧ timingBad s.pend.tick none = false) ∨
      (g = 9 ∧ tickStopped s = true ∧ 1000 ≤ s.pend.capW.toNat ∧ s.pend.capW.toNat ≤ 2500) ∨
      (g = 11 ∧ s.obs.traceState = .stopped ∧ traceBad s = false)) : applyNow s g = applyGroup g s := by
  obtain rfl | ⟨hg, hgraph⟩ | ⟨rfl, hring⟩ | ⟨rfl, hstop, hfits⟩ | ⟨rfl, hstop, hfits⟩ | ⟨rfl, hstop, hfits⟩ := hsafe
  · exact applyNow_seed h
  · exact applyNow_of_noGraph hg h hgraph
  · exact applyNow_queues h hring
  · rw [applyNow_timing h hstop, applyTiming_of_fits hfits]
  · rw [applyNow_cap h hstop, applyCap_of_fits hfits]
  · rw [applyNow_trace h hstop, applyTrace_of_fits hfits]

end

/-- Settles O33: each group by its safe point, and there by whether its values are in range. -/
theorem groupsApply : Obligations.GroupsApply := by
  refine ⟨fun g s => rfl, fun g s ha h hsafe => ⟨applyGroup g s, ?_, rfl, rfl, rfl, rfl, rfl⟩, fun s ha => ?_⟩
  · rw [exec_cmtGroupApply_of_alive ha, applyNow_of_safePoint h hsafe]
  · simp only [exec_cmtGroupApply_of_alive ha]
    refine ⟨fun h hgraph => ⟨fun hok => ⟨?topo, fun hs => applyTopo_act hs hok⟩, fun hbad => ?topoBad⟩,
      fun h hstop => ⟨fun hmode => ⟨?time, fun hs => applyTime_act hs hmode⟩, fun hbad => ?timeBad⟩, fun h => ?routing,
      fun h hstop => ⟨fun hfits => ?timing, fun hbad => ?timingBad⟩, fun h => ?seed, fun g hg h hgraph => ?noGraph,
      fun h hring => ?queues, fun h hstop => ⟨fun hfits => ?cap, fun hbad => ?capBad⟩,
      fun h hstop => ⟨fun hfits => ?trace, fun hbad => ?traceBad⟩, fun g h => ?free⟩
    case topo => rw [applyNow_topo h hgraph]
    case topoBad => rw [applyNow_topo h hgraph, applyTopo_of_bad hbad]
    case time => rw [applyNow_time h hstop]
    case timeBad => rw [applyNow_time h hstop, applyTime_of_bad hbad]
    case routing => rw [applyNow_routing h]
    case timing => rw [applyNow_timing h hstop, applyTiming_of_fits hfits]
    case timingBad => rw [applyNow_timing h hstop, applyTiming_of_bad hbad]
    case seed => rw [applyNow_seed h]
    case noGraph => rw [applyNow_of_noGraph hg h hgraph]
    case queues => rw [applyNow_queues h hring]
    case cap => rw [applyNow_cap h hstop, applyCap_of_fits hfits]
    case capBad => rw [applyNow_cap h hstop, applyCap_of_bad hbad]
    case trace => rw [applyNow_trace h hstop, applyTrace_of_fits hfits]
    case traceBad => rw [applyNow_trace h hstop, applyTrace_of_bad hbad]
    case free => rw [applyNow_of_free h]

/-! ### Register writes (12 R360, R361, R363, R364; 00 R8, R9) -/

/-- A register write that reaches its block writes by its size, after the held low word is dropped. -/
theorem exec_registerWrite_of_reaches {off size : Nat} {s : State} (ha : alignedAccess off size = true) (h : Reaches off s) (v : W64) :
    exec (.registerWrite off size v) s = .next (keepBad off size s
      (if size = 8 then writeEight off v (dropHeld off size s) else writeFour off (v.setWidth 32) (dropHeld off size s))) :=
  congrArg Host.Outcome.next (onBus_of_reaches _ ha h)

/-- Only a write of GLB_STATUS keeps BAD_ACCESS set. -/
theorem keepBad_of_other {off : Nat} (h : off / 8 ≠ 3) (size : Nat) (s t : State) : keepBad off size s t = t := by
  simp [keepBad, h]

/-- A 4-byte write to no half of a 64-bit register is one to the 32-bit register there. -/
theorem writeFour_of_narrow {off : Nat} {s : State} (h : rw64 s off = none) (hhigh : rw64 s (off - 4) = none) (hw : wide off = false)
    (hwhigh : wide (off - 4) = false) (v : W32) : writeFour off v s = write32 off v s := by
  simp [writeFour, h, hhigh, hw, hwhigh]

section
variable {off : Nat} {s : State} (ha : alignedAccess off 4 = true) (h : Reaches off s) (hother : off / 8 ≠ 3)
  (hlow : ∀ t, rw64 t off = none) (hhigh : ∀ t, rw64 t (off - 4) = none) (hw : wide off = false) (hwhigh : wide (off - 4) = false)
include ha h hother hlow hhigh hw hwhigh

/-- A 4-byte write that reaches a 32-bit register other than GLB_STATUS. -/
theorem exec_registerWrite_narrow (v : W64) :
    exec (.registerWrite off 4 v) s = .next (write32 off (v.setWidth 32) (dropHeld off 4 s)) := by
  rw [exec_registerWrite_of_reaches ha h, if_neg (by decide), keepBad_of_other hother,
    writeFour_of_narrow (hlow _) (hhigh _) hw hwhigh]

end

/-- An RWS field takes the write into its pending copy, and its group is dirty. -/
theorem stageWrite_of_free {g : Nat} {s : State} (h : s.cmt.pending.getLsbD g = false) (f : Staged → Staged) :
    stageWrite g f s = { s with pend := f s.pend, cmt := { s.cmt with dirty := putBit s.cmt.dirty g true } } := by
  simp [stageWrite, groupPending_eq, h]

/-- While the group's commit waits, the write is counted. -/
theorem stageWrite_of_pending {g : Nat} {s : State} (h : s.cmt.pending.getLsbD g = true) (f : Staged → Staged) :
    stageWrite g f s = { s with cmt := { s.cmt with stagedReject := satInc s.cmt.stagedReject } } := by
  simp [stageWrite, groupPending_eq, h]

/-- An 8-byte write discards a held low word, wherever it goes. -/
theorem dropsHeld_of_eight {off o : Nat} {w : W32} {s : State} (h : s.glb.held = some (o, w)) : dropsHeld off 8 s = true := by
  simp [dropsHeld, dropHeld, h]

/-- A write of GLB_STATUS that has dropped a held low word ends with BAD_ACCESS set. -/
theorem keepBad_badAccess {off size : Nat} {s : State} (hoff : off / 8 = 3) (h : dropsHeld off size s = true) (t : State) :
    (keepBad off size s t).glb.badAccess = true := by
  simp [keepBad, hoff, h]

/-- TKC_PERIOD is a staged field of the tick timing group (02 R34, Table 2.7). -/
theorem write32_tkcPeriod (v : W32) (s : State) :
    write32 0x70010 v s = stageWrite 0 (fun p => { p with tick := { p.tick with periodUs := v.setWidth 16 } }) s := rfl

/-- Settles O34: each write reaches its register, which takes its bits by its access type. -/
theorem registerWritesComplete : Obligations.RegisterWritesComplete := by
  intro v s
  refine ⟨fun t hreach ht hfree => ?staged, fun t hreach ht hpending => ?counted, fun t hreach ht => ?plain,
    fun t hreach ht => ?cleared, fun t hreach ht => ?noRegister, fun o w hreach hheld => ?held⟩
  case staged =>
    have hcmt : t.cmt = s.cmt := by rw [ht, dropHeld_cmt]
    rw [exec_registerWrite_narrow rfl hreach (by decide) (fun _ => rfl) (fun _ => rfl) rfl rfl, ← ht, write32_tkcPeriod,
      stageWrite_of_free (by rw [hcmt, hfree])]
  case counted =>
    have hcmt : t.cmt = s.cmt := by rw [ht, dropHeld_cmt]
    rw [exec_registerWrite_narrow rfl hreach (by decide) (fun _ => rfl) (fun _ => rfl) rfl rfl, ← ht, write32_tkcPeriod,
      stageWrite_of_pending (by rw [hcmt, hpending])]
  case plain =>
    rw [exec_registerWrite_of_reaches rfl hreach, if_pos rfl, keepBad_of_other (by decide), ← ht]
    rfl
  case cleared =>
    rw [exec_registerWrite_narrow rfl hreach (by decide) (fun _ => rfl) (fun _ => rfl) rfl rfl, ← ht]
    rfl
  case noRegister =>
    rw [exec_registerWrite_narrow rfl hreach (by decide) (fun _ => rfl) (fun _ => rfl) rfl rfl, ← ht]
    rfl
  case held =>
    exact ⟨_, exec_registerWrite_of_reaches rfl hreach v, keepBad_badAccess rfl (dropsHeld_of_eight hheld) _⟩

end Sys2Proof
end

section
/-!
PROOF. The statement of the fuses: every step, a command's or an idle one, keeps them but for a rollback index that rises.
-/
namespace Sys2Proof
open Machine

/-- A step of an orderly state answers an orderly one, with the queue's rest and the fuses but for a rollback index that has not
fallen. -/
theorem step_keeps {s : State} (h : Orderly s) : Keeps s.pending.tail s.fuses AnyRegs Eights Canon (step s) := by
  obtain ⟨hcells, hhost, hcount⟩ := h
  rw [step]
  split
  next hempty =>
    have hgood : Good s.pending.tail s.fuses AnyRegs Eights Canon (view s) := by
      rw [hempty]
      exact ⟨hempty, rfl, trivial, hcount, hcells, hhost⟩
    exact keeps_of_good (idle_good s hgood)
  next c rest hqueue =>
    have hgood : Good s.pending.tail s.fuses AnyRegs Eights Canon (view { s with pending := rest }) := by
      rw [hqueue]
      exact ⟨rfl, rfl, trivial, hcount, hcells, hhost⟩
    exact exec_keeps hgood c (fun _ => rfl) (fun _ => rfl) fun _ => rfl

/-- The fuses of a next state that keeps those of `s`. -/
theorem fusesKept_of_keeps {K : List Instr} {A : Staged → Prop} {T : W64 → Prop} {C : List Host.Cell → Prop} {s t : State}
    (h : Keeps K s.fuses A T C (.next t)) : FusesKept s t := by
  obtain ⟨n, hrises, -, hfuses, -⟩ := h
  have hfuses : t.fuses = { s.fuses with rollback := n } := hfuses
  rw [FusesKept, hfuses]
  exact ⟨hrises, rfl⟩

/-- Settles O6: by the frame of a step, command or idle. -/
theorem fusesOnlyRiseRollback : Obligations.FusesOnlyRiseRollback := by
  intro s t horder hstep
  have hkeeps := step_keeps horder
  rw [hstep] at hkeeps
  exact fusesKept_of_keeps hkeeps

end Sys2Proof
end

section
/-!
PROOF. The statements of the event controller: completions, the commands that let deliveries go on, the delivery of a vector and the rule
of masked vectors.
-/
namespace Sys2Proof
open Machine

/-! ### What a held low word does not touch (12 R361) -/

@[simp] theorem dropHeld_evc (off size : Nat) (s : State) : (dropHeld off size s).evc = s.evc := by
  obtain ⟨held, bad, he⟩ := dropHeld_eq off size s
  rw [he]

@[simp] theorem dropHeld_out (off size : Nat) (s : State) : (dropHeld off size s).out = s.out := by
  obtain ⟨held, bad, he⟩ := dropHeld_eq off size s
  rw [he]

@[simp] theorem sourceOf_dropHeld (off size : Nat) (s : State) (k : Nat) : sourceOf (dropHeld off size s) k = sourceOf s k := by
  rw [sourceOf, sourceOf, dropHeld_evc]

@[simp] theorem vecOf_dropHeld (off size : Nat) (s : State) (v : Nat) : vecOf (dropHeld off size s) v = vecOf s v := by
  rw [vecOf, vecOf, dropHeld_evc]

@[simp] theorem msixOf_dropHeld (off size : Nat) (s : State) (v : Nat) : msixOf (dropHeld off size s) v = msixOf s v := by
  rw [msixOf, msixOf, dropHeld_evc]

@[simp] theorem srcVector_dropHeld (off size : Nat) (s : State) (k : Nat) : srcVector (dropHeld off size s) k = srcVector s k := by
  rw [srcVector, srcVector, srcCfg, srcCfg, dropHeld_act]

@[simp] theorem vecDue_dropHeld (off size : Nat) (s : State) (v : Nat) : vecDue (dropHeld off size s) v = vecDue s v := by
  obtain ⟨held, bad, he⟩ := dropHeld_eq off size s
  rw [he]
  rfl

/-! ### Accesses that are aligned (12 R361) -/

theorem alignedAccess_four {off : Nat} (h : off % 4 = 0) : alignedAccess off 4 = true := by simp [alignedAccess, h]

theorem alignedAccess_eight {off : Nat} (h : off % 8 = 0) : alignedAccess off 8 = true := by simp [alignedAccess, h]

/-! ### Completions (13 R372, R377, R380) -/

section
variable {k : Nat} {s : State}

/-- The fast sources are edges. -/
theorem isLevel_of_fast (hk : isFast k = true) : isLevel k = false := by
  have hlow : k < 4 := of_decide_eq_true hk
  simp only [isLevel, Bool.or_eq_false_iff, beq_eq_false_iff_ne]
  omega

/-- A normal source that no longer asserts leaves the active state. -/
theorem complete_normal_of_active (hk : isFast k = false) (hactive : (sourceOf s k).host = .active)
    (hlevel : ((sourceOf s k).asserted && isLevel k) = false) :
    complete false k s = setSource k { sourceOf s k with host := .idle } s := by
  simp [complete, hk, hactive, hlevel, RouteState.completed]

/-- A normal source that raised again while it was active pends. -/
theorem complete_normal_of_activePending (hk : isFast k = false) (hactive : (sourceOf s k).host = .activePending) :
    complete false k s = hostPend k (setSource k { sourceOf s k with host := .pending } s) := by
  simp [complete, hk, hactive, RouteState.completed]

/-- A fast source that leaves the active state frees its vector for those that waited for it. -/
theorem complete_fast_of_active (hk : isFast k = true) (hactive : (sourceOf s k).host = .active) {u : State}
    (hu : u = setSource k { sourceOf s k with host := .idle } s) :
    complete true k s =
      ((u.evc.src.filter fun p => isFast p.1 && p.2.host == .pending && p.1 != k).map (·.1)).foldl (fun t j => checkFast j t)
        (freeFast k u) := by
  subst hu
  simp [complete, hk, hactive, isLevel_of_fast hk, RouteState.completed]

/-- A completion of a source that is not active is counted as spurious, in either bank. -/
theorem complete_of_inactive (h : (sourceOf s k).host = .idle ∨ (sourceOf s k).host = .pending) (bank : Bool) :
    complete bank k s = { s with evc := { s.evc with spuriousEoi := satInc s.evc.spuriousEoi } } := by
  rcases h with h | h <;> simp [complete, h]

end

theorem exec_evcEoi_of_reaches {s : State} (h : Reaches 0x4000C s) (k : BitVec 11) :
    exec (.evcEoi k) s = .next (complete false k.toNat (dropHeld 0x4000C 4 s)) :=
  congrArg Host.Outcome.next (onBus_of_reaches _ rfl h)

theorem exec_evcFastEoi_of_reaches {s : State} (h : Reaches 0x48000 s) (k : BitVec 11) :
    exec (.evcFastEoi k) s = .next (complete true k.toNat (dropHeld 0x48000 4 s)) :=
  congrArg Host.Outcome.next (onBus_of_reaches _ rfl h)

/-- Settles O24: by the class of the source and the state of its host route. -/
theorem endOfInterruptCompletes : Obligations.EndOfInterruptCompletes := by
  refine ⟨fun k s hreach hk hactive hlevel => ?idle, fun k s hreach hk hactive => ?pends, fun k s hreach hk hactive => ?fast,
    fun k s hinactive => ⟨fun hreach => ⟨_, rfl, ?spurious⟩, fun hreach => ⟨_, rfl, ?spuriousFast⟩⟩⟩
  case idle =>
    rw [exec_evcEoi_of_reaches hreach, complete_normal_of_active hk (by simpa using hactive) (by simpa using hlevel), sourceOf_dropHeld]
  case pends =>
    rw [exec_evcEoi_of_reaches hreach, complete_normal_of_activePending hk (by simpa using hactive), sourceOf_dropHeld]
  case fast =>
    refine ⟨_, _, rfl, rfl, ?_⟩
    rw [exec_evcFastEoi_of_reaches hreach, complete_fast_of_active hk (by simpa using hactive) (by rw [sourceOf_dropHeld])]
  case spurious =>
    rw [exec_evcEoi_of_reaches hreach, complete_of_inactive (by simpa using hinactive), dropHeld_evc]
  case spuriousFast =>
    rw [exec_evcFastEoi_of_reaches hreach, complete_of_inactive (by simpa using hinactive), dropHeld_evc]

/-! ### Deliveries (13 R375, R376) -/

section
variable {v : Nat} {s : State}

theorem checkVec_of_due (hdue : vecDue s v = true) (hfree : deliveryHeld s v = false) : checkVec v s = deliver v s := by
  simp [checkVec, hdue, hfree]

theorem checkVec_of_held (hdue : vecDue s v = true) (hheld : deliveryHeld s v = true) : checkVec v s = syncPba v s := by
  simp [checkVec, hdue, hheld]

theorem checkVec_of_not_due (hdue : vecDue s v = false) : checkVec v s = s := by simp [checkVec, hdue]

/-- A vector stored reads back. -/
theorem vecOf_setVec_self (s : State) (v : Nat) (x : Vec) : vecOf (setVec v x s) v = x :=
  SMap.get_set_self s.evc.vec v x idleVec

/-- The one message of a delivery. -/
theorem deliver_out (v : Nat) (s : State) : (deliver v s).out = s.out ++ [.msix v (msixOf s v).addr (msixOf s v).data] := by
  simp only [deliver]
  split <;> rfl

/-- A delivery clears the requests, the timer and the PBA bit of its vector. -/
theorem vecOf_deliver_self (v : Nat) (s : State) :
    vecOf (deliver v s) v = { vecOf s v with requests := 0, first := none, pba := false } := by
  simp only [deliver]
  split <;> exact vecOf_setVec_self _ _ _

/-- Only the arm bit of an armed vector is written to host memory. -/
theorem deliver_host_of_unarmed (h : armed s v = false) : (deliver v s).host = s.host := by
  simp only [deliver, h, Bool.false_eq_true, if_false]
  rfl

end

/-- Settles O26: with a condition met and nothing that holds delivery back the check of a vector is its delivery. -/
theorem deliverySendsOneMessage : Obligations.DeliverySendsOneMessage := by
  intro v s hdue hfree hunarmed
  rw [checkVec_of_due hdue hfree, vecOf_deliver_self]
  exact ⟨deliver_out v s, rfl, rfl, rfl, deliver_host_of_unarmed hunarmed⟩

/-! ### The commands that let deliveries go on (13 R375, R376, R378, R379) -/

theorem armLine_of_armed {line : Nat} {s : State} (hen : s.evc.armEn = true) (hheld : s.evc.armHeld = true) (halive : alive s = true)
    (hline : line < 4) (cs : List Host.Cell) : armLine line cs s =
      ((s.evc.vec.map (·.1)).filter fun v => v / 512 == line).foldl (fun t v => checkVec v t)
        { s with host := Memory.stores s.host cs } := by
  have halive' : alive { s with host := Memory.stores s.host cs } = true := halive
  simp [armLine, hen, hheld, halive', hline]

theorem vectorModTimeout_of_first {v t : Nat} {s : State} (hfirst : (vecOf s v).first = some t) (halive : alive s = true) :
    vectorModTimeout v s = checkVec v (advanceTo (t + modTime s v * usUnits) s) := by
  simp [vectorModTimeout, hfirst, halive]

/-- The MSI-X table answers whatever the device's state is (12 R362). -/
theorem exec_msixUnmask_of_powered {v : Nat} {s : State} (hv : v < 2048) (hpower : s.pwr.powered = true) (htrip : s.pwr.tripped = false) :
    exec (.msixUnmask v) s = .next (unmask v (dropHeld (0x200000 + 16 * v + 12) 4 s)) := by
  have hearly : earlyBlock (0x200000 + 16 * v + 12) = true := by
    simp only [earlyBlock, Bool.or_eq_true, Bool.and_eq_true, decide_eq_true_eq]
    omega
  have hexec : exec (.msixUnmask v) s = .next (onBus (0x200000 + 16 * v + 12) 4 (unmask v) s) := congrArg Host.Outcome.next (if_pos hv)
  rw [hexec, onBus_of_reaches _ (alignedAccess_four (by omega)) ⟨hpower, htrip, .inr hearly⟩]

/-- Settles O25: each command by the check of the vectors that it lets go on. -/
theorem deliveryCommandsComplete : Obligations.DeliveryCommandsComplete := by
  refine ⟨fun s hreach => ⟨_, rfl, congrArg Host.Outcome.next (onBus_of_reaches globalEnable rfl hreach)⟩,
    fun line cs s hen hheld halive hline => congrArg Host.Outcome.next (armLine_of_armed hen hheld halive hline cs),
    fun v t s hfirst halive hdue hfree => congrArg Host.Outcome.next ?timeout,
    fun v s hv hpower htrip => exec_msixUnmask_of_powered hv hpower htrip⟩
  case timeout => exact (vectorModTimeout_of_first hfirst halive).trans (checkVec_of_due hdue hfree)


/-! ### Masked vectors (13 R377, R378) -/

/-- An entry that a lookup finds is listed. -/
theorem SMap.mem_of_find {α : Type} {m : SMap α} {k : Nat} {x : α} (h : SMap.find m k = some x) : (k, x) ∈ m := by
  induction m with
  | nil => cases h
  | cons p rest ih =>
    rw [SMap.find] at h
    split at h
    next hkey =>
      obtain rfl := Option.some.inj h
      exact hkey ▸ List.mem_cons_self
    next => exact List.mem_cons_of_mem p (ih h)

/-- A source that pends on the host route is listed: one that is not reads as idle. -/
theorem mem_src_of_pending {k : Nat} {s : State} (h : (sourceOf s k).host = .pending) : (k, sourceOf s k) ∈ s.evc.src := by
  rw [sourceOf, SMap.get] at h ⊢
  cases hfind : SMap.find s.evc.src k with
  | none =>
    rw [hfind] at h
    cases h
  | some x => exact SMap.mem_of_find hfind

/-- A fast source that its vector could deliver: it pends, and no fast source is active there (13 R377). -/
def FastReady (k : Nat) (s : State) : Prop :=
  (sourceOf s k).host = .pending ∧ isFast k = true ∧ (vecOf s (srcVector s k)).fast = none

section
variable {v k : Nat} {s : State}

theorem deliveryHeld_of_masked (h : masked s v = true) : deliveryHeld s v = true := by simp [deliveryHeld, h]

theorem vecOf_syncPba_self (v : Nat) (s : State) :
    vecOf (syncPba v s) v = { vecOf s v with pba := masked s v && (vecDue s v || fastWaits s v) } :=
  vecOf_setVec_self s v _

theorem vecDue_syncPba_self (v : Nat) (s : State) : vecDue (syncPba v s) v = vecDue s v := by
  simp only [vecDue, vecOf_syncPba_self]
  rfl

theorem checkFast_of_not_ready (h : ¬FastReady k s) : checkFast k s = s := by
  simp only [checkFast]
  rw [if_neg]
  simpa [FastReady, and_assoc] using h

theorem checkFast_of_held (h : FastReady k s) (hheld : deliveryHeld s (srcVector s k) = true) :
    checkFast k s = syncPba (srcVector s k) s := by
  obtain ⟨hpends, hk, hnone⟩ := h
  simp [checkFast, hpends, hk, hnone, hheld]

/-- A ready fast source of a vector that may deliver sends the vector's message. -/
theorem checkFast_out_of_free (h : FastReady k s) (hfree : deliveryHeld s (srcVector s k) = false) :
    (checkFast k s).out = s.out ++ [.msix (srcVector s k) (msixOf s (srcVector s k)).addr (msixOf s (srcVector s k)).data] := by
  obtain ⟨hpends, hk, hnone⟩ := h
  simp only [checkFast, hpends, hk, hnone, hfree, beq_self_eq_true, Option.isNone_none, Bool.and_self, Bool.false_eq_true, if_true,
    if_false]
  rfl

/-- A ready fast source waits on its vector. -/
theorem fastWaits_of_ready (h : FastReady k s) : fastWaits s (srcVector s k) = true := by
  obtain ⟨hpends, hk, hnone⟩ := h
  rw [fastWaits, hnone, Option.isNone_none, Bool.true_and, List.any_eq_true]
  exact ⟨_, mem_src_of_pending hpends, by simp [hk, hpends]⟩

/-! A masked vector delivers nothing. -/

theorem checkVec_out_of_masked (h : masked s v = true) : (checkVec v s).out = s.out := by
  cases hdue : vecDue s v with
  | true => rw [checkVec_of_held hdue (deliveryHeld_of_masked h)]; rfl
  | false => rw [checkVec_of_not_due hdue]

theorem checkVec_pba_of_masked (h : masked s v = true) (hdue : vecDue s v = true) : (vecOf (checkVec v s) v).pba = true := by
  rw [checkVec_of_held hdue (deliveryHeld_of_masked h), vecOf_syncPba_self, h, hdue]
  rfl

theorem checkFast_out_of_masked (h : masked s (srcVector s k) = true) : (checkFast k s).out = s.out := by
  by_cases hready : FastReady k s
  · rw [checkFast_of_held hready (deliveryHeld_of_masked h)]
    rfl
  · rw [checkFast_of_not_ready hready]

theorem checkFast_pba_of_masked (h : masked s (srcVector s k) = true) (hready : FastReady k s) :
    (vecOf (checkFast k s) (srcVector s k)).pba = true := by
  rw [checkFast_of_held hready (deliveryHeld_of_masked h), vecOf_syncPba_self, h, fastWaits_of_ready hready, Bool.or_true]
  rfl

/-! A check sends only after what has been sent. -/

theorem checkVec_out_prefix (v : Nat) (s : State) : s.out <+: (checkVec v s).out := by
  cases hdue : vecDue s v with
  | false => rw [checkVec_of_not_due hdue]
  | true =>
    cases hheld : deliveryHeld s v with
    | true => rw [checkVec_of_held hdue hheld]; exact List.prefix_rfl
    | false => rw [checkVec_of_due hdue hheld, deliver_out]; exact List.prefix_append _ _

theorem checkFast_out_prefix (k : Nat) (s : State) : s.out <+: (checkFast k s).out := by
  by_cases hready : FastReady k s
  · cases hheld : deliveryHeld s (srcVector s k) with
    | true => rw [checkFast_of_held hready hheld]; exact List.prefix_rfl
    | false => rw [checkFast_out_of_free hready hheld]; exact List.prefix_append _ _
  · rw [checkFast_of_not_ready hready]

theorem foldl_checkFast_out_prefix (l : List Nat) (s : State) : s.out <+: (l.foldl (fun t k => checkFast k t) s).out := by
  induction l generalizing s with
  | nil => exact List.prefix_rfl
  | cons k rest ih => exact (checkFast_out_prefix k s).trans (ih _)

/-- Checks of a vector's fast sources leave the state as it is where none of them is ready, and else send the vector's message first. -/
theorem foldl_checkFast_idle_or_sends {l : List Nat} (hvec : ∀ k ∈ l, srcVector s k = v) (hfree : deliveryHeld s v = false) :
    (l.foldl (fun t k => checkFast k t) s = s ∧ ∀ k ∈ l, ¬FastReady k s) ∨
    s.out ++ [.msix v (msixOf s v).addr (msixOf s v).data] <+: (l.foldl (fun t k => checkFast k t) s).out := by
  induction l with
  | nil => exact .inl ⟨rfl, fun _ hk => nomatch hk⟩
  | cons k rest ih =>
    obtain ⟨rfl, hrest⟩ := List.forall_mem_cons.mp hvec
    rw [List.foldl_cons]
    by_cases hready : FastReady k s
    · exact .inr (checkFast_out_of_free hready hfree ▸ foldl_checkFast_out_prefix rest _)
    · rw [checkFast_of_not_ready hready]
      exact (ih hrest).imp_left fun ⟨hsame, hnone⟩ => ⟨hsame, List.forall_mem_cons.mpr ⟨hready, hnone⟩⟩

end

/-! The unmask. -/

/-- The state of `s` with the mask bit of vector `v` cleared, and with it the vector's PBA bit. -/
def unmasked (v : Nat) (s : State) : State :=
  syncPba v { s with evc := { s.evc with msix := SMap.set s.evc.msix v { msixOf s v with masked := false } resetMsix } }

/-- The fast sources that pend on vector `v`. -/
def fastPending (v : Nat) (s : State) : List Nat :=
  (s.evc.src.filter fun p => isFast p.1 && p.2.host == .pending && srcVector s p.1 == v).map (·.1)

section
variable {v k : Nat} {s : State}

/-- An unmask checks the vector's pending fast sources before the vector. -/
theorem unmask_eq (v : Nat) (s : State) :
    unmask v s = checkVec v ((fastPending v s).foldl (fun t k => checkFast k t) (unmasked v s)) := rfl

theorem mem_fastPending : k ∈ fastPending v s ↔ ∃ x, (k, x) ∈ s.evc.src ∧ isFast k = true ∧ x.host = .pending ∧ srcVector s k = v := by
  simp [fastPending, and_assoc]

theorem msixOf_unmasked_self (v : Nat) (s : State) : msixOf (unmasked v s) v = { msixOf s v with masked := false } :=
  SMap.get_set_self s.evc.msix v _ resetMsix

theorem vecDue_unmasked_self (v : Nat) (s : State) : vecDue (unmasked v s) v = vecDue s v :=
  vecDue_syncPba_self v _

/-- Only the function mask, DISABLE and HALTED can still hold a vector's delivery back. -/
theorem deliveryHeld_unmasked_self (hfunc : s.evc.funcMask = false) (hdisable : s.evc.globalDisable = false)
    (hhalt : s.glb.state ≠ .halted) : deliveryHeld (unmasked v s) v = false := by
  have hfunc' : (unmasked v s).evc.funcMask = false := hfunc
  have hdisable' : (unmasked v s).evc.globalDisable = false := hdisable
  have hhalt' : (unmasked v s).glb.state ≠ .halted := hhalt
  simp [deliveryHeld, masked, msixOf_unmasked_self, hfunc', hdisable', hhalt']

/-- An unmask does not touch what makes a fast source ready. -/
theorem fastReady_unmasked (h : FastReady k s) : FastReady k (unmasked (srcVector s k) s) := by
  obtain ⟨hpends, hk, hnone⟩ := h
  exact ⟨hpends, hk, (congrArg Vec.fast (vecOf_syncPba_self _ _)).trans hnone⟩

/-- Where only the vector's mask bit holds back what is due, the unmask sends the vector's message before any other. -/
theorem unmask_out_prefix (hfree : deliveryHeld (unmasked v s) v = false)
    (hdue : vecDue s v = true ∨ ∃ k, FastReady k s ∧ srcVector s k = v) :
    s.out ++ [.msix v (msixOf s v).addr (msixOf s v).data] <+: (unmask v s).out := by
  have hmsg : s.out ++ [.msix v (msixOf s v).addr (msixOf s v).data] =
      (unmasked v s).out ++ [.msix v (msixOf (unmasked v s) v).addr (msixOf (unmasked v s) v).data] := by
    rw [msixOf_unmasked_self]
    rfl
  have hvec : ∀ k ∈ fastPending v s, srcVector (unmasked v s) k = v := fun k hk => by
    obtain ⟨x, -, -, -, hvec⟩ := mem_fastPending.mp hk
    exact hvec
  rw [unmask_eq, hmsg]
  rcases foldl_checkFast_idle_or_sends hvec hfree with ⟨hsame, hnone⟩ | hsends
  · have hrequests : vecDue s v = true := hdue.resolve_right fun ⟨k, hready, hk⟩ => by
      subst hk
      have ⟨hpends, hfast, _⟩ := hready
      exact hnone k (mem_fastPending.mpr ⟨_, mem_src_of_pending hpends, hfast, hpends, rfl⟩) (fastReady_unmasked hready)
    rw [hsame, checkVec_of_due ((vecDue_unmasked_self v s).trans hrequests) hfree, deliver_out]
  · exact hsends.trans (checkVec_out_prefix v _)

end

/-- Settles O27: a masked vector's checks only set its PBA bit, and the unmask checks its fast sources and then the vector. -/
theorem maskedVectorRule : Obligations.MaskedVectorRule := by
  intro v s
  refine ⟨fun hmask => ⟨checkVec_out_of_masked hmask, checkVec_pba_of_masked hmask, ?fast⟩,
    fun hv hpower htrip hfunc hdisable hhalt hdue => ?unmasked⟩
  case fast =>
    rintro k rfl
    exact ⟨checkFast_out_of_masked hmask, fun hk hpends hnone => checkFast_pba_of_masked hmask ⟨hpends, hk, hnone⟩⟩
  case unmasked =>
    obtain ⟨t, ht⟩ : ∃ t, t = dropHeld (0x200000 + 16 * v + 12) 4 s := ⟨_, rfl⟩
    have hfree : deliveryHeld (unmasked v t) v = false :=
      deliveryHeld_unmasked_self (by rwa [ht, dropHeld_evc]) (by rwa [ht, dropHeld_evc]) (by rwa [ht, dropHeld_state])
    have hdue' : vecDue t v = true ∨ ∃ k, FastReady k t ∧ srcVector t k = v := by
      rw [ht, vecDue_dropHeld]
      refine hdue.imp_right ?_
      rintro ⟨k, hk, hpends, rfl, hnone⟩
      exact ⟨k, ⟨by rwa [sourceOf_dropHeld], hk, by rwa [srcVector_dropHeld, vecOf_dropHeld]⟩, srcVector_dropHeld _ _ _ _⟩
    obtain ⟨rest, hrest⟩ := unmask_out_prefix hfree hdue'
    refine ⟨unmask v t, rest, ht ▸ exec_msixUnmask_of_powered hv hpower htrip, ?_⟩
    rw [← hrest, ht, msixOf_dropHeld, dropHeld_out, List.append_assoc]
    rfl

end Sys2Proof
end

section
/-!
PROOF. The statements of the mailboxes and of firmware behind them: the commands it answers, its update and the recovery load.
-/
namespace Sys2Proof
open Machine

/-! ### Mailboxes (13 R383) -/

@[simp] theorem dropHeld_mbx (off size : Nat) (s : State) : (dropHeld off size s).mbx = s.mbx := by
  obtain ⟨held, bad, he⟩ := dropHeld_eq off size s
  rw [he]

section
variable {b : Nat} {s : State}

theorem boxWrite_of_empty (h : boxFull s b = false) (w : W64) : boxWrite b w s = raise (0x100 + b) w
    { s with mbx := { s.mbx with full := putBit s.mbx.full b true, word := SMap.put s.mbx.word b w } } := by
  simp [boxWrite, h]

/-- Only the driver's mailboxes have a REJECT bit. -/
theorem boxWrite_of_full (hb : b < 16) (h : boxFull s b = true) (w : W64) :
    boxWrite b w s = { s with mbx := { s.mbx with reject := putBit s.mbx.reject b true } } := by
  simp [boxWrite, h, hb]

/-- Taking the word of a full mailbox empties it. -/
theorem boxTake_of_full (h : boxFull s b = true) : boxTake b s = (boxWord s b, dropBox b s) := by
  simp [boxTake, h, dropBox]

theorem boxTake_of_empty (h : boxFull s b = false) : boxTake b s = (0, s) := by simp [boxTake, h]

/-- The mailboxes answer whatever the device's state is (12 R362). -/
theorem earlyBlock_of_mbx {off : Nat} (h : off / 0x10000 = 5) : earlyBlock off = true := by simp [earlyBlock, h]

theorem exec_mbxSend_of_powered (hb : b < 16) (hpower : s.pwr.powered = true) (htrip : s.pwr.tripped = false) (w : W64) :
    exec (.mbxSend b w) s = .next (boxWrite b w (dropHeld (0x50000 + 8 * b) 8 s)) := by
  have hexec : exec (.mbxSend b w) s = .next (onBus (0x50000 + 8 * b) 8 (boxWrite b w) s) := congrArg Host.Outcome.next (if_pos hb)
  rw [hexec, onBus_of_reaches _ (alignedAccess_eight (by omega)) ⟨hpower, htrip, .inr (earlyBlock_of_mbx (by omega))⟩]

end

/-! The receive registers: the read of MBX_RECVn at its offset. -/

section
variable {n : Nat} {s : State} (hn : n < 16)
include hn

/-- The register of MB(16+n) reads the mailbox's word, an empty one 0. -/
theorem readWord_mbxRecv : readWord s (0x50080 + 8 * n) = if boxFull s (16 + n) then boxWord s (16 + n) else 0 := by
  have hblock : (0x50080 + 8 * n) / 0x10000 = 5 := by omega
  have hoff : (0x50080 + 8 * n) % 0x10000 = 0x80 + 8 * n := by omega
  have hindex : indexIn (0x80 + 8 * n) 0x80 16 = some n := by
    rw [indexIn, if_pos (by omega), Nat.add_sub_cancel_left, Nat.mul_div_cancel_left n (by decide)]
  rw [readWord, if_neg (by omega), if_neg (by omega)]
  simp only [hblock, hoff, readMbx, hindex]

theorem takeRecv_mbxRecv : takeRecv (0x50080 + 8 * n) s = sendOwed n (boxTake (16 + n) s).2 := by
  have hbox : recvBox (0x50080 + 8 * n) = some (16 + n) := by
    rw [recvBox, if_pos (by omega), Nat.add_sub_cancel_left, Nat.mul_div_cancel_left n (by decide)]
  rw [takeRecv, hbox]
  exact congrArg (sendOwed · _) (Nat.add_sub_cancel_left 16 n)

theorem exec_mbxRecv_of_powered (hpower : s.pwr.powered = true) (htrip : s.pwr.tripped = false) :
    exec (.mbxRecv (16 + n)) s = .next (emit (.readData (if boxFull s (16 + n) then boxWord s (16 + n) else 0))
      (sendOwed n (boxTake (16 + n) s).2)) := by
  have haligned : alignedAccess (0x50080 + 8 * n) 8 = true := alignedAccess_eight (by omega)
  have hearly : earlyBlock (0x50080 + 8 * n) = true := earlyBlock_of_mbx (by omega)
  have hread : busRead (0x50080 + 8 * n) 8 s = (true, s) := by simp [busRead, hpower, htrip, haligned, hearly]
  have hexec : exec (.mbxRecv (16 + n)) s = .next (registerRead (0x50080 + 8 * n) 8 s) := by
    have hbox : (decide (16 ≤ 16 + n) && decide (16 + n < 32)) = true := by
      rw [Bool.and_eq_true, decide_eq_true_eq, decide_eq_true_eq]
      omega
    exact congrArg Host.Outcome.next ((if_pos hbox).trans (by rw [Nat.add_sub_cancel_left]))
  rw [hexec]
  simp [registerRead, hpower, htrip, hread, readWord_mbxRecv hn, takeRecv_mbxRecv hn]

end

/-- Settles O37: a send by whether its mailbox is full, a receive as the read of its register. -/
theorem mailboxesComplete : Obligations.MailboxesComplete := by
  refine ⟨fun b w s t hb hpower htrip ht => ?send, fun b s hlow hhigh hpower htrip => ?receive⟩
  case send =>
    have hfull : boxFull t b = boxFull s b := by rw [ht, boxFull, boxFull, dropHeld_mbx]
    rw [exec_mbxSend_of_powered hb hpower htrip, ← ht, ← hfull]
    exact ⟨fun h => by rw [boxWrite_of_empty h], fun h => by rw [boxWrite_of_full hb h]⟩
  case receive =>
    obtain ⟨n, rfl⟩ := Nat.exists_eq_add_of_le hlow
    rw [exec_mbxRecv_of_powered (by omega) hpower htrip, Nat.add_sub_cancel_left]
    exact ⟨fun h => by rw [if_pos h, boxTake_of_full h]; rfl, fun h => by rw [h, boxTake_of_empty h]; rfl⟩

/-! ### The commands that firmware serves (13 R386, Tables 13.8, 13.9) -/

/-- A command whose turn it is waits in its mailbox. -/
theorem boxFull_of_turn {p : Nat} {s : State} (h : turnOf s p = true) : boxFull s p = true := by
  simp only [turnOf, Bool.and_eq_true] at h
  obtain ⟨⟨⟨⟨-, hfull⟩, -⟩, -⟩, -⟩ := h
  exact hfull

/-- Taking a command whose turn it is empties its mailbox and changes nothing else. -/
theorem boxTake_snd_of_turn {p : Nat} {s : State} (h : turnOf s p = true) : (boxTake p s).2 = dropBox p s := by
  rw [boxTake_of_full (boxFull_of_turn h)]

@[simp] theorem hostFailed_dropBox (a p : Nat) (s : State) : hostFailed a (dropBox p s) = hostFailed a s := rfl

@[simp] theorem glbStatus_dropBox (p : Nat) (s : State) : glbStatus (dropBox p s) = glbStatus s := rfl

@[simp] theorem updateStatus_dropBox (p : Nat) (s : State) : updateStatus (dropBox p s) = updateStatus s := rfl

section
variable {p : Nat} {s : State} (hturn : turnOf s p = true) (hstate : s.glb.state ≠ .recovery) (hbusy : s.mbx.busy.contains p = false)
include hturn hstate hbusy

/-- Outside RECOVERY, with no command of the pair without a reply, a command whose turn it is has its effect. -/
theorem serve_of_turn {ops : Nat → Bool} (hop : ops (fwOp (boxWord s p)) = true) (run : Nat → W64 → State → State) :
    serve ops run p s = run p (boxWord s p) (dropBox p s) := by
  have hbusy' : (dropBox p s).mbx.busy.contains p = false := hbusy
  have hstate' : (dropBox p s).glb.state ≠ .recovery := hstate
  simp only [serve, hturn, hop, boxTake_of_full (boxFull_of_turn hturn), hbusy', Bool.true_and, beq_iff_eq, hstate',
    Bool.false_eq_true, if_true, if_false]

theorem ping_of_turn (hop : fwOp (boxWord s p) = 0x01) :
    ping p s = reply p (boxWord s p) 0 s.glb.fwVersion.toNat (dropBox p s) := by
  rw [ping, serve_of_turn hturn hstate hbusy (by rw [hop]; rfl), if_pos hop, dropBox_glb]

/-- A reserved operation is answered with BAD_OP. -/
theorem ping_of_reserved (hop : reservedOp (fwOp (boxWord s p)) = true) :
    ping p s = reply p (boxWord s p) 0x02 0 (dropBox p s) := by
  have hne : fwOp (boxWord s p) ≠ 0x01 := fun h => by
    rw [h] at hop
    cases hop
  rw [ping, serve_of_turn hturn hstate hbusy (by rw [hop, Bool.or_true]), if_neg hne]

theorem stateOp_of_turn (hop : fwOp (boxWord s p) = 0x02) :
    stateOp p s = reply p (boxWord s p) 0 (glbStatus s).toNat (dropBox p s) := by
  rw [stateOp, serve_of_turn hturn hstate hbusy (by rw [hop]; rfl), glbStatus_dropBox]

theorem updateStatusOp_of_turn (hop : fwOp (boxWord s p) = 0x21) :
    updateStatusOp p s = reply p (boxWord s p) 0 (updateStatus s).toNat (dropBox p s) := by
  rw [updateStatusOp, serve_of_turn hturn hstate hbusy (by rw [hop]; rfl), updateStatus_dropBox]

theorem crumbRead_of_turn (hop : fwOp (boxWord s p) = 0x10) :
    crumbRead p s = if hostFailed (64 * fwArg (boxWord s p)) s then reply p (boxWord s p) 0x05 0 (hostAsked (dropBox p s))
      else reply p (boxWord s p) 0 (s.store.log.flatMap Crumb.bytes).length
        (hostWrite (hostAsked (dropBox p s)) (64 * fwArg (boxWord s p)) (s.store.log.flatMap Crumb.bytes)) := by
  rw [crumbRead, serve_of_turn hturn hstate hbusy (by rw [hop]; rfl), hostFailed_dropBox, dropBox_store]

end

/-- Settles O38: each operation by its service. -/
theorem firmwareCommandsComplete : Obligations.FirmwareCommandsComplete := by
  rintro p s t w hturn hstate hbusy rfl rfl
  rw [boxTake_snd_of_turn hturn]
  exact ⟨fun hop => congrArg Host.Outcome.next (ping_of_turn hturn hstate hbusy hop),
    fun hop => congrArg Host.Outcome.next (ping_of_reserved hturn hstate hbusy hop),
    fun hop => congrArg Host.Outcome.next (stateOp_of_turn hturn hstate hbusy hop),
    fun hop => congrArg Host.Outcome.next (crumbRead_of_turn hturn hstate hbusy hop),
    fun hop => congrArg Host.Outcome.next (updateStatusOp_of_turn hturn hstate hbusy hop)⟩

/-! ### FW_UPDATE (13 R390, R391) -/

/-- The checks of an image look at the fuses and at nothing else of the device. -/
theorem imageCheck_of_fuses {s t : State} (h : t.fuses = s.fuses) (img : List Byte) : imageCheck t img = imageCheck s img := by
  simp only [imageCheck, h]

/-- The image that a host buffer holds: its header, and as much more as the header's length allows. -/
def hostImage (a : Nat) (s : State) : List Byte :=
  hostRead s a 4096 ++ hostRead s (a + 4096) (if lengthOk (imgLength (hostRead s a 4096)) then imgLength (hostRead s a 4096) else 0)

/-- The device `s` with the image in its firmware region and its checks under way (13 R391 steps 1, 2). -/
def imageLoaded (img : List Byte) (s : State) : State :=
  setUpdate 2 0 img (devWrite (firmwareRegion s) img (setUpdate 1 0 img (hostAsked s)))

/-- The device `s` with a good image staged for the flash, and the reply to its command `w` still due (13 R391 step 3). -/
def imageStaged (p : Nat) (w : W64) (img : List Byte) (s : State) : State :=
  { s with
    sec := { s.sec with staged := some (p, w.toNat, img) }
    mbx := { s.mbx with busy := s.mbx.busy ++ [p] } }

/-- An answer of the host and a command taken change neither host memory nor the maps of module memory. -/
theorem hostImage_hostAsked_dropBox (a p : Nat) (s : State) : hostImage a (hostAsked (dropBox p s)) = hostImage a s := by
  have hread : ∀ x n, hostRead (hostAsked (dropBox p s)) x n = hostRead s x n := fun _ _ => rfl
  simp only [hostImage, hread]

theorem firmwareRegion_hostAsked (s : State) : firmwareRegion (hostAsked s) = firmwareRegion s := by
  have hcolumn : columnOn (hostAsked s) = columnOn s := rfl
  simp only [firmwareRegion, hcolumn]

section
variable {p : Nat} {s : State} (hturn : turnOf s p = true) (hstate : s.glb.state ≠ .recovery) (hbusy : s.mbx.busy.contains p = false)
  (hop : fwOp (boxWord s p) = 0x20) (hfree : s.sec.staged = none)
include hturn hstate hbusy hop hfree

/-- A host read that fails ends the update with ACCESS. -/
theorem fwUpdate_of_failed (hfails : hostFailed (64 * fwArg (boxWord s p)) s = true) :
    fwUpdate p s = reply p (boxWord s p) 0x05 0 (setUpdate 5 0x05 [] (setUpdate 1 0 [] (hostAsked (dropBox p s)))) := by
  rw [fwUpdate, serve_of_turn hturn hstate hbusy (by rw [hop]; rfl), hostFailed_dropBox, if_pos hfails, if_neg]
  rw [dropBox_sec, hfree]
  decide

/-- An image that is read is loaded and checked: a good one is staged, a bad one ends the update with its result. -/
theorem fwUpdate_of_read (hreads : hostFailed (64 * fwArg (boxWord s p)) s = false) {img : List Byte}
    (himg : img = hostImage (64 * fwArg (boxWord s p)) s) {u : State} (hu : u = imageLoaded img (dropBox p s)) :
    fwUpdate p s = if imageCheck s img ≠ 0 then reply p (boxWord s p) (imageCheck s img) 0 (setUpdate 5 (imageCheck s img) img u)
      else imageStaged p (boxWord s p) img (setUpdate 3 0 img u) := by
  have hnone : ¬(dropBox p s).sec.staged.isSome = true := by
    rw [dropBox_sec, hfree]
    decide
  rw [fwUpdate, serve_of_turn hturn hstate hbusy (by rw [hop]; rfl), hostFailed_dropBox, hreads, if_neg hnone, if_neg Bool.false_ne_true]
  extract_lets t a head n read r loaded checked
  have hread : img = read := himg.trans (hostImage_hostAsked_dropBox a p s).symm
  have hfuses : t.fuses = s.fuses := rfl
  have hr : imageCheck s img = r := (imageCheck_of_fuses hfuses img).symm.trans (congrArg (imageCheck t) hread)
  have hchecked : u = checked := by rw [hu, hread, imageLoaded, ← firmwareRegion_hostAsked]
  clear_value r checked read
  subst hr hchecked hread
  rfl

end

/-- The flash write has ended: the store holds the image, or none that verifies, and the update its result (13 R391 step 4). -/
def imageStored (ok : Bool) (img : List Byte) (s : State) : State :=
  setUpdate (if ok then 4 else 5) (if ok then 0 else 6) img
    { s with
      store := { s.store with image := if ok then img else [] }
      sec := { s.sec with staged := none } }

section
variable {p w : Nat} {img : List Byte} {s : State} (hruns : firmwareRuns s = true) (hstaged : s.sec.staged = some (p, w, img)) (ok : Bool)
include hruns hstaged

/-- A command whose reply is not due any more, its core having restarted, gets none. -/
theorem fwUpdateComplete_of_idle (hidle : s.mbx.busy.contains p = false) : fwUpdateComplete ok s = imageStored ok img s := by
  simp only [fwUpdateComplete, hruns, hstaged, hidle, Bool.not_true, Bool.false_eq_true, if_false]
  rfl

theorem fwUpdateComplete_of_busy (hbusy : s.mbx.busy.contains p = true) {u : State} (hu : u = imageStored ok img s) :
    fwUpdateComplete ok s = reply p (BitVec.ofNat 64 w) (if ok then 0 else 6) 0
      { u with mbx := { u.mbx with busy := u.mbx.busy.filter fun q => q != p } } := by
  simp only [fwUpdateComplete, hruns, hstaged, hbusy, Bool.not_true, Bool.false_eq_true, if_false, if_true, hu]
  rfl

end

/-- Settles O39: an update by its host read and its image's checks, a completion by whether the reply is still due. -/
theorem firmwareUpdatesComplete : Obligations.FirmwareUpdatesComplete := by
  refine ⟨?update, fun p w img ok s hruns hstaged hidle => congrArg Host.Outcome.next (fwUpdateComplete_of_idle hruns hstaged ok hidle),
    fun p w img ok s u hruns hstaged hbusy hu => congrArg Host.Outcome.next (fwUpdateComplete_of_busy hruns hstaged ok hbusy hu)⟩
  case update =>
    rintro p s t u w img hturn hstate hbusy rfl rfl hop hfree himg hu
    rw [boxTake_snd_of_turn hturn] at hu ⊢
    have hexec : exec (.fwUpdate p) s = .next (fwUpdate p s) := rfl
    rw [hexec]
    cases hfails : hostFailed (64 * fwArg (boxWord s p)) s with
    | true =>
      rw [fwUpdate_of_failed hturn hstate hbusy hop hfree hfails]
      exact ⟨fun _ => ⟨_, rfl, rfl⟩, fun _ => rfl⟩
    | false =>
      rw [fwUpdate_of_read hturn hstate hbusy hop hfree hfails himg hu]
      exact ⟨fun hgood => ⟨_, rfl, by rw [if_neg (not_not.mpr hgood)]; rfl⟩, fun hbad => by rw [if_pos hbad]; rfl⟩

/-! ### RECOVERY_LOAD (13 R386, R392) -/

section
variable {s : State}

/-- A good image goes to flash, and after the reply the device boots again. -/
theorem recoveryLoad_of_good {w : W64} {img : List Byte} (h : recoveryCheck true s = some (w, 0, img)) {u : State}
    (hu : u = reply 0 w 0 0 { (boxTake 0 s).2 with store := { (boxTake 0 s).2.store with image := img } }) :
    recoveryLoad true s = deviceReset { u with sec := { u.sec with recovered := true } } := by
  simp [recoveryLoad, h, hu]

/-- Where no load is due, a RECOVERY command of pair 0 outside RECOVERY is refused with BAD_OP. -/
theorem recoveryLoad_of_refused {ok : Bool} (h : recoveryCheck ok s = none) (hstate : s.glb.state ≠ .recovery) (hturn : turnOf s 0 = true)
    (hop : fwOp (boxWord s 0) = 0x30) (hbusy : s.mbx.busy.contains 0 = false) :
    recoveryLoad ok s = reply 0 (boxWord s 0) 0x02 0 (dropBox 0 s) := by
  have hfirst : ((List.range 16).find? fun p => turnOf s p && fwOp (boxWord s p) == 0x30) = some 0 :=
    List.find?_cons_of_pos (by rw [hturn, hop]; rfl)
  have hserve := serve_of_turn hturn hstate hbusy (ops := fun op => op == 0x30) (by rw [hop]; rfl) fun p w s => reply p w 0x02 0 s
  simp only [recoveryLoad, h, hfirst, beq_iff_eq, hstate, if_false, hserve]

end

/-- Settles O40: by what the check of the recovery window says. -/
theorem recoveryLoadCompletes : Obligations.RecoveryLoadCompletes := by
  refine ⟨fun s u w img hgood hu => congrArg Host.Outcome.next (recoveryLoad_of_good hgood hu),
    fun s hnone hstate hturn hop hbusy => congrArg Host.Outcome.next ?refused⟩
  case refused => rw [boxTake_snd_of_turn hturn, ← recoveryLoad_of_refused hnone hstate hturn hop hbusy]

end Sys2Proof
end

section
/-!
PROOF. The statement of the security processor and the sideband: SPDM, the keys of IDE, MCTP and PLDM.
-/
namespace Sys2Proof
open Machine

/-! ### SPDM and the keys of IDE (13 R395, 12 R356; log entries 26, 157) -/

section
variable {tr : SpdmTransport} {s : State} (hserved : spdmServed tr s = true)
include hserved

theorem spdmRequest_getCertificate : spdmRequest tr .getCertificate s = emit (.spdm tr 0 s.store.certChain) s := by
  simp [spdmRequest, hserved]

/-- A key exchange with a session left opens it; its answer's content is a free value. -/
theorem spdmRequest_keyExchange_of_free (h : sessions tr s < 2) : spdmRequest tr .keyExchange s =
    emit (.spdm tr 0 (leBytes 8 (takeFree s).1.toNat)) (setSessions tr (sessions tr s + 1) (takeFree s).2) := by
  simp [spdmRequest, hserved, Nat.not_le.mpr h]

theorem spdmRequest_keyExchange_of_full (h : 2 ≤ sessions tr s) : spdmRequest tr .keyExchange s = emit (.spdm tr spdmBusy []) s := by
  simp [spdmRequest, hserved, h]

theorem spdmRequest_endSession_of_open (h : 0 < sessions tr s) :
    spdmRequest tr .endSession s = emit (.spdm tr 0 []) (setSessions tr (sessions tr s - 1) s) := by
  simp [spdmRequest, hserved, Nat.pos_iff_ne_zero.mp h]

end

section
variable {st sub : Nat} {s : State}

/-- Inside a DOE session a key for one of three streams is stored. -/
theorem ideKmKey_of_known (hserved : spdmServed .doe s = true) (hsession : 0 < s.sec.doe)
    (hstreams : (insertNat st (ideStreams s)).length ≤ 3) (key : BitVec 256) : ideKmKey st sub key s =
      { s with sec := { s.sec with ideKeys := SMap.set s.sec.ideKeys (8 * st + sub % 8) key 0 } } := by
  simp [ideKmKey, hserved, hsession, hstreams]

/-- A key for a fourth stream is dropped (log entry 157). -/
theorem ideKmKey_of_fourth (hstreams : 3 < (insertNat st (ideStreams s)).length) (key : BitVec 256) : ideKmKey st sub key s = s := by
  simp [ideKmKey, Nat.not_le.mpr hstreams]

end

/-! ### MCTP and PLDM (16 R460, Tables 16.3, 16.4; 15 R446) -/

section
variable {s : State} (hpower : s.pwr.powered = true)
include hpower

theorem mctpControl_of_setEndpoint (eid : Byte) :
    mctpControl 1 eid s = emit (.sideband sbMctp [1, 0, eid]) { s with sec := { s.sec with mctpEid := eid } } := by
  simp [mctpControl, sideband, hpower]

theorem mctpControl_of_other {cmd : Byte} (h : cmd ≠ 1) (eid : Byte) :
    mctpControl cmd eid s = emit (.sideband sbMctp [cmd, 0, s.sec.mctpEid]) s := by
  simp only [mctpControl, sideband, hpower, h, Bool.not_true, Bool.false_eq_true, if_false]

/-- PLDM serves the types 0, 2, 4 and 0x3F (16 Table 16.3). -/
theorem pldmBase_of_types : pldmBase 4 s = emit (.sideband sbPldm [4, 0, 0, 2, 4, 0x3F]) s := by
  simp [pldmBase, sideband, hpower]

theorem pldmBase_of_other {cmd : Byte} (h : cmd ≠ 4) :
    pldmBase cmd s = emit (.sideband sbPldm ([cmd, 0] ++ leBytes 4 (takeFree s).1.toNat)) (takeFree s).2 := by
  simp only [pldmBase, sideband, hpower, h, Bool.not_true, Bool.false_eq_true, if_false]

/-- Sensors 1 to 7 read their place in the refreshed list. -/
theorem sensorRead_of_sensor (hserved : sensorsServed s = true) {n : Nat} (hlow : 1 ≤ n) (hhigh : n ≤ 7) :
    sensorRead n s = emit (.sideband sbPldm (0 :: leBytes 2 (s.pwr.sensors.getD (n - 1) 0))) s := by
  simp [sensorRead, sideband, hpower, hserved, hlow, hhigh]

/-- Sensor 16 is the boot state, which stands last in the list. -/
theorem sensorRead_of_bootState (hserved : sensorsServed s = true) :
    sensorRead 16 s = emit (.sideband sbPldm (0 :: leBytes 2 (s.pwr.sensors.getD 7 0))) s := by
  simp [sensorRead, sideband, hpower, hserved]

theorem fruRead_of_powered : fruRead s = emit (.sideband sbPldm
    (0 :: wordsBytes [glbIdent s, s.fuses.serial] ++ orderingCode s ++ leBytes 4 s.glb.fwVersion.toNat)) s := by
  simp [fruRead, sideband, hpower]

theorem crumbRange_of_log {c : Crumb} {rest : List Crumb} (h : s.store.log = c :: rest) :
    crumbRange s = emit (.sideband sbPldm (0 :: leBytes 4 c.seq.toNat ++ leBytes 4 s.store.mramSeq.toNat)) s := by
  simp [crumbRange, sideband, hpower, h]

theorem crumbEntries_of_count {n : Nat} (hlow : 1 ≤ n) (hhigh : n ≤ 32) (k : W32) : crumbEntries k n s = emit (.sideband sbPldm
    (0 :: (s.store.log.filter fun c => decide ((c.seq - k).toNat < n)).flatMap Crumb.bytes)) s := by
  have hcount : ¬(n = 0 ∨ 32 < n) := by omega
  simp only [crumbEntries, sideband, hpower, hcount, Bool.not_true, Bool.false_eq_true, if_false]

end

theorem sensorRefresh_of_served {s : State} (h : sensorsServed s = true) (a b : BitVec 16) : sensorRefresh a b s =
    { s with pwr := { s.pwr with
        inletC10 := a, outletC10 := b
        sensors := [s.pwr.volt.toNat, s.pwr.power.toNat, s.pwr.computeC.toNat, s.pwr.otherC.toNat, a.toNat, b.toNat,
          s.pwr.aclk.toNat, s.glb.state.code] } } := by
  simp [sensorRefresh, h]

/-- Settles O41: each request by its answer. -/
theorem sidebandServicesComplete : Obligations.SidebandServicesComplete := by
  refine ⟨fun tr s hserved => ⟨congrArg Host.Outcome.next (spdmRequest_getCertificate hserved),
      fun h => congrArg Host.Outcome.next (spdmRequest_keyExchange_of_free hserved h),
      fun h => congrArg Host.Outcome.next (spdmRequest_keyExchange_of_full hserved h),
      fun h => congrArg Host.Outcome.next (spdmRequest_endSession_of_open hserved h)⟩,
    fun st sub key s hserved hsession => ⟨fun h => congrArg Host.Outcome.next (ideKmKey_of_known hserved hsession h key),
      fun h => congrArg Host.Outcome.next (ideKmKey_of_fourth h key)⟩,
    fun cmd eid s hpower => ⟨?setEndpoint, fun h => congrArg Host.Outcome.next (mctpControl_of_other hpower h eid), ?types,
      fun h => congrArg Host.Outcome.next (pldmBase_of_other hpower h)⟩,
    fun s hpower => ⟨fun n hserved hlow hhigh => congrArg Host.Outcome.next (sensorRead_of_sensor hpower hserved hlow hhigh),
      fun hserved => congrArg Host.Outcome.next (sensorRead_of_bootState hpower hserved),
      fun a b hserved => congrArg Host.Outcome.next (sensorRefresh_of_served hserved a b),
      congrArg Host.Outcome.next (fruRead_of_powered hpower),
      fun c rest h => congrArg Host.Outcome.next (crumbRange_of_log hpower h),
      fun k n hlow hhigh => congrArg Host.Outcome.next (crumbEntries_of_count hpower hlow hhigh k)⟩⟩
  case setEndpoint =>
    rintro rfl
    exact congrArg Host.Outcome.next (mctpControl_of_setEndpoint hpower eid)
  case types =>
    rintro rfl
    exact congrArg Host.Outcome.next (pldmBase_of_types hpower)

end Sys2Proof
end

section
/-!
PROOF. The statement of the boot: each event in the state that waits for it.
-/
namespace Sys2Proof
open Machine

section
variable {s : State} (hboot : booting s = true)
include hboot

/-! ### The crystal and the image (13 R388-R391, 14 R403) -/

theorem xtalStable_of_bootRom (hstate : s.glb.state = .bootRom) : xtalStable s = enterState .fwLoad (noteClocks
    ((domainCodes.filter fun c => c != 0).foldl
      (fun s c => setDomain c { source := .pll, low := 0, inReset := false, outOfService := false } s)
      (setDomain 0 { domainOf s 0 with source := .crystal } { s with clk := { s.clk with xtalOk := true } }))) := by
  simp only [xtalStable, hboot, hstate, beq_self_eq_true, Bool.and_self, if_true]

theorem xtalBootTimeout_of_bootRom (hstate : s.glb.state = .bootRom) : xtalBootTimeout s = halt s := by
  simp [xtalBootTimeout, hboot, hstate]

/-- An image that passes its checks starts firmware, with its rollback index blown where that is higher. -/
theorem fwImageLoaded_of_good (hstate : s.glb.state = .fwLoad) (hgood : imageCheck s s.store.image = 0) :
    fwImageLoaded s = startFirmware
      { s with
        fuses := { s.fuses with rollback := max s.fuses.rollback (min 64 (imgNat s.store.image 8 1)) }
        sec := { s.sec with
          verified := true, imageRollback := BitVec.ofNat 8 (imgNat s.store.image 8 1), fwDigest := imgBytes s.store.image 0x080 32 }
        glb := { s.glb with fwVersion := BitVec.ofNat 32 (imgNat s.store.image 4 4) } } := by
  simp only [fwImageLoaded, hboot, hstate, hgood, beq_self_eq_true, Bool.and_self, if_true]

theorem fwImageLoaded_of_bad (hstate : s.glb.state = .fwLoad) (hbad : imageCheck s s.store.image ≠ 0) :
    fwImageLoaded s = enterState .recovery s := by
  simp [fwImageLoaded, hboot, hstate, hbad]

/-! ### Memory, link and fabric (13 R388, Table 13.12; 12 R349) -/

/-- With every unit trained and a column in service the boot goes on to LINK, and past it where the link is up already. -/
theorem memTrainingDone_of_trained (hstate : s.glb.state = .memTrain) (hcolumn : ((List.range 1024).any fun c => columnOn s c) = true)
    {t : State} (ht : t = enterState .link { s with mem := { s.mem with nearTrained := true, farTrained := true } }) :
    memTrainingDone [] [] s = if s.glb.linkUp then enterState .fabric t else t := by
  simp only [memTrainingDone, hboot, hstate, beq_self_eq_true, Bool.and_self, if_true, List.flatMap_nil, List.filter_nil, List.foldl_nil,
    hcolumn, ht]

/-- A trained link is up in every state of the boot; LINK ends with it. -/
theorem cxlLinkTrained_of_live {r : Nat} (hr : r ≤ 64) (hstate : s.glb.state ≠ .halted) (w : Nat) (f : Bool) {t : State}
    (ht : t = holdLines { s with glb := { s.glb with linkUp := true, cacheMem := linkFull w f, linkDegraded := !linkFull w f } }) :
    cxlLinkTrained w r f s = if s.glb.state = .link then enterState .fabric t else t := by
  simp [cxlLinkTrained, hboot, hr, hstate, ht]

theorem fabricReady_of_fabric (hstate : s.glb.state = .fabric) : fabricReady s = enterState .ready s := by
  simp [fabricReady, hboot, hstate]

end

/-- Settles O42: each event by its service. -/
theorem bootCommandsComplete : Obligations.BootCommandsComplete := fun _ hboot =>
  ⟨fun hstate => ⟨⟨_, rfl, congrArg Host.Outcome.next (xtalStable_of_bootRom hboot hstate)⟩,
      congrArg Host.Outcome.next (xtalBootTimeout_of_bootRom hboot hstate)⟩,
    fun hstate => ⟨fun hgood => congrArg Host.Outcome.next (fwImageLoaded_of_good hboot hstate hgood),
      fun hbad => congrArg Host.Outcome.next (fwImageLoaded_of_bad hboot hstate hbad)⟩,
    fun hstate hcolumn => congrArg Host.Outcome.next (memTrainingDone_of_trained hboot hstate hcolumn rfl),
    fun w _ f hr hstate => ⟨_, rfl, congrArg Host.Outcome.next (cxlLinkTrained_of_live hboot hr hstate w f rfl)⟩,
    fun hstate => congrArg Host.Outcome.next (fabricReady_of_fabric hboot hstate)⟩

end Sys2Proof
end

section
/-!
PROOF. The statements of a step and of reset: what a step runs, the order that every step keeps, and the values at reset.
-/
namespace Sys2Proof
open Machine

/-- Settles O1: a step takes the front of the queue. -/
theorem frontCommandRuns : Obligations.FrontCommandRuns := fun _ _ => rfl

/-- Settles O3: each value by computation. -/
theorem resetValues : Obligations.ResetValues :=
  ⟨rfl, rfl, rfl, rfl, rfl, rfl, rfl, rfl, rfl, rfl, rfl, rfl, rfl, rfl, rfl, rfl⟩

/-- What the frame laws keep of an orderly state is its order. -/
theorem orderly_of_keeps {K : List Instr} {U : Fuses} {A : Staged → Prop} {t : State} (h : Keeps K U A Eights Canon (.next t)) :
    Orderly t := by
  obtain ⟨-, -, -, -, -, hcount, hcells, hhost⟩ := h
  exact ⟨hcells, hhost, hcount⟩

/-- Settles O4: by the frame of a step, command or idle. -/
theorem everyStepKeepsOrder : Obligations.EveryStepKeepsOrder := fun _ _ horder hstep =>
  orderly_of_keeps (hstep ▸ step_keeps horder)

/-- Settles O5: at reset both memories are empty and the count is 0. -/
theorem resetIsOrderly : Obligations.ResetIsOrderly := ⟨rfl, rfl, rfl⟩

end Sys2Proof
end

section
/-!
PROOF. The statements of observation: the TRACE_CTL rows, the writes of TRACE_RUN and the drain, samples, and the services of the crumb log,
the fault buckets and the rings' head words.
-/
namespace Sys2Proof
open Machine

/-! ### TRACE_CTL (15 R438, R440, R441, Table 15.8) -/

/-- A due row of TRACE_CTL takes its own action: what makes a command due looks at the row's checks alone. -/
theorem traceCtl_of_op {op q : Nat} {d : Desc} {s s0 : State} {c : Cmd} {act : Desc → State → State}
    (hdue : Due opTraceCtl (traceMeaning act) q d s c s0) (hop : traceOp d = op) (own : Desc → State → State) :
    traceCtl op own q d s = leaves q c (.finished okResult) s0 (own d s0) := by
  have hown : Due opTraceCtl (traceMeaning own) q d s c s0 := hdue
  have hbody : (traceMeaning own).body q (ringOf s0 q) c s0 = (.finished okResult, own d s0) := by
    rw [← hdue.desc_eq]
    rfl
  rw [traceCtl, if_pos (.inl hop), runCmd_of_body hown hbody Phase.noConfusion]

/-- Settles O19: each row by its action. -/
theorem traceControlsComplete : Obligations.TraceControlsComplete := fun _ _ _ _ _ _ hdue =>
  ⟨fun h => congrArg Host.Outcome.next (traceCtl_of_op hdue h _), fun h => congrArg Host.Outcome.next (traceCtl_of_op hdue h _),
    fun h => congrArg Host.Outcome.next (traceCtl_of_op hdue h _), fun h => congrArg Host.Outcome.next (traceCtl_of_op hdue h _),
    fun h => congrArg Host.Outcome.next (traceCtl_of_op hdue h _)⟩

/-! ### TRACE_RUN and the drain (15 R437, R438) -/

@[simp] theorem dropHeld_obs (off size : Nat) (s : State) : (dropHeld off size s).obs = s.obs := by
  obtain ⟨held, bad, he⟩ := dropHeld_eq off size s
  rw [he]

/-- Idle service changes only its own list. -/
theorem serveBg_eq (i u : Nat) (s : State) : ∃ served, serveBg i u s = { s with tkc := { s.tkc with bgServed := served } } := by
  rw [serveBg]
  split <;> exact ⟨_, rfl⟩

@[simp] theorem serveBg_obs (i u : Nat) (s : State) : (serveBg i u s).obs = s.obs := by
  obtain ⟨served, he⟩ := serveBg_eq i u s
  rw [he]

@[simp] theorem serveBg_host (i u : Nat) (s : State) : (serveBg i u s).host = s.host := by
  obtain ⟨served, he⟩ := serveBg_eq i u s
  rw [he]

@[simp] theorem serveBg_act (i u : Nat) (s : State) : (serveBg i u s).act = s.act := by
  obtain ⟨served, he⟩ := serveBg_eq i u s
  rw [he]

@[simp] theorem devWriteLine_act (a : Nat) (bs : List Byte) (s : State) : (devWriteLine a bs s).act = s.act := by
  simp only [devWriteLine, snoopLine]
  split
  · rfl
  · split <;> rfl

/-- A write of device memory leaves the active registers, whatever form the memories have. -/
@[simp] theorem devWrite_act (a : Nat) (bs : List Byte) (s : State) : (devWrite a bs s).act = s.act := by
  have hlines (l : List (Nat × List Byte)) (t : State) : (l.foldl (fun s p => devWriteLine p.1 p.2 s) t).act = t.act := by
    induction l generalizing t with
    | nil => rfl
    | cons p rest ih => rw [List.foldl_cons, ih, devWriteLine_act]
  rw [devWrite, hlines, markDirty]
  split <;> rfl

@[simp] theorem traceStore_act (slot : Nat) (r : TraceRec) (s : State) : (traceStore slot r s).act = s.act := by
  rw [traceStore]
  split
  · exact devWrite_act ..
  · rfl

@[simp] theorem tracePut_act (r : TraceRec) (s : State) : (tracePut r s).act = s.act := by
  simp only [tracePut, count_act, traceStore_act]

/-- A running continuous buffer takes a record in its next slot. -/
theorem traceDrain1_of_continuous {s : State} (hrun : s.obs.traceState = .running) (hmode : s.act.traceMode = 0) (r : TraceRec) :
    traceDrain1 r s = tracePut r s := by
  simp only [traceDrain1, hrun, tracePut_act, hmode]
  rfl

theorem traceDrain1_of_stopped {s : State} (hstop : s.obs.traceState = .stopped) (r : TraceRec) : traceDrain1 r s = s := by
  rw [traceDrain1, hstop]

/-- One drain takes the oldest record of the FIFO. -/
theorem exec_traceDrain_one {s : State} {r : TraceRec} {rest : List TraceRec} (ha : alive s = true) (hfifo : s.obs.fifo = r :: rest) :
    exec (.traceDrain 1) s = .next
      (traceDrain1 r { serveBg 5 0x3003 s with obs := { (serveBg 5 0x3003 s).obs with fifo := rest } }) := by
  have hfifo' : (serveBg 5 0x3003 s).obs.fifo = r :: rest := by rw [serveBg_obs, hfifo]
  refine congrArg Host.Outcome.next ?_
  rw [traceDrain, if_pos ha]
  change traceDrainN (0 + 1) _ = _
  rw [traceDrainN, hfifo']
  rfl

/-- Settles O20: a write by whether TRACE_RUN is set already, a drain by the state of the buffer. -/
theorem traceRunAndDrainComplete : Obligations.TraceRunAndDrainComplete := by
  refine ⟨fun s hreach => ?_, fun s r rest ha hfifo => ⟨fun hrun hmode => ⟨_, rfl, ?_⟩, fun hstop => ⟨_, rfl, ?_⟩⟩⟩
  · have hreaches (f : State → State) : onBus 0xC0000 4 f s = f (dropHeld 0xC0000 4 s) := onBus_of_reaches f rfl hreach
    refine ⟨fun h => ?_, fun h => ?_, congrArg Host.Outcome.next (hreaches traceEnd)⟩ <;>
      exact congrArg Host.Outcome.next ((hreaches traceSet).trans (by rw [traceSet, dropHeld_obs, h]; rfl))
  · rw [exec_traceDrain_one ha hfifo, traceDrain1_of_continuous (by simpa using hrun) (by simpa using hmode)]
  · rw [exec_traceDrain_one ha hfifo, traceDrain1_of_stopped (by simpa using hstop)]

/-! ### One set of a sample (15 R432, R433) -/

theorem length_leBytes (k n : Nat) : (leBytes k n).length = k := by
  induction k generalizing n with
  | zero => rfl
  | succ k ih => rw [leBytes, List.length_cons, ih]

theorem length_wordsBytes (ws : List W64) : (wordsBytes ws).length = 8 * ws.length := by
  simp [wordsBytes, List.length_flatMap, length_leBytes, Nat.mul_comm]

/-- A sample record is 64 bytes of header and 8 for each captured value (Table 15.3). -/
theorem length_sampleRecord (s : State) (cause k : Nat) (values : List Nat) :
    (sampleRecord s cause k values).length = 64 + 8 * values.length := by
  simp only [sampleRecord, length_wordsBytes, List.length_append, List.length_map, List.length_cons, List.length_nil]
  omega

/-- A run of `n` bytes just written reads back. -/
theorem read_write_of_length {m : List Host.Cell} (w : Memory.wf m = true) (a : Nat) {bs : List Byte} {n : Nat} (h : bs.length = n) :
    Memory.read (Memory.write m a bs) a n = bs :=
  h ▸ Memory.read_write_self w a bs

/-- A set of a sample finds no room: sampling is off, or the ring is full. -/
def NoSampleRoom (s : State) : Prop :=
  s.obs.sampleEn = false ∨ ringFull s.obs.sampleSeq s.obs.sampleHead (bits s.obs.sampleBase 4 0) = true

/-- What dropped sets leave: the count of drops and the two marks. -/
def sampleDropped (drops : W32) (s : State) : State :=
  { s with obs := { s.obs with sampleDrops := drops, sampleDrop := true, sampleLost := true } }

theorem sampleSet_of_no_room {s : State} (h : NoSampleRoom s) (cause : Nat) (s0 : State) (k : Nat) :
    sampleSet cause s0 k s = sampleDropped (satInc s.obs.sampleDrops) s := by
  refine if_pos ?_
  rcases h with h | h <;> simp [h]

/-- With room a set is a record at the next slot of 576 bytes, and a new sequence number. -/
theorem sampleSet_of_room {s : State} (hon : s.obs.sampleEn = true)
    (hroom : ringFull s.obs.sampleSeq s.obs.sampleHead (bits s.obs.sampleBase 4 0) = false) (cause : Nat) (s0 : State) (k : Nat)
    {t : State} (ht : t = hostWrite s
      (s.obs.sampleBase.toNat / 4096 * 4096 + 576 * (s.obs.sampleSeq.toNat % 2 ^ bits s.obs.sampleBase 4 0))
      (sampleRecord s cause k ((List.range 64).map fun i => deviceCtr s0 (64 * k + i)))) :
    sampleSet cause s0 k s = { t with obs := { t.obs with sampleSeq := t.obs.sampleSeq + 1, sampleLost := false } } := by
  subst ht
  refine if_neg ?_
  simp [hon, hroom]

/-- Settles O22: a set by whether its ring has room. -/
theorem sampleSetWritesOrDrops : Obligations.SampleSetWritesOrDrops := by
  refine fun cause k s0 s w => ⟨fun hon hroom => ?_, fun h => ?_⟩
  · rw [sampleSet_of_room hon hroom cause s0 k rfl]
    simp only [hostWrite_obs, hostWrite_host]
    exact ⟨trivial, trivial, Memory.wf_write _ _ w,
      read_write_of_length w _ (by rw [length_sampleRecord, List.length_map, List.length_range])⟩
  · rw [sampleSet_of_no_room h]
    exact ⟨rfl, rfl, rfl, rfl⟩

/-! ### SAMPLE_NOW (15 R433) -/

/-- Where there is no room every set of a sample is dropped. -/
theorem foldl_sampleSet_of_no_room {s : State} (h : NoSampleRoom s) (cause : Nat) (s0 : State) {sets : List Nat} (hsets : sets ≠ []) :
    ∃ drops, sets.foldl (fun t k => sampleSet cause s0 k t) s = sampleDropped drops s := by
  induction sets generalizing s with
  | nil => exact absurd rfl hsets
  | cons k rest ih =>
    rw [List.foldl_cons, sampleSet_of_no_room h]
    by_cases hrest : rest = []
    · exact ⟨_, by rw [hrest, List.foldl_nil]⟩
    · exact ih (s := sampleDropped _ s) h hrest

/-- A mask other than 0 names a set. -/
theorem filter_getLsbD_ne_nil {mask : W64} (h : mask ≠ 0) : ((List.range 64).filter fun k => mask.getLsbD k) ≠ [] := by
  intro hnil
  refine h (BitVec.eq_of_getLsbD_eq fun k hk => ?_)
  have hbit := List.filter_eq_nil_iff.mp hnil k (List.mem_range.mpr hk)
  simpa using hbit

/-- A sample without room leaves host memory and the sequence number, marks its drops and counts itself. -/
theorem takeSample_of_no_room {s : State} (h : NoSampleRoom s) (hgroup : groupPending s 12 = false) (cause : Nat) {mask : W64}
    (hmask : mask ≠ 0) {t : State} (ht : t = takeSample cause (fun _ => mask) s) :
    t.host = s.host ∧ t.obs.sampleSeq = s.obs.sampleSeq ∧ t.obs.sampleDrop = true ∧ t.obs.sampleLost = true ∧
      t.obs.sampleNo = s.obs.sampleNo + 1 := by
  obtain ⟨drops, hfold⟩ := foldl_sampleSet_of_no_room h cause s (filter_getLsbD_ne_nil hmask)
  rw [ht, takeSample, hgroup, if_neg Bool.false_ne_true]
  simp only [hfold, serveBg_obs, serveBg_host]
  exact ⟨rfl, rfl, rfl, rfl, rfl⟩

theorem exec_sampleNow_of_due {q : Nat} {d : Desc} {s s0 : State} {c : Cmd} (hdue : Due opSampleNow sampleNowMeaning q d s c s0) :
    exec (.sampleNow q d) s = .next (leaves q c (.finished okResult) s0
      (if d.w2 = 0 then s0 else takeSample 1 (fun _ => d.w2) s0)) :=
  exec_of_body rfl rfl hdue (by rw [← hdue.desc_eq]; rfl) Phase.noConfusion

/-- Settles O21: by whether SET_MASK names a set. -/
theorem sampleNowRule : Obligations.SampleNowRule := by
  intro q d s s0 c hdue
  have hexec := exec_sampleNow_of_due hdue
  refine ⟨fun h => ?_, fun h => ?_, fun h hgroup hroom => ⟨_, ?_, takeSample_of_no_room hroom hgroup 1 h rfl⟩⟩
  · rw [hexec, if_neg h]
  · rw [hexec, if_pos h]
  · rw [hexec, if_neg h]

/-! ### The services of observation (15 R431, R432, R444, R447; 13 R381) -/

theorem crumbFlush1_of_waiting {s : State} {c : Crumb} {rest : List Crumb} (h : s.obs.queue = c :: rest) :
    crumbFlush1 s = crumbSkip
      { s with
        obs := { s.obs with queue := rest }
        store := { s.store with log := (s.store.log ++ [c]).drop (s.store.log.length + 1 - 32768), mramSeq := c.seq } } := by
  rw [crumbFlush1, h]
  rfl

/-- Settles O23: each service by its equation. -/
theorem observationServicesComplete : Obligations.ObservationServicesComplete := by
  refine ⟨fun s c rest hpower hqueue => ?crumb, fun s ha => ?bucket, fun s cs ha => ⟨fun hon => ?event, fun hon => ?sample⟩,
    fun s ha hon hinterval => ⟨_, rfl, ?tick⟩⟩
  case crumb =>
    refine congrArg Host.Outcome.next ?_
    rw [if_pos hpower, crumbFlush1_of_waiting hqueue]
  case bucket => exact congrArg Host.Outcome.next (if_pos ha)
  case event =>
    refine congrArg Host.Outcome.next (if_pos ?_)
    rw [Bool.and_eq_true]
    exact ⟨hon, ha⟩
  case sample =>
    refine congrArg Host.Outcome.next (if_pos ?_)
    rw [Bool.and_eq_true]
    exact ⟨hon, ha⟩
  case tick =>
    refine congrArg Host.Outcome.next (if_pos ?_)
    rw [ha, hon, Bool.true_and, Bool.true_and]
    exact bne_iff_ne.mpr hinterval

end Sys2Proof
end

section
/-!
PROOF. The statements of clocks, resets and power: the device reset, the other sources of resets with D3hot and the power pins, and the
clock monitors with the measurements and their limits.
-/
namespace Sys2Proof
open Machine

/-! ### The device reset (14 R421, R423; 12 R368) -/

@[simp] theorem crumbKeep_store (c : Crumb) (s : State) : (crumbKeep c s).store = s.store := rfl

@[simp] theorem crumbSkip_store (s : State) : (crumbSkip s).store = s.store := by
  rw [crumbSkip]
  split
  · rfl
  · simp only [count_store, crumbKeep_store]

@[simp] theorem crumbQueue_store (c : Crumb) (s : State) : (crumbQueue c s).store = s.store := by
  rw [crumbQueue]
  split <;> rfl

/-- A crumb entry waits for MRAM, so that writing it leaves what outlives power. -/
@[simp] theorem crumb_store (kind subject : Nat) (payload : W64) (s : State) : (crumb kind subject payload s).store = s.store := by
  simp only [crumb, crumbQueue_store, count_store, crumbKeep_store, crumbSkip_store]

@[simp] theorem interruptUpdate_epoch (s : State) : (interruptUpdate s).store.epoch = s.store.epoch := by
  rw [interruptUpdate]
  split <;> rfl

/-- The state from which a device reset takes what survives it shows the parts that the frame laws follow as they were. -/
theorem view_beforeReset (s : State) : view (nextEpoch (crumb 0x21 3 2 (interruptUpdate s))) = view s := by
  rw [nextEpoch_view, crumb_view, interruptUpdate_view]

theorem deviceReset_host (s : State) : (deviceReset s).host = s.host := congrArg View.host (view_beforeReset s)

theorem deviceReset_fuses (s : State) : (deviceReset s).fuses = s.fuses := congrArg View.fuses (view_beforeReset s)

theorem deviceReset_count (s : State) : (deviceReset s).clk.count = s.clk.count := congrArg View.count (view_beforeReset s)

theorem deviceReset_bootAt (s : State) : (deviceReset s).glb.bootAt = s.clk.count := congrArg View.count (view_beforeReset s)

theorem deviceReset_epoch (s : State) : (deviceReset s).store.epoch = s.store.epoch + 1 := by
  change (crumb 0x21 3 2 (interruptUpdate s)).store.epoch + 1 = _
  rw [crumb_store, interruptUpdate_epoch]

@[simp] theorem dropHeld_store (off size : Nat) (s : State) : (dropHeld off size s).store = s.store := by
  obtain ⟨held, bad, he⟩ := dropHeld_eq off size s
  rw [he]

/-- GLB answers in every state of the boot, so that a device with power takes the write (12 R362). -/
theorem exec_glbDeviceReset_of_powered {s : State} (hpower : s.pwr.powered = true) (htrip : s.pwr.tripped = false) (key : W32) :
    exec (.glbDeviceReset key) s = .next (if key = 0x0000A5C3 then deviceReset (dropHeld 0x20 4 s) else dropHeld 0x20 4 s) :=
  congrArg Host.Outcome.next (onBus_of_reaches _ rfl ⟨hpower, htrip, .inr rfl⟩)

theorem exec_glbDeviceReset_of_key {s : State} (hpower : s.pwr.powered = true) (htrip : s.pwr.tripped = false) :
    exec (.glbDeviceReset 0x0000A5C3) s = .next (deviceReset (dropHeld 0x20 4 s)) := by
  rw [exec_glbDeviceReset_of_powered hpower htrip, if_pos rfl]

theorem exec_glbDeviceReset_of_other {s : State} (hpower : s.pwr.powered = true) (htrip : s.pwr.tripped = false) {key : W32}
    (hkey : key ≠ 0x0000A5C3) : exec (.glbDeviceReset key) s = .next (dropHeld 0x20 4 s) := by
  rw [exec_glbDeviceReset_of_powered hpower htrip, if_neg hkey]

/-- Settles O36: what survives comes from the state before the reset, everything else is the reset value. -/
theorem deviceResetCompletes : Obligations.DeviceResetCompletes := by
  refine ⟨fun s hpower htrip => ⟨_, exec_glbDeviceReset_of_key hpower htrip, rfl, ?bootAt, rfl, rfl, rfl, rfl, rfl, rfl, rfl, rfl, rfl,
      rfl, rfl, rfl, ?count, ?fuses, ?host⟩,
    fun _ _ hpower htrip hkey => exec_glbDeviceReset_of_other hpower htrip hkey, ?reaches⟩
  case bootAt => exact (deviceReset_bootAt _).trans (congrArg View.count (dropHeld_view ..))
  case count => exact (deviceReset_count _).trans (congrArg View.count (dropHeld_view ..))
  case fuses => exact (deviceReset_fuses _).trans (congrArg View.fuses (dropHeld_view ..))
  case host => exact (deviceReset_host _).trans (congrArg View.host (dropHeld_view ..))
  case reaches =>
    rintro key s _ ⟨hpower, htrip, -⟩ rfl
    refine ⟨fun hkey => ⟨hkey ▸ exec_glbDeviceReset_of_key hpower htrip, rfl, rfl, rfl, rfl, rfl, rfl, rfl, rfl, rfl, rfl,
        ?_, ?_, ?_, ?_⟩,
      exec_glbDeviceReset_of_other hpower htrip⟩
    · exact (deviceReset_host _).trans (congrArg View.host (dropHeld_view ..))
    · exact (deviceReset_fuses _).trans (congrArg View.fuses (dropHeld_view ..))
    · exact (deviceReset_count _).trans (congrArg View.count (dropHeld_view ..))
    · rw [deviceReset_epoch, dropHeld_store]

/-! ### The other sources of resets, D3hot and the power pins (14 R420-R422; 16 R462, R463; 12 R359) -/

section
variable {s : State} (hpower : s.pwr.powered = true)
include hpower

theorem powerOff_of_powered {t : State} (ht : t = crumbFlush (crumb 0x21 4 3 (interruptUpdate s))) :
    powerOff s = { coldState t with pwr := { resetPwr with powered := false } } := by
  rw [powerOff, if_pos hpower, ht]

variable (htrip : s.pwr.tripped = false)
include htrip

theorem rung3_of_powered : rung3 s = deviceReset s := by
  refine if_pos ?_
  simp [hpower, htrip]

theorem functionReset_of_powered {t : State} (ht : t = (ringContexts (fetchDisable (crumb 0x21 2 1 s))).foldl
      (fun s c => abortContext c none s) (fetchDisable (crumb 0x21 2 1 s))) :
    functionReset s = settleFlr { runClear t with glb := { (runClear t).glb with flr := true } } := by
  refine (if_neg ?_).trans (by rw [ht])
  simp [hpower, htrip]

theorem d3hotEntry_of_awake (hawake : s.glb.d3hot = false) :
    d3hotEntry s = setSleep (fun d => { d with source := .stopped, low := 0 })
      { runClear (fetchDisable s) with glb := { (runClear (fetchDisable s)).glb with d3hot := true } } := by
  refine if_neg ?_
  simp [hpower, htrip, hawake]

theorem d0Return_of_asleep (hasleep : s.glb.d3hot = true) :
    d0Return s = setSleep (fun d => { d with source := if d.outOfService then .crystal else .pll, low := 0 })
      { s with glb := { s.glb with d3hot := false } } := by
  refine if_neg ?_
  simp [hpower, htrip, hasleep]

end

theorem perstRelease_of_asserted {s : State} (h : s.pins.perstN = false) :
    perstRelease s = { s with pins := { s.pins with perstN := true }, glb := { s.glb with bootAt := s.clk.count } } := by
  refine if_neg ?_
  simp [h]

/-- An input within 46-60 V powers the device on. -/
theorem pwrEnAssert_of_input {s : State} {v : BitVec 16} (hoff : s.pwr.powered = false) (hlow : 4600 ≤ v.toNat) (hhigh : v.toNat ≤ 6000)
    {t : State} (ht : t = nextEpoch (coldState { s with pins := { s.pins with pwrEn := true } })) :
    pwrEnAssert v s = { t with obs := { resetObs with crumbSeq := t.store.mramSeq } } := by
  simp [pwrEnAssert, hoff, hlow, hhigh, ht]

/-- Settles O43: each source by its equation. -/
theorem resetsAndPowerComplete : Obligations.ResetsAndPowerComplete := by
  refine ⟨fun s hpower htrip => ⟨?hot, ⟨_, rfl, ?flr⟩, fun hpin => ?perst, fun hawake => ?d3hot, fun hasleep => ?d0⟩,
    fun s hpin => ?release, fun s t hpower ht => ⟨?loss, ?pwrEn⟩, fun v s t hoff hlow hhigh ht => ?powerOn⟩
  case hot => exact congrArg Host.Outcome.next (rung3_of_powered hpower htrip)
  case flr => exact congrArg Host.Outcome.next (functionReset_of_powered hpower htrip rfl)
  case perst =>
    refine congrArg Host.Outcome.next ?_
    rw [perstAssert, if_pos hpin, rung3_of_powered hpower htrip]
  case d3hot => exact congrArg Host.Outcome.next (d3hotEntry_of_awake hpower htrip hawake)
  case d0 => exact congrArg Host.Outcome.next (d0Return_of_asleep hpower htrip hasleep)
  case release => exact congrArg Host.Outcome.next (perstRelease_of_asserted hpin)
  case loss => exact congrArg Host.Outcome.next (powerOff_of_powered hpower ht)
  case pwrEn =>
    refine congrArg Host.Outcome.next ?_
    rw [pwrEnRelease, powerOff_of_powered hpower ht]
  case powerOn => exact congrArg Host.Outcome.next (pwrEnAssert_of_input hoff hlow hhigh ht)

/-! ### Clock monitors (14 R397-R400) -/

section
variable {c : Nat} {s : State} (hmon : monitored s c = true)
include hmon

/-- A second low window in a row declares the domain dead; one without an edge shows that it has stopped. -/
theorem monitorWindow_of_second_low {n : Nat} (hlow : 2 * n < expectedEdges s c) (hfirst : (domainOf s c).low = 1) {t : State}
    (ht : t = setDomain c { domainOf s c with low := 2, source := if n = 0 then .stopped else (domainOf s c).source } s) :
    monitorWindow c n s = declareDead c 0 (relock { t with clk := { t.clk with coarse := coarseNow t } }) := by
  have hcount : 2 = min 3 ((domainOf s c).low + 1) := by
    rw [hfirst]
    rfl
  rw [ht, hcount]
  exact (if_neg (by simp [hmon])).trans ((if_pos hlow).trans (if_pos hfirst))

theorem monitorWindow_of_good {n : Nat} (hgood : expectedEdges s c ≤ 2 * n) :
    monitorWindow c n s = setDomain c { domainOf s c with low := 0 } s := by
  exact (if_neg (by simp [hmon])).trans (if_neg (Nat.not_lt.mpr hgood))

theorem switchTimeout_of_monitored {t : State} (ht : t = setDomain c { domainOf s c with source := .stopped, low := 2 } s) :
    switchTimeout c s = declareDead c 1 (relock { t with clk := { t.clk with coarse := coarseNow t } }) := by
  exact (if_neg (by simp [hmon])).trans (by rw [ht])

end

/-! ### The forced path, relocks and the crystal (14 R401-R403; 15 R452) -/

section
variable {s : State} (hpower : s.pwr.powered = true) (htrip : s.pwr.tripped = false)
include hpower htrip

section
variable {c : Nat} (hdomain : c ≠ 0) (hcode : domainCodes.contains c = true) (hcrystal : (domainOf s 0).source = .crystal)
  (hstate : s.glb.state ≠ .bootRom)
include hdomain hcode hcrystal hstate

theorem forcedPath_of_dead (hdead : isDead s c = true) (hawake : (s.glb.d3hot && sleepDomains.contains c) = false) {t : State}
    (ht : t = noteClocks (setDomain c { domainOf s c with source := .crystal, inReset := false, low := 0 } s)) :
    forcedPath c s = noteClocks
      (setDomain c { domainOf s c with source := .pll, inReset := false, low := 0 } (forcedEffects c t)) := by
  refine (if_neg ?_).trans (by rw [ht])
  simp [hpower, htrip, hdomain, hcode, hdead, hcrystal, hstate, hawake, -List.contains_eq_mem]

/-- A failed relock is marked and counted. Then the domain of the control cores, of the host link or of the fabric's ports halts the
device, and any other takes its units out of service. -/
theorem relockFail_of_served (hserved : (domainOf s c).outOfService = false) {t : State}
    (ht : t = count (obsCtr 8) 1 (crumb 0x13 c 0
      (noteClocks (setDomain c { domainOf s c with source := .crystal, inReset := false, low := 0, outOfService := true } s)))) :
    relockFail c s =
      if c = 5 ∨ c = 6 ∨ c = 8 then halt t else (domainUnits t c).foldl (fun s u => outOfService u s) t := by
  refine (if_neg ?_).trans ?_
  · simp [hpower, htrip, hdomain, hcode, hcrystal, hstate, hserved, -List.contains_eq_mem]
  · simp only [← ht, Bool.or_eq_true, decide_eq_true_eq, or_assoc]

end

theorem xtalLoss_of_running (hcrystal : s.clk.xtalOk = true) :
    xtalLoss s = halt (crumb 0x11 0 0 (noteClocks (holdDomains
      (setDomain 0 { domainOf s 0 with source := .rc } { s with clk := { s.clk with xtalOk := false } })))) := by
  refine if_neg ?_
  simp [hpower, htrip, hcrystal]

/-! ### Measurements and their limits (14 R411-R415) -/

/-- At 115 °C the device trips; below, the three targets and the clock take their steps. -/
theorem powerMeasure_eq {v w : BitVec 16} {a b : Byte} {t u : State} (ht : t = advanceTo (s.pwr.lastMeasure.toNat + 100 * usUnits) s)
    (hu : u = { t with pwr := { t.pwr with
      volt := v, power := w, computeC := a, otherC := b, lastMeasure := t.clk.count
      inputOk := decide (4600 ≤ v.toNat) && decide (v.toNat ≤ 6000) } }) :
    powerMeasure v w a b s =
      if 115 ≤ max a.toNat b.toNat then thermTrip u else stepAclk (thermStep (thermMeasured (capStep w.toNat u))) := by
  subst hu ht
  refine if_neg ?_
  simp [hpower, htrip]

theorem thermThrottle_of_powered :
    thermThrottle s = stepAclk (thermStep (assertLevel 0x05 0 { s with pwr := { s.pwr with throttle := true } })) := by
  refine if_neg ?_
  simp [hpower, htrip]

theorem throttleEnd_of_powered :
    throttleEnd s = deassertLevel 0x05 { s with pwr := { s.pwr with throttle := false, thermBelow := 0 } } := by
  refine if_neg ?_
  simp [hpower, htrip]

theorem thermTrip_of_powered {t : State} (ht : t = crumb 0x12 0 ((pwrTemp s).setWidth 64) s) :
    thermTrip s = noteClocks (holdDomains
      { t with pwr := { t.pwr with tripped := true }, pins := { t.pins with thermtrip := true } }) := by
  refine (if_neg ?_).trans (by rw [ht])
  simp [hpower, htrip]

theorem pwrFail_of_pin (hidle : s.pwr.pfActive = false) (low : Bool) :
    pwrFail true low s = crumbFlush (raise 0x02 (at' 64 32 (pwrInput s).toNat ||| BitVec.ofNat 64 (1 + 2 * b2n low))
      { s with
        pins := { s.pins with pwrFailN := false }
        pwr := { s.pwr with floor := true, aclk := 500, pfActive := true, pfSeen := true } }) := by
  refine if_neg ?_
  simp [hpower, htrip, hidle]

/-! ### Watchdogs (13 R370) -/

/-- The core restarts; with its expiry the third within 10 minutes the device halts. -/
theorem watchdogExpiry_eq {c : Nat} (hc : c < 8) (hstate : s.glb.state ≠ .halted) {t : State} {recent : List Nat}
    (ht : t = restartCore c s) (hrecent : recent = (t.obs.watchdogs.filter fun x => decide (now t < x + 600 * secUnits)) ++ [now t]) :
    watchdogExpiry c s =
      if 3 ≤ recent.length then halt { t with obs := { t.obs with watchdogs := recent } }
      else { t with obs := { t.obs with watchdogs := recent } } := by
  subst hrecent ht
  refine if_neg ?_
  simp [hpower, htrip, hstate, hc]

end

/-- Settles O44: each event by its equation, and where that has a limit by the side of it. -/
theorem clockAndPowerCommandsComplete : Obligations.ClockAndPowerCommandsComplete := by
  refine ⟨fun c n s hmon => ⟨fun hlow hfirst => ⟨_, rfl, ?second⟩, fun hgood => ?good, ⟨_, rfl, ?switch⟩⟩,
    fun c s t hpower htrip hdomain hcode hdead hcrystal hstate hawake ht => ?forced,
    fun c s t hpower htrip hdomain hcode hserved hcrystal hstate ht => ⟨fun hmain => ?halts, fun h5 h6 h8 => ?units⟩,
    fun s hpower htrip hcrystal => ?crystal,
    fun s hpower htrip => ⟨fun v w a b => ⟨_, _, rfl, rfl, fun hcool => ?cool, fun hhot => ?hot⟩, ?throttle, ?throttleEnd,
      ⟨_, rfl, ?trip⟩, fun low hidle => ?fail, ?failEnd,
      fun c t recent hc hstate ht hrecent => ⟨fun hfew => ?restart, fun hthird => ?third⟩⟩⟩
  case second => exact congrArg Host.Outcome.next (monitorWindow_of_second_low hmon hlow hfirst rfl)
  case good => exact congrArg Host.Outcome.next (monitorWindow_of_good hmon hgood)
  case switch => exact congrArg Host.Outcome.next (switchTimeout_of_monitored hmon rfl)
  case forced => exact congrArg Host.Outcome.next (forcedPath_of_dead hpower htrip hdomain hcode hcrystal hstate hdead hawake ht)
  case halts =>
    exact congrArg Host.Outcome.next
      ((relockFail_of_served hpower htrip hdomain hcode hcrystal hstate hserved ht).trans (if_pos hmain))
  case units =>
    exact congrArg Host.Outcome.next
      ((relockFail_of_served hpower htrip hdomain hcode hcrystal hstate hserved ht).trans (if_neg (by simp [h5, h6, h8])))
  case crystal => exact congrArg Host.Outcome.next (xtalLoss_of_running hpower htrip hcrystal)
  case cool => exact congrArg Host.Outcome.next ((powerMeasure_eq hpower htrip rfl rfl).trans (if_neg (Nat.not_le.mpr hcool)))
  case hot => exact congrArg Host.Outcome.next ((powerMeasure_eq hpower htrip rfl rfl).trans (if_pos hhot))
  case throttle => exact congrArg Host.Outcome.next (thermThrottle_of_powered hpower htrip)
  case throttleEnd => exact congrArg Host.Outcome.next (throttleEnd_of_powered hpower htrip)
  case trip => exact congrArg Host.Outcome.next (thermTrip_of_powered hpower htrip rfl)
  case fail => exact congrArg Host.Outcome.next (pwrFail_of_pin hpower htrip hidle low)
  case failEnd => exact congrArg Host.Outcome.next (if_pos (by simp [hpower, htrip]))
  case restart =>
    exact congrArg Host.Outcome.next ((watchdogExpiry_eq hpower htrip hc hstate ht hrecent).trans (if_neg (Nat.not_le.mpr hfew)))
  case third => exact congrArg Host.Outcome.next ((watchdogExpiry_eq hpower htrip hc hstate ht hrecent).trans (if_pos hthird))

end Sys2Proof
end
